-- ==== Sys2Proof/Word.lean ====
section
/-! DEFINITION. Word types of the AW-940: 64-bit scalar values, bytes, register numbers (spec 00 R6, R7). -/

namespace Sys2Proof

/-- A scalar register value or an instruction word (R6, R7). -/
abbrev Word := BitVec 64
/-- The smallest addressable unit (R7). -/
abbrev Byte := BitVec 8
/-- Number of a g or v register (R289). -/
abbrev Reg := BitVec 5
/-- Number of a k register (R289). -/
abbrev KReg := BitVec 3
/-- Number of a stream port (R289). -/
abbrev PReg := BitVec 3
/-- A 512-bit towpath flit (R153). -/
abbrev FlitBits := BitVec 512

end Sys2Proof
end

