-- ==== Sys2Proof/Syntax/Operands.lean ====
section
/-! DEFINITION. Operand forms of the instruction words (spec 12 R288 to R290 and the instruction chapters) and the
data that host commands, links and other modules carry into the module. -/

namespace Sys2Proof

/-- The core an operation belongs to: stager or worker of a logical tile, or one of a feeder's four cores (R185, R383). -/
inductive CoreRef where
  | tile (id : Nat) (worker : Bool)
  | feeder (f core : Nat)
  deriving DecidableEq, Repr

/-- Condition of BCC (R307). -/
inductive BccCond where | eq | ne | lt | ge | ltu | geu
  deriving DecidableEq, Repr
/-- Condition of BPR (R307). -/
inductive BprCond where | any | none | all | nall
  deriving DecidableEq, Repr
/-- Sub-function of KOP (R325). -/
inductive KopOp where | and | or | xor | andn | not
  deriving DecidableEq, Repr
/-- Operation of AMO and RAMO (R335). -/
inductive AmoOp where | add | min | max | and | or | swap | cas
  deriving DecidableEq, Repr
/-- Lane type of a vector instruction (R345). -/
inductive VTy where | f | i | u
  deriving DecidableEq, Repr
/-- Condition of VCMP (R350). -/
inductive VCond where | eq | ne | lt | le | gt | ge
  deriving DecidableEq, Repr
/-- Operation of VSCAN (R356). -/
inductive ScanOp where | add | max | min
  deriving DecidableEq, Repr
/-- Source and destination types of VCVT (R352). -/
inductive CvtTy where | fp32 | i32 | u32 | bf16 | fp16 | dm8 | i8 | u8 | i16
  deriving DecidableEq, Repr
/-- Operation of FUPD (R388). -/
inductive FupdOp where | add | axpy | scal | copy | lerp | sqlerp
  deriving DecidableEq, Repr
/-- Operation of FRED (R389). -/
inductive FredOp where | sum | max | min | sumsq | amax
  deriving DecidableEq, Repr
/-- Element format of FUPD and FRED (R385). -/
inductive FFmt where | bf16 | fp16 | fp32
  deriving DecidableEq, Repr
/-- K-group class of MMUL and MMULW (R372). -/
inductive KGroup where | k4 | k8 | k16
  deriving DecidableEq, Repr

/-- An M-format operand: an address, or one step of a port (R290). -/
inductive MemOp where
  | addr (base idx : Reg) (off : BitVec 19)
  | port (p : PReg)
  deriving DecidableEq, Repr

/-- Second source of a vector instruction: a register or sext(IMM13) in every lane (R345). -/
inductive VSrc where
  | reg (r : Reg)
  | imm (i : BitVec 13)
  deriving DecidableEq, Repr

/-- A host command: the submission entry of R83 as a queue accepted it. -/
structure HostCmd where
  qid   : Nat
  cid   : BitVec 16
  opc   : BitVec 8
  flags : BitVec 8
  resv  : BitVec 32
  w1 : Word
  w2 : Word
  w3 : Word
  w4 : Word
  w5 : Word
  w6 : Word
  w7 : Word
  deriving DecidableEq, Repr

/-- A flit of the static class. `look` is the model's own: the flits of the same token still to come (log 11, DEDUCED). -/
structure Flit where
  bits : FlitBits
  look : List FlitBits
  deriving DecidableEq, Repr

/-- What a remote request asks of its target (R219, R221, R226, R232, R234). -/
inductive ReqKind where
  | load (size : Nat) (uns : Bool)
  | store (size : Nat) (data : Word)
  | amo (op : AmoOp) (uns dword : Bool) (operand compare : Word)
  | berth (taker : Word)
  | bview (taker : Word)
  /-- told: the core asks again because an offer came into force (R220) -/
  | btake (told : Bool)
  | btakeView (told : Bool)
  | tkt (n : Nat)
  | tserve (n : Nat) (k : BitVec 32)
  | tadv (n : Nat)
  /-- the close marker behind a migration's forwards (R233) -/
  | marker
  deriving DecidableEq, Repr

/-- A remote request (R51): its global address, the issuing crew's ASID, its issuer and request slot. -/
structure Req where
  srcMod : BitVec 13
  core   : CoreRef
  tag    : BitVec 16
  asid   : BitVec 16
  gaddr  : Word
  kind   : ReqKind
  /-- a store that the primary copy's interface writes into another copy (R230) -/
  copy   : Bool := false
  deriving DecidableEq, Repr

/-- The answer to a remote request (R53, R411). -/
inductive Ans where
  | data (v : Word)
  | ack
  | nack
  | fault (opx : BitVec 8)
  | asleep
  /-- a copy is written, or could not be: to the primary copy's interface (R230) -/
  | copied (ok : Bool)
  deriving DecidableEq, Repr

/-- A dynamic packet: the head flit's fields (R171), its payload and, for requests and answers, what they carry.
`dstMod` is the model's own: the module a message is bound for (log 12, DEDUCED). -/
structure Packet where
  addr   : Word
  asid   : BitVec 16
  srcMod : BitVec 13
  srcK   : BitVec 2
  src    : BitVec 16
  dstMod : BitVec 13
  dstK   : BitVec 2
  dst    : BitVec 16
  typ    : BitVec 4
  len    : Nat
  tag    : BitVec 16
  opx    : BitVec 8
  hops   : BitVec 9
  itime  : BitVec 24
  resv   : Bool
  ch     : Bool
  seg    : Nat
  turns  : BitVec 88
  payload : List Byte
  req    : Option Req
  ans    : Option (CoreRef × Ans)
  /-- a berth or view offer on its way to its taker: core, region, view (R219, R221) -/
  offer  : Option (CoreRef × Word × Bool)
  /-- the head alone, its payload flit still to come -/
  head   : Bool := false
  deriving DecidableEq, Repr

/-- A bind request from the anchor module's lockhouse (R104). -/
structure BindReq where
  fromModule : BitVec 13
  crew   : BitVec 16
  modIdx : Nat
  asid   : BitVec 16
  image  : Word
  length : Nat
  options : Word
  deriving DecidableEq, Repr

/-- What a hold is announced for (R73); a lockhouse that has halted holds its crews too (R93). -/
inductive HoldWhy where
  | weightRead | warning | limit | selector | program | halt
  deriving DecidableEq, Repr

/-- A hold announcement, beside the count it is made at: start count, length in TIME cycles, 0 for an open hold, and cause (R69). -/
structure HoldMsg where
  h   : BitVec 48
  len : Nat
  why : HoldWhy
  deriving DecidableEq, Repr

/-- An open hold and the length its release gives it (R71). -/
structure HoldSpan where
  h   : BitVec 48
  len : Nat
  deriving DecidableEq, Repr

/-- One direction of a towline: outgoing or incoming lanes. -/
structure TowDir where
  tl  : Nat
  out : Bool
  deriving DecidableEq, Repr

/-- A wire of an edge of a tile: the port, and at a north or south edge the straight wire or the one a column to the west or east (R16). -/
structure EdgeWire where
  port : BitVec 2
  wire : BitVec 2
  deriving DecidableEq, Repr

/-- A core asleep until a dispenser serves ticket k (R234). -/
structure TicketWait where
  core : CoreRef
  n    : BitVec 6
  k    : BitVec 32
  deriving DecidableEq, Repr

/-- The result of a selection (R117 to R119). -/
structure Selection where
  cls   : BitVec 3
  index : Nat
  bank  : BitVec 2
  size  : List (BitVec 16)
  excess : List (BitVec 16)
  empty : BitVec 8
  ovf   : BitVec 8
  deriving DecidableEq, Repr

/-- Why a crew is being drawn off (R125, R240, R242, R244). -/
inductive DrawWhy where
  | preempt | host | mark | fault | regrade
  deriving DecidableEq, Repr

/-- What the sequencers and lockhouses of a crew's modules tell each other over a LINK towline (R69, R71, R103, R104, R111, R112, R116, R117, R121,
R125, R240, R242, R314; the manual gives the messages' sense and not their layout, log 49, DESIGN CHOICE). `modIdx` names the sender. -/
inductive Notice where
  | bindRequest (b : BindReq)
  | bindResponse (crew : BitVec 16) (modIdx : Nat) (status : BitVec 8) (result addr : Word)
  | bindRelease (crew : BitVec 16)
  /-- every module has bound its slot, with the crew's HORIZON (R58, R108) -/
  | bound (crew : BitVec 16) (horizon : BitVec 16)
  /-- whether the sender could start its part of the crew now -/
  | fits (crew : BitVec 16) (modIdx : Nat) (ok : Bool)
  /-- every module may start its part -/
  | place (crew : BitVec 16)
  /-- ready, with the member numbers of the timed cores there -/
  | ready (crew : BitVec 16) (modIdx : Nat) (members : List Nat)
  | start (crew : BitVec 16) (t0 : Word)
  | allow (crew : BitVec 16) (modIdx : Nat) (allow : BitVec 16)
  | hold (crew : BitVec 16) (a : BitVec 48) (m : HoldMsg)
  /-- a lockhouse asks the anchor to announce a hold -/
  | askHold (crew : BitVec 16) (modIdx : Nat) (why : HoldWhy)
  /-- it lets that hold go -/
  | endHold (crew : BitVec 16) (modIdx : Nat) (why : HoldWhy)
  | release (crew : BitVec 16) (h : BitVec 48) (len : Nat)
  | phase (crew : BitVec 16) (count : BitVec 48) (modIdx : Nat) (member : Nat)
  | size (crew : BitVec 16) (count : BitVec 48) (cls grp : BitVec 3) (word : BitVec 16)
  | select (crew : BitVec 16) (e : BitVec 48) (sel : Selection)
  /-- MARKP of a timed core at a count -/
  | mark (crew : BitVec 16) (count : BitVec 48) (modIdx : Nat) (member : Nat)
  /-- a lockhouse asks the anchor for a draw-off, or a feeder's log for a mark -/
  | askDraw (crew : BitVec 16) (why : DrawWhy)
  /-- a draw-off, with the crew's fault where one stops it -/
  | draw (crew : BitVec 16) (v : BitVec 48) (why : DrawWhy) (fault : Option (BitVec 8 × Word))
  | drawn (crew : BitVec 16) (modIdx : Nat)
  /-- every module has saved its part -/
  | saved (crew : BitVec 16)
  | report (crew : BitVec 16) (cause : BitVec 8) (addr : Word) (member : Nat)
  | halted (crew : BitVec 16) (modIdx : Nat)
  | ended (crew : BitVec 16) (cause : BitVec 8) (addr : Word)
  /-- the save handle of a crew has been discarded -/
  | discard (crew : BitVec 16)
  deriving DecidableEq, Repr

/-- A flit slot of a towline frame (R35, R36). -/
inductive FrameSlot where
  | idle
  | static (port : BitVec 2) (offs : BitVec 4) (flit : Flit)
  | dynamic (p : Packet)
  /-- a dynamic slot that carries a crew's announcement or message -/
  | notice (n : Notice)
  | reserved
  deriving DecidableEq, Repr

/-- A towline frame (R34, R36). -/
structure Frame where
  vstamp  : BitVec 48
  seq     : BitVec 12
  ackseq  : BitVec 12
  nack    : Bool
  rot     : BitVec 5
  crewTag : BitVec 16
  resv    : Bool
  slots   : List FrameSlot
  deriving DecidableEq, Repr

/-- The machines the lockhouse runs as three copies each (R90). -/
inductive Voted where | command | scheduler | dispatch | walker (n : Nat)
  deriving DecidableEq, Repr

/-- A receiving interface: a feeder's or a towline port's (R51). -/
inductive Iface where | feeder (f : Nat) | towline (t : Nat)
  deriving DecidableEq, Repr

/-- What a temperature or flow reading comes from (R26, R27). -/
inductive Sensor where
  | reach (rx ry n : Nat)
  | feederDie (f : Nat)
  | stack (f : Nat)
  | coolant
  deriving DecidableEq, Repr

/-- An error found in a stored granule (R252). -/
inductive StoreErr where | none | corrected | uncorrectable
  deriving DecidableEq, Repr

/-- The light of a block: the payload of its beats, by wavelength, and the errors its receivers see: beat, wavelength, kind (R135, R147). -/
structure Light where
  data : List (List Byte)
  errs : List (Nat × Nat × StoreErr)
  deriving DecidableEq, Repr

end Sys2Proof
end

