-- ==== Sys2Proof/Syntax.lean ====
section
/-! DEFINITION. The operations and events of spec/opcode_table.json, one constructor a row: the instruction words first, then the events.
A constructor is an instruction word entering its column (operands as its format gives them), a host command, or an
event of the module with the units and values it names. -/

namespace Sys2Proof

/-- One row of spec/opcode_table.json each; the comment behind a constructor is the row's mnemonic. -/
inductive Instr where
  -- instruction words
  | syswr (n : BitVec 12) (a : Reg)  -- SYSWR
  | windescWrite (half : BitVec 5) (a : Reg)  -- WINDESC_WRITE
  | tapcfgWrite (i : BitVec 3) (a : Reg)  -- TAPCFG_WRITE
  | arrmapWrite (i : BitVec 3) (a : Reg)  -- ARRMAP_WRITE
  | cvmodeWrite (a : Reg)  -- CVMODE_WRITE
  | fflagsWrite (a : Reg)  -- FFLAGS_WRITE
  | rfmtWrite (i : BitVec 3) (a : Reg)  -- RFMT_WRITE
  | ejdescWrite (i : BitVec 4) (a : Reg)  -- EJDESC_WRITE
  | rtabWrite (half : BitVec 9) (a : Reg)  -- RTAB_WRITE
  | votelogClear (a : Reg)  -- VOTELOG_CLEAR
  | ejflagsClear (a : Reg)  -- EJFLAGS_CLEAR
  | sysrd (d : Reg) (n : BitVec 12)  -- SYSRD
  | bra (tgt : BitVec 16)  -- BRA
  | bcc (c : BccCond) (a b : Reg) (tgt : BitVec 16)  -- BCC
  | bpr (c : BprCond) (k : KReg) (tgt : BitVec 16)  -- BPR
  | jmp (a : Reg)  -- JMP
  | jmpLink (d a : Reg)  -- JMP_LINK
  | call (a : Reg) (tgt : BitVec 16)  -- CALL
  | ret (a : Reg)  -- RET
  | loop (a : Reg) (tgt : BitVec 16)  -- LOOP
  | loops (p : PReg) (dim : BitVec 4) (tgt : BitVec 16)  -- LOOPS
  | trap (imm : BitVec 32)  -- TRAP
  | breakTrap (imm : BitVec 32)  -- BREAK
  | waitv (a : Reg) (imm : BitVec 16)  -- WAITV
  | phase (level : BitVec 2)  -- PHASE
  | size (a : Reg) (cls : BitVec 3)  -- SIZE
  | slpost (sl : BitVec 4) (n : BitVec 15)  -- SLPOST
  | slwait (sl : BitVec 4) (n : BitVec 15)  -- SLWAIT
  | slset (sl : BitVec 4) (a : Reg) (imm : BitVec 16)  -- SLSET
  | slget (d : Reg) (sl : BitVec 4)  -- SLGET
  | add (d a b : Reg)  -- ADD
  | sub (d a b : Reg)  -- SUB
  | addi (d a : Reg) (imm : BitVec 32)  -- ADDI
  | mul (d a b : Reg)  -- MUL
  | mulh (d a b : Reg)  -- MULH
  | mulhsu (d a b : Reg)  -- MULHSU
  | div (d a b : Reg)  -- DIV
  | divu (d a b : Reg)  -- DIVU
  | rem (d a b : Reg)  -- REM
  | remu (d a b : Reg)  -- REMU
  | and (d a b : Reg)  -- AND
  | or (d a b : Reg)  -- OR
  | xor (d a b : Reg)  -- XOR
  | andn (d a b : Reg)  -- ANDN
  | andi (d a : Reg) (imm : BitVec 32)  -- ANDI
  | ori (d a : Reg) (imm : BitVec 32)  -- ORI
  | xori (d a : Reg) (imm : BitVec 32)  -- XORI
  | shl (d a b : Reg)  -- SHL
  | shr (d a b : Reg)  -- SHR
  | sha (d a b : Reg)  -- SHA
  | shli (d a : Reg) (n : BitVec 6)  -- SHLI
  | shri (d a : Reg) (n : BitVec 6)  -- SHRI
  | shai (d a : Reg) (n : BitVec 6)  -- SHAI
  | rot (d a b : Reg)  -- ROT
  | min (d a b : Reg)  -- MIN
  | max (d a b : Reg)  -- MAX
  | minu (d a b : Reg)  -- MINU
  | maxu (d a b : Reg)  -- MAXU
  | slt (d a b : Reg)  -- SLT
  | sltu (d a b : Reg)  -- SLTU
  | seq (d a b : Reg)  -- SEQ
  | sel (d a b c : Reg)  -- SEL
  | clz (d a : Reg)  -- CLZ
  | ctz (d a : Reg)  -- CTZ
  | popc (d a : Reg)  -- POPC
  | li (d : Reg) (imm : BitVec 42)  -- LI
  | lih (d : Reg) (imm : BitVec 22)  -- LIH
  | addx (d a b : Reg) (s : BitVec 3)  -- ADDX
  | extb (sgn : Bool) (d a : Reg) (pos lenM1 : BitVec 6)  -- EXTB
  | insb (d a : Reg) (pos lenM1 : BitVec 6)  -- INSB
  | kmovToK (d : KReg) (a : Reg)  -- KMOV_TO_K
  | kmovToG (d : Reg) (a : KReg)  -- KMOV_TO_G
  | kop (op : KopOp) (d a b : KReg)  -- KOP
  | ld (sz : BitVec 2) (uns : Bool) (t : Reg) (m : MemOp)  -- LD
  | st (sz : BitVec 2) (t : Reg) (m : MemOp)  -- ST
  | vld (fold : BitVec 2) (t : Reg) (m : MemOp) (k : KReg)  -- VLD
  | vst (fold : BitVec 2) (t : Reg) (m : MemOp) (k : KReg)  -- VST
  | vlds (fold : BitVec 2) (t base : Reg) (off : BitVec 19) (s : Reg) (k : KReg)  -- VLDS
  | vgath (fold : BitVec 2) (t base : Reg) (off : BitVec 19) (vi : Reg) (k : KReg)  -- VGATH
  | vscat (fold : BitVec 2) (t base : Reg) (off : BitVec 19) (vi : Reg) (k : KReg)  -- VSCAT
  | pcfg (p : PReg) (base idx : Reg) (off : BitVec 19)  -- PCFG
  | pclose (p : PReg)  -- PCLOSE
  | pstat (d : Reg) (p : PReg)  -- PSTAT
  | pseek (p : PReg) (b : Reg)  -- PSEEK
  | amo (op : AmoOp) (uns dword : Bool) (t base : Reg) (off : BitVec 19) (i : Reg)  -- AMO
  | winqAddr (d a : Reg)  -- WINQ_ADDR
  | winqNum (d : Reg) (w : BitVec 4)  -- WINQ_NUM
  | lutld (base idx : Reg) (off : BitVec 19)  -- LUTLD
  | vadd (ty : VTy) (sat : Bool) (fold : BitVec 2) (vd va : Reg) (b : VSrc) (k : KReg)  -- VADD
  | vsub (ty : VTy) (sat : Bool) (fold : BitVec 2) (vd va : Reg) (b : VSrc) (k : KReg)  -- VSUB
  | vmul (ty : VTy) (sat : Bool) (fold : BitVec 2) (vd va : Reg) (b : VSrc) (k : KReg)  -- VMUL
  | vfma (ty : VTy) (sat : Bool) (fold : BitVec 2) (vd va vb vc : Reg) (k : KReg)  -- VFMA
  | vfms (ty : VTy) (sat : Bool) (fold : BitVec 2) (vd va vb vc : Reg) (k : KReg)  -- VFMS
  | vmin (ty : VTy) (fold : BitVec 2) (vd va : Reg) (b : VSrc) (k : KReg)  -- VMIN
  | vmax (ty : VTy) (fold : BitVec 2) (vd va : Reg) (b : VSrc) (k : KReg)  -- VMAX
  | vabs (ty : VTy) (sat : Bool) (fold : BitVec 2) (vd va : Reg) (k : KReg)  -- VABS
  | vneg (ty : VTy) (sat : Bool) (fold : BitVec 2) (vd va : Reg) (k : KReg)  -- VNEG
  | vand (fold : BitVec 2) (vd va : Reg) (b : VSrc) (k : KReg)  -- VAND
  | vor (fold : BitVec 2) (vd va : Reg) (b : VSrc) (k : KReg)  -- VOR
  | vxor (fold : BitVec 2) (vd va : Reg) (b : VSrc) (k : KReg)  -- VXOR
  | vshl (fold : BitVec 2) (vd va : Reg) (b : VSrc) (k : KReg)  -- VSHL
  | vshr (fold : BitVec 2) (vd va : Reg) (b : VSrc) (k : KReg)  -- VSHR
  | vsha (fold : BitVec 2) (vd va : Reg) (b : VSrc) (k : KReg)  -- VSHA
  | vcmp (c : VCond) (ty : VTy) (fold : BitVec 2) (kd : KReg) (va : Reg) (b : VSrc) (k : KReg)  -- VCMP
  | vsel (fold : BitVec 2) (vd va vb : Reg) (k : KReg)  -- VSEL
  | vcvt (dst src : CvtTy) (fold : BitVec 2) (vd va : Reg) (k : KReg)  -- VCVT
  | vrcp (fold : BitVec 2) (vd va : Reg) (k : KReg)  -- VRCP
  | vrsq (fold : BitVec 2) (vd va : Reg) (k : KReg)  -- VRSQ
  | vsqrt (fold : BitVec 2) (vd va : Reg) (k : KReg)  -- VSQRT
  | vexp2 (fold : BitVec 2) (vd va : Reg) (k : KReg)  -- VEXP2
  | vlog2 (fold : BitVec 2) (vd va : Reg) (k : KReg)  -- VLOG2
  | vtanh (fold : BitVec 2) (vd va : Reg) (k : KReg)  -- VTANH
  | vsigm (fold : BitVec 2) (vd va : Reg) (k : KReg)  -- VSIGM
  | vredadd (ty : VTy) (sat : Bool) (fold : BitVec 2) (vd va : Reg) (k : KReg)  -- VREDADD
  | vredmax (ty : VTy) (fold : BitVec 2) (vd va : Reg) (k : KReg)  -- VREDMAX
  | vredmin (ty : VTy) (fold : BitVec 2) (vd va : Reg) (k : KReg)  -- VREDMIN
  | vscan (op : ScanOp) (ty : VTy) (sat : Bool) (fold : BitVec 2) (vd va : Reg) (k : KReg)  -- VSCAN
  | vargmax (ty : VTy) (fold : BitVec 2) (vd va : Reg) (k : KReg)  -- VARGMAX
  | vperm (fold : BitVec 2) (vd va vb : Reg) (k : KReg)  -- VPERM
  | vbcast (fold : BitVec 2) (vd va : Reg) (e : BitVec 6) (k : KReg)  -- VBCAST
  | vsplatG (fold : BitVec 2) (vd ga : Reg) (k : KReg)  -- VSPLAT_G
  | vsplatImm (fold : BitVec 2) (vd : Reg) (imm : BitVec 13) (k : KReg)  -- VSPLAT_IMM
  | viota (fold : BitVec 2) (vd : Reg) (imm : BitVec 13) (k : KReg)  -- VIOTA
  | vmov (fold : BitVec 2) (vd va : Reg) (k : KReg)  -- VMOV
  | vmovG (gd va : Reg) (e : BitVec 6)  -- VMOV_G
  | vmovE (vd ga : Reg) (e : BitVec 6)  -- VMOV_E
  | vcomp (fold : BitVec 2) (vd : Reg) (kd : KReg) (va : Reg) (k : KReg)  -- VCOMP
  | vlut (fold : BitVec 2) (vd va : Reg) (k : KReg)  -- VLUT
  | vhash (fold : BitVec 2) (vd va vb : Reg) (seed : BitVec 13) (k : KReg)  -- VHASH
  | vpda (vd va vb : Reg) (w : BitVec 4)  -- VPDA
  | vtmask (fold : BitVec 2) (kd : KReg) (va vb : Reg) (w : BitVec 4)  -- VTMASK
  | vsample (fold : BitVec 2) (vd va vb vc : Reg) (topk : BitVec 13) (k : KReg)  -- VSAMPLE
  | mzero (z : Bool)  -- MZERO
  | mmul (kg : KGroup) (z : Bool) (ch : BitVec 4) (pa : PReg) (gm1 : BitVec 8)  -- MMUL
  | mmulw (kg : KGroup) (z : Bool) (ch : BitVec 4) (pa pb : PReg) (gm1 : BitVec 8)  -- MMULW
  | marm (ch : BitVec 4)  -- MARM
  | mdisarm (ch : BitVec 4)  -- MDISARM
  | mrel (ch : BitVec 4)  -- MREL
  | mdrain (z : Bool) (o : Reg)  -- MDRAIN
  | mdrainV (z : Bool) (vd : Reg)  -- MDRAIN_V
  | mdcfgSet (c : BitVec 2)  -- MDCFG_SET
  | mdcfgTok (c : BitVec 2)  -- MDCFG_TOK
  | msums (acc : Bool) (vd : Reg)  -- MSUMS
  | mldz (z : Bool) (vs : Reg)  -- MLDZ
  | mstz (vd : Reg) (z : Bool)  -- MSTZ
  | finj (a t : Reg) (g : BitVec 8)  -- FINJ
  | fpref (a l : Reg)  -- FPREF
  | fupd (op : FupdOp) (fmt : FFmt) (w s c : Reg) (nM1 : BitVec 16)  -- FUPD
  | fred (op : FredOp) (fmt : FFmt) (d a : Reg) (nM1 : BitVec 16)  -- FRED
  | fgrp (a : Reg) (g : BitVec 8)  -- FGRP
  | tsend (a : Reg) (imm : BitVec 16)  -- TSEND
  | tsendP (p : PReg)  -- TSEND_P
  | tsendV (va : Reg) (q : BitVec 2)  -- TSEND_V
  | tredV (isInt : Bool) (va : Reg)  -- TRED_V
  | tredMem (isInt : Bool) (a : Reg) (imm : BitVec 16)  -- TRED_MEM
  | tej (j : BitVec 4) (a : Reg)  -- TEJ
  | tdsend (d a b c : Reg) (len : BitVec 7)  -- TDSEND
  | tdrecv (d a : Reg)  -- TDRECV
  | tdrecvNb (d a : Reg)  -- TDRECV_NB
  | trtab (e : BitVec 8) (a b : Reg)  -- TRTAB
  | timeT (d : Reg)  -- TIME_T
  | timeV (d : Reg)  -- TIME_V
  | timeOff (d : Reg)  -- TIME_OFF
  | holdrq (l : BitVec 16)  -- HOLDRQ
  | berthW (w : BitVec 4) (b : Reg)  -- BERTH_W
  | berthG (a b : Reg)  -- BERTH_G
  | bviewW (w : BitVec 4) (b : Reg)  -- BVIEW_W
  | bviewG (a b : Reg)  -- BVIEW_G
  | btakeW (w : BitVec 4)  -- BTAKE_W
  | btakeG (a : Reg)  -- BTAKE_G
  | btakeViewW (w : BitVec 4)  -- BTAKE_VIEW_W
  | btakeViewG (a : Reg)  -- BTAKE_VIEW_G
  | tkt (d : Reg) (n : BitVec 6)  -- TKT
  | tserve (a : Reg) (n : BitVec 6)  -- TSERVE
  | tadv (n : BitVec 6)  -- TADV
  | rld (sz : BitVec 2) (uns : Bool) (d a : Reg) (imm : BitVec 16)  -- RLD
  | rst (sz : BitVec 2) (a b : Reg) (imm : BitVec 16)  -- RST
  | ramo (op : AmoOp) (uns dword : Bool) (d a b c : Reg) (imm : BitVec 16)  -- RAMO
  -- events the machine itself brings about
  | completionWrite (qid : Nat)  -- COMPLETION_WRITE
  | bindRequest (b : BindReq)  -- BIND_REQUEST
  | poundFenceEffect (pound : Nat)  -- POUND_FENCE_EFFECT
  | voteCommit (m : Voted) (addr : Nat) (c0 c1 c2 : Option Word)  -- VOTE_COMMIT
  | voteTimeout (m : Voted) (addr : Nat) (c0 c1 c2 : Option Word)  -- VOTE_TIMEOUT
  | pageWalkDone (i : Iface) (asid : BitVec 16) (gaddr : Word)  -- PAGE_WALK_DONE
  | vcycBroadcast (crew : BitVec 16)  -- VCYC_BROADCAST
  | frameReplay (tl : Nat) (seq : BitVec 12)  -- FRAME_REPLAY
  | staticFlitHandoff (tl : Nat)  -- STATIC_FLIT_HANDOFF
  | remoteRequestReceive (i : Iface) (q : Req)  -- REMOTE_REQUEST_RECEIVE
  | remoteTimeout (core : CoreRef) (tag : BitVec 16)  -- REMOTE_TIMEOUT
  | remoteAnswer (core : CoreRef) (tag : BitVec 16) (a : Ans)  -- REMOTE_ANSWER
  | pageMigration (asid : BitVec 16) (gaddr : Word) (home : Nat)  -- PAGE_MIGRATION
  | migrationClose (page : Nat)  -- MIGRATION_CLOSE
  | ferryOffer (core : CoreRef) (tag : BitVec 16) (f : Nat)  -- FERRY_OFFER
  | ferryReturn (core : CoreRef)  -- FERRY_RETURN
  | dispatchReady (crew : BitVec 16)  -- DISPATCH_READY
  | crewStart (crew : BitVec 16)  -- CREW_START
  | holdAnnounce (crew : BitVec 16) (a : BitVec 48) (m : HoldMsg) (via : Option Nat)  -- HOLD_ANNOUNCE
  | holdStart (crew : BitVec 16)  -- HOLD_START
  | holdRelease (crew : BitVec 16) (x : HoldSpan) (via : Option Nat)  -- HOLD_RELEASE
  | holdEnd (crew : BitVec 16)  -- HOLD_END
  | driftPause (crew : BitVec 16)  -- DRIFT_PAUSE
  | weightReadRetry (f : Nat) (line : Nat)  -- WEIGHT_READ_RETRY
  | weightReadData (f : Nat) (line : Nat)  -- WEIGHT_READ_DATA
  | selectionDecide (crew : BitVec 16) (cls : BitVec 3) (e : BitVec 48)  -- SELECTION_DECIDE
  | selectionSwitch (crew : BitVec 16)  -- SELECTION_SWITCH
  | phaseCheckTimeout (crew : BitVec 16) (level : BitVec 2) (count : BitVec 48)  -- PHASE_CHECK_TIMEOUT
  | crewFaultReport (crew : BitVec 16) (cause : BitVec 8) (addr : Word) (member : Nat)  -- CREW_FAULT_REPORT
  | crewFaultStop (crew : BitVec 16)  -- CREW_FAULT_STOP
  | rewind (crew : BitVec 16)  -- REWIND
  | drawOff (crew : BitVec 16)  -- DRAW_OFF
  | drawOffInjectStop (crew : BitVec 16)  -- DRAW_OFF_INJECT_STOP
  | drawOffComplete (crew : BitVec 16)  -- DRAW_OFF_COMPLETE
  | markComplete (crew : BitVec 16)  -- MARK_COMPLETE
  | laneRotationStep (d : TowDir) (differ : Bool)  -- LANE_ROTATION_STEP
  | dirtyLineEvict (f : Nat) (line : Nat) (badSectors : BitVec 8)  -- DIRTY_LINE_EVICT
  | finjCopy (f : Nat) (id : Nat)  -- FINJ_COPY
  | injectionModulate (f : Nat) (id : Nat)  -- INJECTION_MODULATE
  | deliveryStart (tile : Nat) (lane : BitVec 2) (lams : BitVec 16) (tag : BitVec 8) (f : Nat) (t : BitVec 48) (light : Light) (only : Option (BitVec 3))  -- DELIVERY_START
  | deliveryComplete (tile : Nat) (block : Nat)  -- DELIVERY_COMPLETE
  | staticFlitHop (tile : Nat)  -- STATIC_FLIT_HOP
  | tokenEject (tile : Nat) (ejd : BitVec 4) (rfx : BitVec 3) (flits : List FlitBits)  -- TOKEN_EJECT
  | dynPacketHop (tile : Nat)  -- DYN_PACKET_HOP
  | dynPacketDeliver (tile : Nat) (p : Packet)  -- DYN_PACKET_DELIVER
  | ticketRequest (rx ry : Nat) (q : Req)  -- TICKET_REQUEST
  | berthOfferArrive (core : CoreRef) (region : Word) (view : Bool)  -- BERTH_OFFER_ARRIVE
  | btakeTimeout (core : CoreRef)  -- BTAKE_TIMEOUT
  | portFetch (core : CoreRef) (p : PReg)  -- PORT_FETCH
  | waitvExpire (core : CoreRef)  -- WAITV_EXPIRE
  | slwaitProceed (core : CoreRef)  -- SLWAIT_PROCEED
  | phaseWake (core : CoreRef)  -- PHASE_WAKE
  | waitiWake (core : CoreRef)  -- WAITI_WAKE
  | tdrecvWake (core : CoreRef)  -- TDRECV_WAKE
  | tserveWake (w : TicketWait)  -- TSERVE_WAKE
  | fenceRelease (core : CoreRef)  -- FENCE_RELEASE
  | rfenceRelease (core : CoreRef)  -- RFENCE_RELEASE
  | poundResetDone (pound : Nat)  -- POUND_RESET_DONE
  | coreRailReturn (rx ry : Nat)  -- CORE_RAIL_RETURN
  | bindResponse (crew : BitVec 16) (modIdx : Nat) (status : BitVec 8) (result addr : Word)  -- BIND_RESPONSE
  | allowChange (crew : BitVec 16) (modIdx : Nat) (allow : BitVec 16)  -- ALLOW_CHANGE
  | voltageReplan (rx ry : Nat) (slackPs : Nat)  -- VOLTAGE_REPLAN
  | frameSend (tl : Nat)  -- FRAME_SEND
  -- words and events without operands
  | resyncDone  -- RESYNC_DONE
  | powerEnable  -- POWER_ENABLE
  | powerSequenceStep  -- POWER_SEQUENCE_STEP
  | greetingPhase  -- GREETING_PHASE
  | powerDisable  -- POWER_DISABLE
  | regradeDone  -- REGRADE_DONE
  | timeCheckPulse  -- TIME_CHECK_PULSE
  | referenceLoss  -- REFERENCE_LOSS
  | schedulerPass  -- SCHEDULER_PASS
  | ageTick  -- AGE_TICK
  | nop  -- NOP
  | halt  -- HALT
  | markp  -- MARKP
  | eret  -- ERET
  | waiti  -- WAITI
  | fence  -- FENCE
  | mdcfgClr  -- MDCFG_CLR
  | drift  -- DRIFT
  | rfence  -- RFENCE
  -- host commands, and events from outside the machine
  | submit (port off : Nat) (data : List Byte)  -- SUBMIT
  | cqheadWrite (port off : Nat) (val : Word)  -- CQHEAD_WRITE
  | lhctlRestart (port : Nat) (val : Word)  -- LHCTL_RESTART
  | lockhouseRestartDone (agree : Bool)  -- LOCKHOUSE_RESTART_DONE
  | bar0Write (port off : Nat) (val : Word)  -- BAR0_WRITE
  | identify (c : HostCmd)  -- IDENTIFY
  | createQueue (c : HostCmd)  -- CREATE_QUEUE
  | deleteQueue (c : HostCmd)  -- DELETE_QUEUE
  | queryQueue (c : HostCmd)  -- QUERY_QUEUE
  | aspaceCreate (c : HostCmd)  -- ASPACE_CREATE
  | aspaceDestroy (c : HostCmd)  -- ASPACE_DESTROY
  | mapPages (c : HostCmd)  -- MAP
  | unmapPages (c : HostCmd)  -- UNMAP
  | copyIn (c : HostCmd)  -- COPY_IN
  | copyOut (c : HostCmd)  -- COPY_OUT
  | launch (c : HostCmd)  -- LAUNCH
  | kill (c : HostCmd)  -- KILL
  | draw (c : HostCmd)  -- DRAW
  | resume (c : HostCmd)  -- RESUME
  | discard (c : HostCmd)  -- DISCARD
  | crewStatus (c : HostCmd)  -- CREW_STATUS
  | calibrate (c : HostCmd)  -- CALIBRATE
  | route (c : HostCmd)  -- ROUTE
  | poundDefine (c : HostCmd)  -- POUND_DEFINE
  | poundFence (c : HostCmd)  -- POUND_FENCE
  | poundReset (c : HostCmd)  -- POUND_RESET
  | poundRelease (c : HostCmd)  -- POUND_RELEASE
  | power (c : HostCmd)  -- POWER
  | readLog (c : HostCmd)  -- READ_LOG
  | attest (c : HostCmd)  -- ATTEST
  | fwStage (c : HostCmd)  -- FW_STAGE
  | events (c : HostCmd)  -- EVENTS
  | hello (tile : Nat) (edge : EdgeWire) (code : BitVec 3)  -- HELLO
  | resetPulse (cycles : Nat)  -- RESET_PULSE
  | thermalWarning (x : Sensor)  -- THERMAL_WARNING
  | thermalLimit (x : Sensor)  -- THERMAL_LIMIT
  | thermalTrip (x : Sensor)  -- THERMAL_TRIP
  | powerWarning (mean : Nat)  -- POWER_WARNING
  | powerLimit (mean : Nat)  -- POWER_LIMIT
  | powerLimitRelease (mean : Nat)  -- POWER_LIMIT_RELEASE
  | coreRailLoss (rx ry : Nat)  -- CORE_RAIL_LOSS
  | transitRailLoss (rx ry : Nat)  -- TRANSIT_RAIL_LOSS
  | transitConverterLoss (rx ry : Nat) (second : Bool)  -- TRANSIT_CONVERTER_LOSS
  | laserFailover (laser : Nat)  -- LASER_FAILOVER
  | frameReceive (tl : Nat) (fr : Frame) (bad : Bool)  -- FRAME_RECEIVE
  | scrubRead (tile : Nat) (addr : Nat) (found : StoreErr)  -- SCRUB_READ
  | weakLane (d : TowDir) (lane : Nat)  -- WEAK_LANE
  | laneSignalLoss (d : TowDir) (lane : Nat)  -- LANE_SIGNAL_LOSS
  deriving DecidableEq, Repr

end Sys2Proof
end

