-- ==== Sys2Proof/Config.lean ====
section
/-! DEFINITION. What one implementation fixes and the manual leaves open: free values without a body (log 5, DESIGN CHOICE), the parsers of
image sections whose byte layout the manual does not give (log 8, DESIGN CHOICE), the signature functions it names and does not describe
(log 10, DESIGN CHOICE), and the key space of the module's memories (log 3, DESIGN CHOICE). -/

namespace Sys2Proof.Config

/-! ### Free values (log 5, DESIGN CHOICE): applied to State.free, nothing constrains them -/

opaque freeNat  : Nat → Nat
opaque freeWord : Nat → Word
opaque freeBool : Nat → Bool
opaque freeBytes : Nat → List Byte

/-! ### Facts of one module -/

/-- Depth of a unit in the clock tree (R59): tiles by id, feeders from 2^16 on. -/
opaque depth : Nat → BitVec 6
/-- Phase of the module's clock relative to the reference at a TIME, in 2^-40 cycle (R61, log 50, DESIGN CHOICE). -/
opaque phase : Word → Int
/-- Change of a towline's flight time and jitter at a TIME, in 1/256 cycle (R66). -/
opaque fibre : Nat → Word → Int
/-- DRIFTACC.ACC of a crew on the module at the far end of a towline, at a VSTAMP of its frames (R66, log 1, DESIGN CHOICE). -/
opaque farAcc : Nat → BitVec 16 → BitVec 48 → Int
/-- Counts from a feeder core's TSEND or TRED to the edge input of its attachment tile (R396, R398 give them for a tile's cores). -/
opaque feederSend : Nat
/-- Where in TIME the frame periods of a towline begin (R34). -/
opaque framePhase : Nat → Nat
/-- The least slack, in picoseconds, that a reach's monitors report over the interval that ends at a TIME (R28). -/
opaque slack : Nat → Nat → Word → Nat
/-- A neighbour's health as a HELLO over a wire bears it, by self-test, tile and 4 port + wire; 0: no answer (R16, R180). -/
opaque helloCode : Nat → Nat → Nat → BitVec 3
/-- Modules that map a page of an ASID replicated at a TIME, beside this one (R230): their page tables are not this module's state. -/
opaque copies : Word → BitVec 16 → Nat → List (BitVec 13)
/-- Route-table entries as boot firmware fills them, by filling, sender kind and number, and entry (R176). -/
opaque bootRoute : Nat → Nat → Nat → Nat → BitVec 128
/-- Whether a host address range answers DMA (R86 HOST_DMA). -/
opaque hostOk : Word → Nat → Bool
/-- Fibre flight time of a towline in whole cycles, and its far end's flight number (R40, R43), found at a calibration. -/
opaque calibrated : Nat → Nat → Option (BitVec 16 × BitVec 8)
/-- Firmware versions as IDENTIFY gives them, by the firmware that runs (R86, log 9, DESIGN CHOICE). -/
opaque versions : List Byte → List Byte

/-! ### Numbers the manual names without their layout (log 13, DESIGN CHOICE) -/

/-- RESULT of CREW_ENDED: crew number and cause code (R89). -/
opaque crewEndedWord : BitVec 16 → BitVec 8 → Word
/-- Number of a sensor (R26, R89, R95): reach sensors by (rx, ry, n), feeder dies, stacks, coolant. -/
opaque sensorNumber : Sensor → Nat
/-- Number of a feeder in a FAULTADDR that names a member (R314). -/
opaque feederMember : Nat → Word

/-- CAUSE of a record whose KIND has neither a cause code nor a STATUS (R95). -/
opaque noCause : BitVec 8 → BitVec 8
/-- Offset of the signature in a firmware image (R85 AUTH). -/
opaque sigOffset : List Byte → Word
/-- Length of a flight map, the modules of the flight that its bytes list, and whether they name the module of a flight number the reference
(R40, R61, R86; log 8, DESIGN CHOICE). -/
opaque flightMapLen : Nat
opaque flightMap : List Byte → BitVec 5 → BitVec 32 × Bool
/-- The slot whose bind record or state a voted state word holds (R94). -/
opaque wordSlot : Nat → Option Nat
/-- What the module that a COPY's address names refuses it with, if anything (log 1, DESIGN CHOICE). -/
opaque farCopy : Word → Nat → Option (BitVec 8 × Word)

/-! ### Section contents whose layout the manual does not give (log 8, DESIGN CHOICE) -/

/-- A rectangle of logical tiles relative to the crew's L(0,0): x0, y0, x1, y1. -/
abbrev Rect := Nat × Nat × Nat × Nat

/-- DATA: items of target rectangle, target (0 tile, 2 to 5 feeder core), window, offset, bytes (R100). -/
opaque dataSection : List Byte → Option (List (Rect × Nat × Nat × Nat × List Byte))
/-- Where in a section of a kind whose layout is not given the refused item lies (R103). -/
opaque badItem : Nat → List Byte → Nat
/-- GROUP: group number, control fields bits 1619:1536, where in the section the receivers' items begin and how many they are (R133). -/
opaque groupSection : List Byte → Option (List (BitVec 8 × BitVec 84 × Nat × Nat))
/-- TAP: per rectangle, writes of TAPCFG (index, value), ARRMAP (index, value), weir window (R137, R138, R146). -/
opaque tapSection : List Byte → Option (List (Rect × List (Nat × Word) × List (Nat × Word) × Option (BitVec 4)))
/-- An item of a PHASE section: rectangle, bank and rows, RFMT writes (R156, R166). -/
abbrev PhaseItem := Rect × Option (BitVec 2 × List (BitVec 40)) × List (Nat × Word)
/-- PHASE: its items. -/
opaque phaseSection : List Byte → Option (List PhaseItem)
/-- What joins a towline edge port of a crew's rectangle on one of its modules, given as module index, relative tile and side: the module index,
relative tile and side of the far end's edge port, and the counts to it (R154, R167; log 1, DESIGN CHOICE). -/
opaque farPort : Word → Nat × Nat × Nat × Nat → Option ((Nat × Nat × Nat × Nat) × Nat)
/-- Bytes of another module's weight store, where an image lies on the anchor module (log 1, DESIGN CHOICE). -/
opaque farBytes : Word → Nat → List Byte
/-- Largest static latency to the anchor from members on other modules, by image address (log 1, DESIGN CHOICE). -/
opaque farLatency : Word → Nat
/-- Weight-store offset of the save area of the crew in a slot (R108, R246). -/
opaque saveArea : Nat → BitVec 48
/-- PIN: page count and the attributes write, atomic, replicated in bytes 8 to 15 of a record (R100). -/
opaque pinFields : List Byte → Nat × Bool × Bool × Bool
/-- LINK: bytes of a pair, and its module index and towline (R100). -/
opaque linkSize : Nat
opaque linkPair : List Byte → Nat × Nat

/-! ### Named and not described (log 10, DESIGN CHOICE) -/

/-- SLH-DSA-SHAKE-256s verification of a firmware image under the key whose SHAKE256 digest is given. -/
opaque slhVerify : BitVec 256 → List Byte → Bool
/-- SLH-DSA-SHAKE-256s: the public key of a key's seeds, and its signature. -/
opaque slhPublic256 : List Byte → List Byte
opaque slhSign256 : List Byte → List Byte → List Byte
/-- SLH-DSA-SHAKE-128f: the public key of a key drawn, and its signature. -/
opaque slhPublic128 : BitVec 256 → List Byte
opaque slhSign128 : BitVec 256 → List Byte → List Byte
/-- An attestation key drawn from the control die's random source. -/
opaque attKey : Nat → BitVec 256
/-- ROM and fuses: the digest of the vendor root's public key, the 96 B secret, and the vendor's signature of the identity key (R96). -/
opaque vendorRoot : BitVec 256
opaque fusedSecret : List Byte
opaque identitySig : List Byte
/-- The ROM's measurement, the contents of the flash's two banks as shipped, and the bytes that the defect map and the route table with the
flight configuration are measured as (R97). -/
opaque romDigest : BitVec 256
opaque firmware : Bool → List Byte
opaque defectBytes : List (Nat × Nat) → List Byte
opaque routeBytes : List (Nat × BitVec 8) → Word → List Byte

/-! ### Keys of memory cells (log 3, DESIGN CHOICE): disjoint ranges -/

/-- Weight store of feeder f's stack (48 GiB each). -/
def weightKey (f off : Nat) : Nat := f * 2 ^ 36 + off
/-- Tile store of logical tile id (512 KiB each). -/
def tileKey (id off : Nat) : Nat := 2 ^ 42 + id * 2 ^ 19 + off
/-- Chamber slots of a tile (16 of 4 KiB). -/
def chamberKey (id slot off : Nat) : Nat := 2 ^ 43 + id * 2 ^ 16 + slot * 2 ^ 12 + off
/-- Core store of a feeder core (512 KiB each). -/
def coreStoreKey (f c off : Nat) : Nat := 2 ^ 44 + (f * 4 + c) * 2 ^ 19 + off
/-- Host memory. -/
def hostKey (a : Nat) : Nat := 2 ^ 64 + a

/-- Bytes of a tile store and of a core store (R3, R383). -/
def storeSize : Nat := 2 ^ 19
/-- Bytes of a stack (R3). -/
def stackSize : Nat := 48 * 2 ^ 30
/-- Bytes of the reserve at the top of the weight store, shared over 64 stacks (R246). -/
def reserveSize : Nat := 96 * 2 ^ 30

end Sys2Proof.Config
end

