-- ==== Sys2Proof/Syntax/Formats.lean ====
section
/-! DEFINITION. The operand fields of the instruction formats (spec 12 R288). A field left out of a literal is zero, as
R289 asks of a field that an instruction does not use. -/

namespace Sys2Proof

/-- Bits 51:0 of an instruction word (R282). -/
abbrev OperandBits := BitVec 52

/-- Format G (R288). -/
structure FmtG where
  dst  : BitVec 5 := 0
  sa   : BitVec 5 := 0
  sb   : BitVec 5 := 0
  sc   : BitVec 5 := 0
  sub  : BitVec 8 := 0
  x4   : BitVec 4 := 0
  resv : BitVec 4 := 0
  imm  : BitVec 16 := 0
  deriving DecidableEq, Repr

/-- Format I (R288). -/
structure FmtI where
  dst : BitVec 5 := 0
  sa  : BitVec 5 := 0
  sub : BitVec 10 := 0
  imm : BitVec 32 := 0
  deriving DecidableEq, Repr

/-- Format W (R288). -/
structure FmtW where
  dst  : BitVec 5 := 0
  resv : BitVec 5 := 0
  imm  : BitVec 42 := 0
  deriving DecidableEq, Repr

/-- Format B (R288). -/
structure FmtB where
  a    : BitVec 5 := 0
  sb   : BitVec 5 := 0
  cond : BitVec 4 := 0
  k    : BitVec 3 := 0
  prt  : BitVec 3 := 0
  dim  : BitVec 4 := 0
  resv : BitVec 12 := 0
  tgt  : BitVec 16 := 0
  deriving DecidableEq, Repr

/-- Format M (R288). -/
structure FmtM where
  t    : BitVec 5 := 0
  base : BitVec 5 := 0
  idx  : BitVec 5 := 0
  am   : BitVec 2 := 0
  k    : BitVec 3 := 0
  sub  : BitVec 8 := 0
  resv : BitVec 5 := 0
  off  : BitVec 19 := 0
  deriving DecidableEq, Repr

/-- Format V (R288). -/
structure FmtV where
  vd   : BitVec 5 := 0
  va   : BitVec 5 := 0
  vb   : BitVec 5 := 0
  vc   : BitVec 5 := 0
  k    : BitVec 3 := 0
  fold : BitVec 2 := 0
  kd   : BitVec 3 := 0
  sub  : BitVec 8 := 0
  resv : BitVec 3 := 0
  imm  : BitVec 13 := 0
  deriving DecidableEq, Repr

/-- Format X (R288). -/
structure FmtX where
  z    : BitVec 1 := 0
  ch   : BitVec 4 := 0
  pa   : BitVec 3 := 0
  pb   : BitVec 3 := 0
  vd   : BitVec 5 := 0
  gm1  : BitVec 8 := 0
  kg   : BitVec 2 := 0
  cfg  : BitVec 2 := 0
  sub  : BitVec 8 := 0
  resv : BitVec 16 := 0
  deriving DecidableEq, Repr

/-- Why a word takes ILLEGAL for its own sake, whatever the state (R282 to R289). -/
inductive Reject where
  /-- the major opcode is assigned to no instruction (R291) -/
  | opcode
  /-- an unassigned sub-function, condition, addressing mode or code (R289) -/
  | subFunction
  /-- a field the instruction does not use, or a reserved bit, is not zero (R289, R9) -/
  | reserved
  /-- a field value outside the limits the instruction states (R287) -/
  | limit
  /-- a defer count on a word of R285 -/
  | defer
  /-- the row is no instruction word, or the word has fewer than 64 bits -/
  | noWord
  deriving DecidableEq, Repr

/-- A decoded word: link bit, defer count and instruction (R282). -/
structure Decoded where
  link  : Bool
  defer : BitVec 3
  instr : Instr
  deriving DecidableEq, Repr

end Sys2Proof
end

