-- ==== Sys2Proof/WellFormed.lean ====
section
/-! DEFINITION. Limits on the operands of a word that hold in every state (spec 12 R289 and the instruction chapters), and the
unit numbers an event may name (spec 00 R4). Limits that depend on the state (the core's columns and mode, a port's
configuration, DOMAIN levels) are checked at issue, in Machine/Issue.lean. -/

namespace Sys2Proof

/-- Logical tiles of the larger grade (R1). -/
def maxTiles : Nat := 47616
/-- Feeders (R4). -/
def maxFeeders : Nat := 64
/-- Towlines (R3). -/
def maxTowlines : Nat := 64
/-- System registers that SYSRD and SYSWR may name (R190). -/
def listedSysReg (n : Nat) : Bool :=
  n < 0x018 || (0x040 ≤ n && n < 0x10C) || (0x200 ≤ n && n < 0x400)

/-- System registers whose SYSWR is a row of its own in the opcode table. -/
def ownRowSysReg (n : Nat) : Bool :=
  n = 0x00A || n = 0x00B || n = 0x012 || n = 0x014 ||
  (0x0C0 ≤ n && n < 0x108) || (0x200 ≤ n && n < 0x400)

/-- No immediate second source with FP32 lanes (R345). -/
def VSrc.okFor (b : VSrc) (ty : VTy) : Bool :=
  match b, ty with
  | .imm _, .f => false
  | _, _ => true

/-- Saturation only with integer lanes (R345). -/
def satOk (sat : Bool) (ty : VTy) : Bool := !sat || ty != .f

/-- The U bit of an atomic only with min and max (R335). -/
def amoOk (op : AmoOp) (uns : Bool) : Bool := !uns || op == .min || op == .max

/-- Position and length of EXTB and INSB (R323). -/
def fieldOk (pos lenM1 : BitVec 6) : Bool := pos.toNat + lenM1.toNat + 1 ≤ 64

def CoreRef.wf : CoreRef → Bool
  | .tile id _ => id < maxTiles
  | .feeder f c => f < maxFeeders && c < 4

def Iface.wf : Iface → Bool
  | .feeder f => f < maxFeeders
  | .towline t => t < maxTowlines

/-- A reach of the 8 by 6 (R4). -/
def reachOk (rx ry : Nat) : Bool := rx < 8 && ry < 6

def Sensor.wf : Sensor → Bool
  | .reach rx ry n => reachOk rx ry && n < 4
  | .feederDie f => f < maxFeeders
  | .stack f => f < maxFeeders
  | .coolant => true

/-- Well-formed instructions and events. -/
def Instr.wf : Instr → Bool
  | .submit p _ d => p < 4 && d.length == 64
  | .cqheadWrite p _ _ => p < 4
  | .lhctlRestart p _ => p < 4
  | .bar0Write p _ _ => p < 4
  | .pageWalkDone i _ _ => i.wf
  | .hello t e _ => e.wire != 3 && t < maxTiles
  | .thermalWarning x | .thermalLimit x | .thermalTrip x => x.wf
  | .voltageReplan rx ry _ | .coreRailLoss rx ry | .transitRailLoss rx ry | .coreRailReturn rx ry => reachOk rx ry
  | .transitConverterLoss rx ry _ => reachOk rx ry
  | .ticketRequest rx ry _ => reachOk rx ry
  | .laserFailover l => l < 4
  | .frameReceive t _ _ | .frameReplay t _ | .staticFlitHandoff t | .laneRotationStep ⟨t, _⟩ _ => t < maxTowlines
  | .weakLane ⟨t, _⟩ l | .laneSignalLoss ⟨t, _⟩ l => t < maxTowlines && l < 17
  | .frameSend t => t < maxTowlines
  | .remoteRequestReceive i q => i.wf && q.core.wf
  | .remoteTimeout c _ | .ferryReturn c | .btakeTimeout c | .waitvExpire c | .slwaitProceed c
  | .phaseWake c | .waitiWake c | .tdrecvWake c | .tserveWake ⟨c, _, _⟩ | .fenceRelease c | .rfenceRelease c => c.wf
  | .remoteAnswer c _ _ | .berthOfferArrive c _ _ | .portFetch c _ => c.wf
  | .ferryOffer c _ f => c.wf && f < maxFeeders
  | .weightReadRetry f _ | .weightReadData f _ => f < maxFeeders
  | .dirtyLineEvict f _ _ | .finjCopy f _ | .injectionModulate f _ => f < maxFeeders
  | .scrubRead t _ _ => t < maxTiles
  | .deliveryStart t _ _ _ f _ _ _ => t < maxTiles && f < maxFeeders
  | .deliveryComplete t _ | .staticFlitHop t | .dynPacketHop t | .dynPacketDeliver t _ => t < maxTiles
  | .tokenEject t _ _ _ => t < maxTiles
  | .poundFenceEffect p | .poundResetDone p => p < 16
  | .syswr n _ => listedSysReg n.toNat && !ownRowSysReg n.toNat
  | .sysrd _ n => listedSysReg n.toNat
  | .loop a _ => a != 0
  | .loops _ dim _ => dim.toNat ≤ 9
  | .slpost _ n => n != 0
  | .extb _ _ _ pos len => fieldOk pos len
  | .insb _ _ pos len => fieldOk pos len
  | .kop op _ _ b => op != .not || b == 0
  | .ld sz uns _ _ => !(uns && sz == 3)
  | .amo op uns _ _ _ _ _ => amoOk op uns
  | .vadd ty sat _ _ _ b _ | .vsub ty sat _ _ _ b _ | .vmul ty sat _ _ _ b _ => satOk sat ty && b.okFor ty
  | .vfma ty sat _ _ _ _ _ _ | .vfms ty sat _ _ _ _ _ _ => satOk sat ty
  | .vmin ty _ _ _ b _ | .vmax ty _ _ _ b _ => b.okFor ty
  | .vabs ty sat _ _ _ _ | .vneg ty sat _ _ _ _ => ty != .u && satOk sat ty
  | .vcmp _ ty _ _ _ b _ => b.okFor ty
  | .vredadd ty sat _ _ _ _ => satOk sat ty
  | .vscan op ty sat _ _ _ _ => satOk sat ty && (!sat || op == .add)
  | .vsample _ _ _ _ _ topk _ => topk.toNat ≤ 64
  | .mmul _ _ _ _ gm1 => gm1.toNat < 32
  | .mmulw _ _ _ pa pb _ => pa != pb
  | .mdrainV _ vd => vd.toNat ≤ 28
  | .mldz _ vs => vs.toNat ≤ 28
  | .mstz vd _ => vd.toNat ≤ 28
  | .tdsend _ _ _ _ len => len.toNat ≤ 64
  | .holdrq l => l != 0
  | .rld sz uns _ _ _ => !(uns && sz == 3)
  | .ramo op uns _ _ _ _ c _ => amoOk op uns && (op == .cas || c == 0)
  | _ => true

end Sys2Proof
end

