-- ==== Sys2Proof/Decode.lean ====
section
/-! DEFINITION. Instruction words: splitting and joining the fields (spec 12 R282, R288), the decoder (R291 and the encoding
rows of the instruction chapters), and the encoder written from the same tables. -/

namespace Sys2Proof

/-- The field of `w` bits from bit `lo` up. -/
abbrev bits (n : Nat) (lo w : Nat) (x : BitVec n) : BitVec w := x.extractLsb' lo w

/-- An enumeration code as a bit field. -/
def boolBit (b : Bool) : BitVec 1 := if b then 1 else 0

def splitG (o : OperandBits) : FmtG :=
  { dst := bits 52 47 5 o, sa := bits 52 42 5 o, sb := bits 52 37 5 o, sc := bits 52 32 5 o, sub := bits 52 24 8 o,
    x4 := bits 52 20 4 o, resv := bits 52 16 4 o, imm := bits 52 0 16 o }
def joinG (g : FmtG) : OperandBits :=
  g.dst ++ g.sa ++ g.sb ++ g.sc ++ g.sub ++ g.x4 ++ g.resv ++ g.imm
def splitI (o : OperandBits) : FmtI :=
  { dst := bits 52 47 5 o, sa := bits 52 42 5 o, sub := bits 52 32 10 o, imm := bits 52 0 32 o }
def joinI (g : FmtI) : OperandBits := g.dst ++ g.sa ++ g.sub ++ g.imm
def splitW (o : OperandBits) : FmtW :=
  { dst := bits 52 47 5 o, resv := bits 52 42 5 o, imm := bits 52 0 42 o }
def joinW (g : FmtW) : OperandBits := g.dst ++ g.resv ++ g.imm
def splitB (o : OperandBits) : FmtB :=
  { a := bits 52 47 5 o, sb := bits 52 42 5 o, cond := bits 52 38 4 o, k := bits 52 35 3 o, prt := bits 52 32 3 o,
    dim := bits 52 28 4 o, resv := bits 52 16 12 o, tgt := bits 52 0 16 o }
def joinB (g : FmtB) : OperandBits :=
  g.a ++ g.sb ++ g.cond ++ g.k ++ g.prt ++ g.dim ++ g.resv ++ g.tgt
def splitM (o : OperandBits) : FmtM :=
  { t := bits 52 47 5 o, base := bits 52 42 5 o, idx := bits 52 37 5 o, am := bits 52 35 2 o, k := bits 52 32 3 o,
    sub := bits 52 24 8 o, resv := bits 52 19 5 o, off := bits 52 0 19 o }
def joinM (g : FmtM) : OperandBits :=
  g.t ++ g.base ++ g.idx ++ g.am ++ g.k ++ g.sub ++ g.resv ++ g.off
def splitV (o : OperandBits) : FmtV :=
  { vd := bits 52 47 5 o, va := bits 52 42 5 o, vb := bits 52 37 5 o, vc := bits 52 32 5 o, k := bits 52 29 3 o,
    fold := bits 52 27 2 o, kd := bits 52 24 3 o, sub := bits 52 16 8 o, resv := bits 52 13 3 o, imm := bits 52 0 13 o }
def joinV (g : FmtV) : OperandBits :=
  g.vd ++ g.va ++ g.vb ++ g.vc ++ g.k ++ g.fold ++ g.kd ++ g.sub ++ g.resv ++ g.imm
def splitX (o : OperandBits) : FmtX :=
  { z := bits 52 51 1 o, ch := bits 52 47 4 o, pa := bits 52 44 3 o, pb := bits 52 41 3 o, vd := bits 52 36 5 o,
    gm1 := bits 52 28 8 o, kg := bits 52 26 2 o, cfg := bits 52 24 2 o, sub := bits 52 16 8 o, resv := bits 52 0 16 o }
def joinX (g : FmtX) : OperandBits :=
  g.z ++ g.ch ++ g.pa ++ g.pb ++ g.vd ++ g.gm1 ++ g.kg ++ g.cfg ++ g.sub ++ g.resv

/-! ### Codes of small fields -/

def bccOf (c : BitVec 4) : Option BccCond :=
  match c.toNat with
  | 0 => some .eq | 1 => some .ne | 2 => some .lt | 3 => some .ge | 4 => some .ltu | 5 => some .geu | _ => none
def bccCode : BccCond → BitVec 4
  | .eq => 0 | .ne => 1 | .lt => 2 | .ge => 3 | .ltu => 4 | .geu => 5
def bprOf (c : BitVec 4) : Option BprCond :=
  match c.toNat with
  | 0 => some .any | 1 => some .none | 2 => some .all | 3 => some .nall | _ => none
def bprCode : BprCond → BitVec 4
  | .any => 0 | .none => 1 | .all => 2 | .nall => 3
def kopOf (c : BitVec 8) : Option KopOp :=
  match c.toNat with
  | 0 => some .and | 1 => some .or | 2 => some .xor | 3 => some .andn | 4 => some .not | _ => none
def kopCode : KopOp → BitVec 8
  | .and => 0 | .or => 1 | .xor => 2 | .andn => 3 | .not => 4
def amoOf (c : BitVec 3) : Option AmoOp :=
  match c.toNat with
  | 0 => some .add | 1 => some .min | 2 => some .max | 3 => some .and | 4 => some .or | 5 => some .swap
  | 6 => some .cas | _ => none
def amoCode : AmoOp → BitVec 3
  | .add => 0 | .min => 1 | .max => 2 | .and => 3 | .or => 4 | .swap => 5 | .cas => 6
def vtyOf (c : BitVec 2) : Option VTy :=
  match c.toNat with
  | 0 => some .f | 1 => some .i | 2 => some .u | _ => none
def vtyCode : VTy → BitVec 2
  | .f => 0 | .i => 1 | .u => 2
def vcondOf (c : BitVec 3) : Option VCond :=
  match c.toNat with
  | 0 => some .eq | 1 => some .ne | 2 => some .lt | 3 => some .le | 4 => some .gt | 5 => some .ge | _ => none
def vcondCode : VCond → BitVec 3
  | .eq => 0 | .ne => 1 | .lt => 2 | .le => 3 | .gt => 4 | .ge => 5
def scanOf (c : BitVec 3) : Option ScanOp :=
  match c.toNat with
  | 0 => some .add | 1 => some .max | 2 => some .min | _ => none
def scanCode : ScanOp → BitVec 3
  | .add => 0 | .max => 1 | .min => 2
def cvtOf (c : BitVec 4) : Option CvtTy :=
  match c.toNat with
  | 0 => some .fp32 | 1 => some .i32 | 2 => some .u32 | 3 => some .bf16 | 4 => some .fp16 | 5 => some .dm8
  | 6 => some .i8 | 7 => some .u8 | 8 => some .i16 | _ => none
def cvtCode : CvtTy → BitVec 4
  | .fp32 => 0 | .i32 => 1 | .u32 => 2 | .bf16 => 3 | .fp16 => 4 | .dm8 => 5 | .i8 => 6 | .u8 => 7 | .i16 => 8
def fupdOf (c : BitVec 8) : Option FupdOp :=
  match c.toNat with
  | 0 => some .add | 1 => some .axpy | 2 => some .scal | 3 => some .copy | 4 => some .lerp | 5 => some .sqlerp
  | _ => none
def fupdCode : FupdOp → BitVec 8
  | .add => 0 | .axpy => 1 | .scal => 2 | .copy => 3 | .lerp => 4 | .sqlerp => 5
def fredOf (c : BitVec 8) : Option FredOp :=
  match c.toNat with
  | 0 => some .sum | 1 => some .max | 2 => some .min | 3 => some .sumsq | 4 => some .amax | _ => none
def fredCode : FredOp → BitVec 8
  | .sum => 0 | .max => 1 | .min => 2 | .sumsq => 3 | .amax => 4
def ffmtOf (c : BitVec 4) : Option FFmt :=
  match c.toNat with
  | 1 => some .bf16 | 2 => some .fp16 | 3 => some .fp32 | _ => none
def ffmtCode : FFmt → BitVec 4
  | .bf16 => 1 | .fp16 => 2 | .fp32 => 3
def kgOf (c : BitVec 2) : Option KGroup :=
  match c.toNat with
  | 0 => some .k4 | 1 => some .k8 | 2 => some .k16 | _ => none
def kgCode : KGroup → BitVec 2
  | .k4 => 0 | .k8 => 1 | .k16 => 2

/-- A register field that names a k register or a port: 8 to 31 are refused (R289). -/
def reg3 (r : BitVec 5) : Option (BitVec 3) := if r.toNat < 8 then some (bits 5 0 3 r) else none
def ofReg3 (r : BitVec 3) : BitVec 5 := r.zeroExtend 5

/-- Accept a candidate: the fields `want` are all that the instruction uses, so the word's own fields `got` equal them
(R289); and the operand limits hold (R287). -/
def accept {α : Type} [DecidableEq α] (got want : α) (i : Instr) : Except Reject Instr :=
  if got = want then (if i.wf then .ok i else .error .limit) else .error .reserved

/-- Continue with a decoded code, or refuse the sub-function. -/
def withCode {α : Type} (c : Option α) (k : α → Except Reject Instr) : Except Reject Instr :=
  match c with
  | some a => k a
  | none => .error .subFunction

/-! ### The decoder, column by column -/

/-- Rows of the C column, 0x00 to 0x1F (R306, R309 to R316, R319, R320). -/
def decodeC (op : Nat) (o : OperandBits) : Except Reject Instr :=
  match op with
  | 0x00 => if o = 0 then .ok .nop else .error .reserved
  | 0x01 => let b := splitB o; accept b { tgt := b.tgt } (.bra b.tgt)
  | 0x02 => let b := splitB o
            withCode (bccOf b.cond) fun c =>
              accept b { a := b.a, sb := b.sb, cond := b.cond, tgt := b.tgt } (.bcc c b.a b.sb b.tgt)
  | 0x03 => let b := splitB o
            withCode (bprOf b.cond) fun c =>
              accept b { k := b.k, cond := b.cond, tgt := b.tgt } (.bpr c b.k b.tgt)
  | 0x04 => let g := splitG o
            match g.sub.toNat with
            | 0 => accept g { sa := g.sa } (.jmp g.sa)
            | 1 => accept g { dst := g.dst, sa := g.sa, sub := g.sub } (.jmpLink g.dst g.sa)
            | _ => .error .subFunction
  | 0x05 => let b := splitB o; accept b { a := b.a, tgt := b.tgt } (.call b.a b.tgt)
  | 0x06 => let g := splitG o; accept g { sa := g.sa } (.ret g.sa)
  | 0x07 => let b := splitB o; accept b { a := b.a, tgt := b.tgt } (.loop b.a b.tgt)
  | 0x08 => let b := splitB o; accept b { prt := b.prt, dim := b.dim, tgt := b.tgt } (.loops b.prt b.dim b.tgt)
  | 0x09 => if o = 0 then .ok .halt else .error .reserved
  | 0x0A => let g := splitI o; accept g { imm := g.imm } (.trap g.imm)
  | 0x0B => let g := splitI o; accept g { imm := g.imm } (.breakTrap g.imm)
  | 0x0C => let g := splitG o; accept g { sa := g.sa, imm := g.imm } (.waitv g.sa g.imm)
  | 0x0D => let g := splitG o
            if g.imm.toNat < 4 then accept g { imm := g.imm } (.phase (bits 16 0 2 g.imm)) else .error .limit
  | 0x0E => let g := splitG o
            if g.x4.toNat < 8 then accept g { sa := g.sa, x4 := g.x4 } (.size g.sa (bits 4 0 3 g.x4)) else .error .reserved
  | 0x0F => if o = 0 then .ok .markp else .error .reserved
  | 0x10 => let g := splitG o
            if g.imm.toNat < 0x8000 then accept g { x4 := g.x4, imm := g.imm } (.slpost g.x4 (bits 16 0 15 g.imm))
            else .error .limit
  | 0x11 => let g := splitG o
            if g.imm.toNat < 0x8000 then accept g { x4 := g.x4, imm := g.imm } (.slwait g.x4 (bits 16 0 15 g.imm))
            else .error .limit
  | 0x12 => let g := splitG o; accept g { x4 := g.x4, sa := g.sa, imm := g.imm } (.slset g.x4 g.sa g.imm)
  | 0x13 => let g := splitG o; accept g { dst := g.dst, x4 := g.x4 } (.slget g.dst g.x4)
  | 0x18 => let g := splitG o
            if g.imm.toNat < 0x1000 then
              accept g { dst := g.dst, imm := g.imm } (.sysrd g.dst (bits 16 0 12 g.imm))
            else .error .reserved
  | 0x19 => let g := splitG o
            if g.imm.toNat < 0x1000 then
              let n := g.imm.toNat
              accept g { sa := g.sa, imm := g.imm } (
                if n = 0x00A then .fflagsWrite g.sa
                else if n = 0x00B then .cvmodeWrite g.sa
                else if n = 0x012 then .votelogClear g.sa
                else if n = 0x014 then .ejflagsClear g.sa
                else if 0x0C0 ≤ n && n < 0x0E0 then .windescWrite (bits 16 0 5 g.imm) g.sa
                else if 0x0E0 ≤ n && n < 0x0E8 then .tapcfgWrite (bits 16 0 3 g.imm) g.sa
                else if 0x0E8 ≤ n && n < 0x0F0 then .arrmapWrite (bits 16 0 3 g.imm) g.sa
                else if 0x0F0 ≤ n && n < 0x100 then .ejdescWrite (bits 16 0 4 g.imm) g.sa
                else if 0x100 ≤ n && n < 0x108 then .rfmtWrite (bits 16 0 3 g.imm) g.sa
                else if 0x200 ≤ n && n < 0x400 then .rtabWrite (bits 16 0 9 g.imm) g.sa
                else .syswr (bits 16 0 12 g.imm) g.sa)
            else .error .reserved
  | 0x1A => if o = 0 then .ok .eret else .error .reserved
  | 0x1B => if o = 0 then .ok .waiti else .error .reserved
  | _ => .error .opcode

/-- A register form of the S column with two sources (R321). -/
def sForm (g : FmtG) (f : Reg → Reg → Reg → Instr) : Except Reject Instr :=
  accept g { dst := g.dst, sa := g.sa, sb := g.sb } (f g.dst g.sa g.sb)

/-- A register form of the S column with one source (R321). -/
def sForm1 (g : FmtG) (f : Reg → Reg → Instr) : Except Reject Instr :=
  accept g { dst := g.dst, sa := g.sa } (f g.dst g.sa)

/-- An immediate form of the S column (R323). -/
def iForm (g : FmtI) (f : Reg → Reg → BitVec 32 → Instr) : Except Reject Instr :=
  accept g { dst := g.dst, sa := g.sa, imm := g.imm } (f g.dst g.sa g.imm)

/-- A shift by an immediate of 0 to 63 (R323). -/
def shiftForm (g : FmtI) (f : Reg → Reg → BitVec 6 → Instr) : Except Reject Instr :=
  if g.imm.toNat < 64 then accept g { dst := g.dst, sa := g.sa, imm := g.imm } (f g.dst g.sa (bits 32 0 6 g.imm))
  else .error .limit

/-- Rows of the S column, 0x20 to 0x4F (R321, R323 to R325). -/
def decodeS (op : Nat) (o : OperandBits) : Except Reject Instr :=
  match op with
  | 0x20 => sForm (splitG o) .add
  | 0x21 => sForm (splitG o) .sub
  | 0x22 => iForm (splitI o) .addi
  | 0x23 => sForm (splitG o) .mul
  | 0x24 => sForm (splitG o) .mulh
  | 0x25 => sForm (splitG o) .mulhsu
  | 0x26 => sForm (splitG o) .div
  | 0x27 => sForm (splitG o) .divu
  | 0x28 => sForm (splitG o) .rem
  | 0x29 => sForm (splitG o) .remu
  | 0x2A => sForm (splitG o) .and
  | 0x2B => sForm (splitG o) .or
  | 0x2C => sForm (splitG o) .xor
  | 0x2D => sForm (splitG o) .andn
  | 0x2E => iForm (splitI o) .andi
  | 0x2F => iForm (splitI o) .ori
  | 0x30 => iForm (splitI o) .xori
  | 0x31 => sForm (splitG o) .shl
  | 0x32 => sForm (splitG o) .shr
  | 0x33 => sForm (splitG o) .sha
  | 0x34 => shiftForm (splitI o) .shli
  | 0x35 => shiftForm (splitI o) .shri
  | 0x36 => shiftForm (splitI o) .shai
  | 0x37 => sForm (splitG o) .rot
  | 0x38 => sForm (splitG o) .min
  | 0x39 => sForm (splitG o) .max
  | 0x3A => sForm (splitG o) .minu
  | 0x3B => sForm (splitG o) .maxu
  | 0x3C => sForm (splitG o) .slt
  | 0x3D => sForm (splitG o) .sltu
  | 0x3E => sForm (splitG o) .seq
  | 0x3F => let g := splitG o
            accept g { dst := g.dst, sa := g.sa, sb := g.sb, sc := g.sc } (.sel g.dst g.sa g.sb g.sc)
  | 0x40 => sForm1 (splitG o) .clz
  | 0x41 => sForm1 (splitG o) .ctz
  | 0x42 => sForm1 (splitG o) .popc
  | 0x43 => let g := splitW o; accept g { dst := g.dst, imm := g.imm } (.li g.dst g.imm)
  | 0x44 => let g := splitW o
            if g.imm.toNat < 2 ^ 22 then accept g { dst := g.dst, imm := g.imm } (.lih g.dst (bits 42 0 22 g.imm))
            else .error .reserved
  | 0x45 => let g := splitG o
            if g.imm.toNat < 8 then
              accept g { dst := g.dst, sa := g.sa, sb := g.sb, imm := g.imm } (.addx g.dst g.sa g.sb (bits 16 0 3 g.imm))
            else .error .limit
  | 0x46 => let g := splitI o
            if g.sub.toNat < 2 then
              if g.imm.toNat < 2 ^ 12 then
                accept g { dst := g.dst, sa := g.sa, sub := g.sub, imm := g.imm }
                  (.extb (g.sub == 1) g.dst g.sa (bits 32 0 6 g.imm) (bits 32 6 6 g.imm))
              else .error .reserved
            else .error .subFunction
  | 0x47 => let g := splitI o
            if g.imm.toNat < 2 ^ 12 then
              accept g { dst := g.dst, sa := g.sa, imm := g.imm }
                (.insb g.dst g.sa (bits 32 0 6 g.imm) (bits 32 6 6 g.imm))
            else .error .reserved
  | 0x48 => let g := splitG o
            match g.sub.toNat with
            | 0 => withCode (reg3 g.dst) fun d => accept g { dst := g.dst, sa := g.sa } (.kmovToK d g.sa)
            | 1 => withCode (reg3 g.sa) fun a => accept g { dst := g.dst, sa := g.sa, sub := g.sub } (.kmovToG g.dst a)
            | _ => .error .subFunction
  | 0x49 => let g := splitG o
            withCode (kopOf g.sub) fun op =>
              withCode (reg3 g.dst) fun d => withCode (reg3 g.sa) fun a => withCode (reg3 g.sb) fun b =>
                if op = .not then accept g { dst := g.dst, sa := g.sa, sub := g.sub } (.kop op d a 0)
                else accept g { dst := g.dst, sa := g.sa, sb := g.sb, sub := g.sub } (.kop op d a b)
  | _ => .error .opcode

/-- The memory operand of a row that allows AM 1 (R290), with the fields it uses. -/
def memOperand (g : FmtM) : Option (MemOp × FmtM) :=
  match g.am.toNat with
  | 0 => some (.addr g.base g.idx g.off, { base := g.base, idx := g.idx, off := g.off })
  | 1 => match reg3 g.base with
         | some p => some (.port p, { base := g.base, am := g.am })
         | none => none
  | _ => none

/-- Rows of the L column, 0x50 to 0x5E (R326, R335). -/
def decodeL (op : Nat) (o : OperandBits) : Except Reject Instr :=
  match op with
  | 0x50 => let g := splitM o
            if g.sub.toNat < 8 then
              withCode (memOperand g) fun (m, u) =>
                accept g { u with t := g.t, sub := g.sub } (.ld (bits 8 0 2 g.sub) (g.sub.getLsbD 2) g.t m)
            else .error .subFunction
  | 0x51 => let g := splitM o
            if g.sub.toNat < 4 then
              withCode (memOperand g) fun (m, u) => accept g { u with t := g.t, sub := g.sub } (.st (bits 8 0 2 g.sub) g.t m)
            else .error .subFunction
  | 0x52 => let g := splitM o
            if g.sub.toNat < 4 then
              withCode (memOperand g) fun (m, u) =>
                accept g { u with t := g.t, k := g.k, sub := g.sub } (.vld (bits 8 0 2 g.sub) g.t m g.k)
            else .error .subFunction
  | 0x53 => let g := splitM o
            if g.sub.toNat < 4 then
              withCode (memOperand g) fun (m, u) =>
                accept g { u with t := g.t, k := g.k, sub := g.sub } (.vst (bits 8 0 2 g.sub) g.t m g.k)
            else .error .subFunction
  | 0x54 => let g := splitM o
            if g.sub.toNat < 4 then
              accept g { t := g.t, base := g.base, idx := g.idx, k := g.k, sub := g.sub, off := g.off }
                (.vlds (bits 8 0 2 g.sub) g.t g.base g.off g.idx g.k)
            else .error .subFunction
  | 0x55 => let g := splitM o
            if g.sub.toNat < 4 then
              accept g { t := g.t, base := g.base, idx := g.idx, k := g.k, sub := g.sub, off := g.off }
                (.vgath (bits 8 0 2 g.sub) g.t g.base g.off g.idx g.k)
            else .error .subFunction
  | 0x56 => let g := splitM o
            if g.sub.toNat < 4 then
              accept g { t := g.t, base := g.base, idx := g.idx, k := g.k, sub := g.sub, off := g.off }
                (.vscat (bits 8 0 2 g.sub) g.t g.base g.off g.idx g.k)
            else .error .subFunction
  | 0x57 => let g := splitM o
            withCode (reg3 g.t) fun p =>
              accept g { t := g.t, base := g.base, idx := g.idx, off := g.off } (.pcfg p g.base g.idx g.off)
  | 0x58 => let g := splitG o; withCode (reg3 g.sa) fun p => accept g { sa := g.sa } (.pclose p)
  | 0x59 => let g := splitG o; withCode (reg3 g.sa) fun p => accept g { dst := g.dst, sa := g.sa } (.pstat g.dst p)
  | 0x5A => let g := splitG o; withCode (reg3 g.sa) fun p => accept g { sa := g.sa, sb := g.sb } (.pseek p g.sb)
  | 0x5B => let g := splitM o
            if g.sub.toNat < 32 then
              withCode (amoOf (bits 8 0 3 g.sub)) fun op =>
                accept g { t := g.t, base := g.base, idx := g.idx, sub := g.sub, off := g.off }
                  (.amo op (g.sub.getLsbD 4) (g.sub.getLsbD 3) g.t g.base g.off g.idx)
            else .error .subFunction
  | 0x5C => if o = 0 then .ok .fence else .error .reserved
  | 0x5D => let g := splitG o
            match g.sub.toNat with
            | 0 => accept g { dst := g.dst, sa := g.sa } (.winqAddr g.dst g.sa)
            | 1 => accept g { dst := g.dst, x4 := g.x4, sub := g.sub } (.winqNum g.dst g.x4)
            | _ => .error .subFunction
  | 0x5E => let g := splitM o
            accept g { base := g.base, idx := g.idx, off := g.off } (.lutld g.base g.idx g.off)
  | _ => .error .opcode

/-- Second source of a V word: register or immediate, as SUB bit 2 says, with the fields it uses (R345). -/
def vSource (g : FmtV) : VSrc × FmtV :=
  if g.sub.getLsbD 2 then (.imm g.imm, { imm := g.imm }) else (.reg g.vb, { vb := g.vb })

/-- An arithmetic row with type, saturation and two sources (R345, R348). -/
def vArith (g : FmtV) (f : VTy → Bool → BitVec 2 → Reg → Reg → VSrc → KReg → Instr) : Except Reject Instr :=
  if g.sub.toNat < 16 then
    withCode (vtyOf (bits 8 0 2 g.sub)) fun ty =>
      let (b, u) := vSource g
      accept g { u with vd := g.vd, va := g.va, k := g.k, fold := g.fold, sub := g.sub }
        (f ty (g.sub.getLsbD 3) g.fold g.vd g.va b g.k)
  else .error .subFunction

/-- A fused multiply-add row (R348). -/
def vFma (g : FmtV) (f : VTy → Bool → BitVec 2 → Reg → Reg → Reg → Reg → KReg → Instr) : Except Reject Instr :=
  if g.sub.toNat < 16 && !g.sub.getLsbD 2 then
    withCode (vtyOf (bits 8 0 2 g.sub)) fun ty =>
      accept g { vd := g.vd, va := g.va, vb := g.vb, vc := g.vc, k := g.k, fold := g.fold, sub := g.sub }
        (f ty (g.sub.getLsbD 3) g.fold g.vd g.va g.vb g.vc g.k)
  else .error .subFunction

/-- VMIN and VMAX: no saturation (R348). -/
def vMinMax (g : FmtV) (f : VTy → BitVec 2 → Reg → Reg → VSrc → KReg → Instr) : Except Reject Instr :=
  if g.sub.toNat < 8 then
    withCode (vtyOf (bits 8 0 2 g.sub)) fun ty =>
      let (b, u) := vSource g
      accept g { u with vd := g.vd, va := g.va, k := g.k, fold := g.fold, sub := g.sub } (f ty g.fold g.vd g.va b g.k)
  else .error .subFunction

/-- One source with type and saturation: VABS, VNEG, VREDADD (R348, R355). -/
def vUnary (g : FmtV) (f : VTy → Bool → BitVec 2 → Reg → Reg → KReg → Instr) : Except Reject Instr :=
  if g.sub.toNat < 16 && !g.sub.getLsbD 2 then
    withCode (vtyOf (bits 8 0 2 g.sub)) fun ty =>
      accept g { vd := g.vd, va := g.va, k := g.k, fold := g.fold, sub := g.sub }
        (f ty (g.sub.getLsbD 3) g.fold g.vd g.va g.k)
  else .error .subFunction

/-- One source with type only: VREDMAX, VREDMIN, VARGMAX (R355, R357). -/
def vTyped (g : FmtV) (f : VTy → BitVec 2 → Reg → Reg → KReg → Instr) : Except Reject Instr :=
  if g.sub.toNat < 4 then
    withCode (vtyOf (bits 8 0 2 g.sub)) fun ty =>
      accept g { vd := g.vd, va := g.va, k := g.k, fold := g.fold, sub := g.sub } (f ty g.fold g.vd g.va g.k)
  else .error .subFunction

/-- Logic and shift rows: TYPE 1, no modifier (R349). -/
def vLogic (g : FmtV) (f : BitVec 2 → Reg → Reg → VSrc → KReg → Instr) : Except Reject Instr :=
  if g.sub = 0x01 || g.sub = 0x05 then
    let (b, u) := vSource g
    accept g { u with vd := g.vd, va := g.va, k := g.k, fold := g.fold, sub := g.sub } (f g.fold g.vd g.va b g.k)
  else .error .subFunction

/-- One source, SUB 0 (R354, R358, R360). -/
def vOne (g : FmtV) (f : BitVec 2 → Reg → Reg → KReg → Instr) : Except Reject Instr :=
  if g.sub = 0 then
    accept g { vd := g.vd, va := g.va, k := g.k, fold := g.fold } (f g.fold g.vd g.va g.k)
  else .error .subFunction

/-- Rows of the V column, 0x70 to 0x98 (R345 to R370). -/
def decodeV (op : Nat) (o : OperandBits) : Except Reject Instr :=
  let g := splitV o
  match op with
  | 0x70 => vArith g .vadd
  | 0x71 => vArith g .vsub
  | 0x72 => vArith g .vmul
  | 0x73 => vFma g .vfma
  | 0x74 => vFma g .vfms
  | 0x75 => vMinMax g .vmin
  | 0x76 => vMinMax g .vmax
  | 0x77 => vUnary g .vabs
  | 0x78 => vUnary g .vneg
  | 0x79 => vLogic g .vand
  | 0x7A => vLogic g .vor
  | 0x7B => vLogic g .vxor
  | 0x7C => vLogic g .vshl
  | 0x7D => vLogic g .vshr
  | 0x7E => vLogic g .vsha
  | 0x7F =>
    if !g.sub.getLsbD 7 && !g.sub.getLsbD 3 then
      withCode (vcondOf (bits 8 4 3 g.sub)) fun c => withCode (vtyOf (bits 8 0 2 g.sub)) fun ty =>
        let (b, u) := vSource g
        accept g { u with kd := g.kd, va := g.va, k := g.k, fold := g.fold, sub := g.sub }
          (.vcmp c ty g.fold g.kd g.va b g.k)
    else .error .subFunction
  | 0x80 =>
    if g.sub = 0 then
      accept g { vd := g.vd, va := g.va, vb := g.vb, k := g.k, fold := g.fold } (.vsel g.fold g.vd g.va g.vb g.k)
    else .error .subFunction
  | 0x81 =>
    withCode (cvtOf (bits 8 4 4 g.sub)) fun dst => withCode (cvtOf (bits 8 0 4 g.sub)) fun src =>
      accept g { vd := g.vd, va := g.va, k := g.k, fold := g.fold, sub := g.sub } (.vcvt dst src g.fold g.vd g.va g.k)
  | 0x82 => vOne g .vrcp
  | 0x83 => vOne g .vrsq
  | 0x84 => vOne g .vsqrt
  | 0x85 => vOne g .vexp2
  | 0x86 => vOne g .vlog2
  | 0x87 => vOne g .vtanh
  | 0x88 => vOne g .vsigm
  | 0x89 => vUnary g .vredadd
  | 0x8A => vTyped g .vredmax
  | 0x8B => vTyped g .vredmin
  | 0x8C =>
    if g.sub.toNat < 64 && !g.sub.getLsbD 2 then
      withCode (scanOf (bits 8 4 3 g.sub)) fun op => withCode (vtyOf (bits 8 0 2 g.sub)) fun ty =>
        accept g { vd := g.vd, va := g.va, k := g.k, fold := g.fold, sub := g.sub }
          (.vscan op ty (g.sub.getLsbD 3) g.fold g.vd g.va g.k)
    else .error .subFunction
  | 0x8D =>
    if g.sub = 0 then
      accept g { vd := g.vd, va := g.va, vb := g.vb, k := g.k, fold := g.fold } (.vperm g.fold g.vd g.va g.vb g.k)
    else .error .subFunction
  | 0x8E =>
    if g.sub = 0 then
      if g.imm.toNat < 64 then
        accept g { vd := g.vd, va := g.va, k := g.k, fold := g.fold, imm := g.imm }
          (.vbcast g.fold g.vd g.va (bits 13 0 6 g.imm) g.k)
      else .error .limit
    else .error .subFunction
  | 0x8F =>
    match g.sub.toNat with
    | 0 => accept g { vd := g.vd, va := g.va, k := g.k, fold := g.fold } (.vsplatG g.fold g.vd g.va g.k)
    | 1 => accept g { vd := g.vd, k := g.k, fold := g.fold, sub := g.sub, imm := g.imm } (.vsplatImm g.fold g.vd g.imm g.k)
    | _ => .error .subFunction
  | 0x90 =>
    if g.sub = 0 then
      accept g { vd := g.vd, k := g.k, fold := g.fold, imm := g.imm } (.viota g.fold g.vd g.imm g.k)
    else .error .subFunction
  | 0x91 =>
    match g.sub.toNat with
    | 0 => accept g { vd := g.vd, va := g.va, k := g.k, fold := g.fold } (.vmov g.fold g.vd g.va g.k)
    | 1 => if g.imm.toNat < 64 then
             accept g { vd := g.vd, va := g.va, sub := g.sub, imm := g.imm } (.vmovG g.vd g.va (bits 13 0 6 g.imm))
           else .error .limit
    | 2 => if g.imm.toNat < 64 then
             accept g { vd := g.vd, va := g.va, sub := g.sub, imm := g.imm } (.vmovE g.vd g.va (bits 13 0 6 g.imm))
           else .error .limit
    | _ => .error .subFunction
  | 0x92 =>
    if g.sub = 0 then
      accept g { vd := g.vd, va := g.va, k := g.k, fold := g.fold, kd := g.kd } (.vcomp g.fold g.vd g.kd g.va g.k)
    else .error .subFunction
  | 0x93 => vOne g .vlut
  | 0x94 =>
    if g.sub = 0 then
      accept g { vd := g.vd, va := g.va, vb := g.vb, k := g.k, fold := g.fold, imm := g.imm }
        (.vhash g.fold g.vd g.va g.vb g.imm g.k)
    else .error .subFunction
  | 0x95 =>
    if g.sub = 0 then
      if g.imm.toNat < 16 then
        accept g { vd := g.vd, va := g.va, vb := g.vb, fold := 3, imm := g.imm } (.vpda g.vd g.va g.vb (bits 13 0 4 g.imm))
      else .error .limit
    else .error .subFunction
  | 0x96 =>
    if g.sub = 0 then
      if g.imm.toNat < 16 then
        accept g { va := g.va, vb := g.vb, fold := g.fold, kd := g.kd, imm := g.imm }
          (.vtmask g.fold g.kd g.va g.vb (bits 13 0 4 g.imm))
      else .error .limit
    else .error .subFunction
  | 0x97 =>
    if g.sub = 0 then
      accept g { vd := g.vd, va := g.va, vb := g.vb, vc := g.vc, k := g.k, fold := g.fold, imm := g.imm }
        (.vsample g.fold g.vd g.va g.vb g.vc g.imm g.k)
    else .error .subFunction
  | 0x98 => vTyped g .vargmax
  | _ => .error .opcode

/-- Rows of the M column and the token form of MDCFG, 0xB0 to 0xBA (R371 to R381). -/
def decodeM (op : Nat) (o : OperandBits) : Except Reject Instr :=
  let x := splitX o
  match op with
  | 0xB0 => if x.sub = 0 then accept x { z := x.z } (.mzero (x.z == 1)) else .error .subFunction
  | 0xB1 =>
    if x.sub = 0 then
      withCode (kgOf x.kg) fun kg =>
        accept x { z := x.z, ch := x.ch, pa := x.pa, gm1 := x.gm1, kg := x.kg } (.mmul kg (x.z == 1) x.ch x.pa x.gm1)
    else .error .subFunction
  | 0xB2 =>
    if x.sub = 0 then
      withCode (kgOf x.kg) fun kg =>
        accept x { z := x.z, ch := x.ch, pa := x.pa, pb := x.pb, gm1 := x.gm1, kg := x.kg }
          (.mmulw kg (x.z == 1) x.ch x.pa x.pb x.gm1)
    else .error .subFunction
  | 0xB3 => if x.sub = 0 then accept x { ch := x.ch } (.marm x.ch) else .error .subFunction
  | 0xB4 => if x.sub = 0 then accept x { ch := x.ch } (.mdisarm x.ch) else .error .subFunction
  | 0xB5 => if x.sub = 0 then accept x { ch := x.ch } (.mrel x.ch) else .error .subFunction
  | 0xB6 =>
    match x.sub.toNat with
    | 0 => accept x { z := x.z, vd := x.vd } (.mdrain (x.z == 1) x.vd)
    | 1 => accept x { z := x.z, vd := x.vd, sub := x.sub } (.mdrainV (x.z == 1) x.vd)
    | _ => .error .subFunction
  | 0xB7 =>
    match x.sub.toNat with
    | 0 => accept x { cfg := x.cfg } (.mdcfgSet x.cfg)
    | 1 => accept x { cfg := x.cfg, sub := x.sub } (.mdcfgTok x.cfg)
    | 2 => accept x { sub := x.sub } .mdcfgClr
    | _ => .error .subFunction
  | 0xB8 =>
    if x.sub.toNat < 2 then accept x { vd := x.vd, sub := x.sub } (.msums (x.sub == 1) x.vd) else .error .subFunction
  | 0xB9 => if x.sub = 0 then accept x { z := x.z, vd := x.vd } (.mldz (x.z == 1) x.vd) else .error .subFunction
  | 0xBA => if x.sub = 0 then accept x { z := x.z, vd := x.vd } (.mstz x.vd (x.z == 1)) else .error .subFunction
  | _ => .error .opcode

/-- Rows of the F column, 0xC8 to 0xCC (R385). -/
def decodeF (op : Nat) (o : OperandBits) : Except Reject Instr :=
  let g := splitG o
  match op with
  | 0xC8 =>
    if g.sub = 0 then
      if g.imm.toNat < 256 then accept g { sa := g.sa, sb := g.sb, imm := g.imm } (.finj g.sa g.sb (bits 16 0 8 g.imm))
      else .error .limit
    else .error .subFunction
  | 0xC9 => if g.sub = 0 then accept g { sa := g.sa, sb := g.sb } (.fpref g.sa g.sb) else .error .subFunction
  | 0xCA =>
    withCode (fupdOf g.sub) fun op => withCode (ffmtOf g.x4) fun fmt =>
      accept g { sa := g.sa, sb := g.sb, sc := g.sc, sub := g.sub, x4 := g.x4, imm := g.imm }
        (.fupd op fmt g.sa g.sb g.sc g.imm)
  | 0xCB =>
    withCode (fredOf g.sub) fun op => withCode (ffmtOf g.x4) fun fmt =>
      accept g { dst := g.dst, sa := g.sa, sub := g.sub, x4 := g.x4, imm := g.imm } (.fred op fmt g.dst g.sa g.imm)
  | 0xCC =>
    if g.sub = 0 then
      if g.imm.toNat < 256 then accept g { sa := g.sa, imm := g.imm } (.fgrp g.sa (bits 16 0 8 g.imm)) else .error .limit
    else .error .subFunction
  | _ => .error .opcode

/-- Rows of the N column, 0xD0 to 0xE2 (R396 to R412). -/
def decodeN (op : Nat) (o : OperandBits) : Except Reject Instr :=
  let g := splitG o
  match op with
  | 0xD0 =>
    match g.sub.toNat with
    | 0 => accept g { sa := g.sa, imm := g.imm } (.tsend g.sa g.imm)
    | 1 => withCode (reg3 g.sa) fun p => accept g { sa := g.sa, sub := g.sub } (.tsendP p)
    | 2 => if g.imm.toNat < 4 then
             accept g { sa := g.sa, sub := g.sub, imm := g.imm } (.tsendV g.sa (bits 16 0 2 g.imm))
           else .error .limit
    | _ => .error .subFunction
  | 0xD1 =>
    match g.sub.toNat with
    | 0 => accept g { sa := g.sa } (.tredV false g.sa)
    | 1 => accept g { sa := g.sa, sub := g.sub } (.tredV true g.sa)
    | 2 => accept g { sa := g.sa, sub := g.sub, imm := g.imm } (.tredMem false g.sa g.imm)
    | 3 => accept g { sa := g.sa, sub := g.sub, imm := g.imm } (.tredMem true g.sa g.imm)
    | _ => .error .subFunction
  | 0xD2 => if g.sub = 0 then accept g { sa := g.sa, x4 := g.x4 } (.tej g.x4 g.sa) else .error .subFunction
  | 0xD3 =>
    if g.sub = 0 then
      if g.imm.toNat < 128 then
        accept g { dst := g.dst, sa := g.sa, sb := g.sb, sc := g.sc, imm := g.imm }
          (.tdsend g.dst g.sa g.sb g.sc (bits 16 0 7 g.imm))
      else .error .limit
    else .error .subFunction
  | 0xD4 =>
    match g.sub.toNat with
    | 0 => accept g { dst := g.dst, sa := g.sa } (.tdrecv g.dst g.sa)
    | 1 => accept g { dst := g.dst, sa := g.sa, sub := g.sub } (.tdrecvNb g.dst g.sa)
    | _ => .error .subFunction
  | 0xD5 =>
    if g.sub = 0 then
      if g.imm.toNat < 256 then accept g { sa := g.sa, sb := g.sb, imm := g.imm } (.trtab (bits 16 0 8 g.imm) g.sa g.sb)
      else .error .reserved
    else .error .subFunction
  | 0xD6 =>
    match g.sub.toNat with
    | 0 => accept g { dst := g.dst } (.timeT g.dst)
    | 1 => accept g { dst := g.dst, sub := g.sub } (.timeV g.dst)
    | 2 => accept g { dst := g.dst, sub := g.sub } (.timeOff g.dst)
    | _ => .error .subFunction
  | 0xD7 => if o = 0 then .ok .drift else .error .reserved
  | 0xD8 => if g.sub = 0 then accept g { imm := g.imm } (.holdrq g.imm) else .error .subFunction
  | 0xD9 =>
    match g.sub.toNat with
    | 0 => accept g { sb := g.sb, x4 := g.x4 } (.berthW g.x4 g.sb)
    | 1 => accept g { sa := g.sa, sb := g.sb, sub := g.sub } (.berthG g.sa g.sb)
    | _ => .error .subFunction
  | 0xDA =>
    match g.sub.toNat with
    | 0 => accept g { sb := g.sb, x4 := g.x4 } (.bviewW g.x4 g.sb)
    | 1 => accept g { sa := g.sa, sb := g.sb, sub := g.sub } (.bviewG g.sa g.sb)
    | _ => .error .subFunction
  | 0xDB =>
    match g.sub.toNat with
    | 0 => accept g { x4 := g.x4 } (.btakeW g.x4)
    | 1 => accept g { sa := g.sa, sub := g.sub } (.btakeG g.sa)
    | 2 => accept g { x4 := g.x4, sub := g.sub } (.btakeViewW g.x4)
    | 3 => accept g { sa := g.sa, sub := g.sub } (.btakeViewG g.sa)
    | _ => .error .subFunction
  | 0xDC =>
    if g.sub = 0 then
      if g.imm.toNat < 64 then accept g { dst := g.dst, imm := g.imm } (.tkt g.dst (bits 16 0 6 g.imm)) else .error .reserved
    else .error .subFunction
  | 0xDD =>
    if g.sub = 0 then
      if g.imm.toNat < 64 then accept g { sa := g.sa, imm := g.imm } (.tserve g.sa (bits 16 0 6 g.imm)) else .error .reserved
    else .error .subFunction
  | 0xDE =>
    if g.sub = 0 then
      if g.imm.toNat < 64 then accept g { imm := g.imm } (.tadv (bits 16 0 6 g.imm)) else .error .reserved
    else .error .subFunction
  | 0xDF =>
    if g.sub.toNat < 8 then
      accept g { dst := g.dst, sa := g.sa, sub := g.sub, imm := g.imm }
        (.rld (bits 8 0 2 g.sub) (g.sub.getLsbD 2) g.dst g.sa g.imm)
    else .error .subFunction
  | 0xE0 =>
    if g.sub.toNat < 4 then
      accept g { sa := g.sa, sb := g.sb, sub := g.sub, imm := g.imm } (.rst (bits 8 0 2 g.sub) g.sa g.sb g.imm)
    else .error .subFunction
  | 0xE1 =>
    if g.sub.toNat < 32 then
      withCode (amoOf (bits 8 0 3 g.sub)) fun op =>
        accept g { dst := g.dst, sa := g.sa, sb := g.sb, sc := g.sc, sub := g.sub, imm := g.imm }
          (.ramo op (g.sub.getLsbD 4) (g.sub.getLsbD 3) g.dst g.sa g.sb g.sc g.imm)
    else .error .subFunction
  | 0xE2 => if o = 0 then .ok .rfence else .error .reserved
  | _ => .error .opcode

/-- The opcode map of R291: each column decodes its own range. -/
def decodeOperands (op : BitVec 8) (o : OperandBits) : Except Reject Instr :=
  let n := op.toNat
  if n < 0x20 then decodeC n o
  else if n < 0x50 then decodeS n o
  else if n < 0x70 then decodeL n o
  else if n < 0xB0 then decodeV n o
  else if n < 0xC8 then decodeM n o
  else if n < 0xD0 then decodeF n o
  else decodeN n o

/-- The words of R285, which must have D = 0 and of which a bundle holds at most one. -/
def Instr.isControlWord : Instr → Bool
  | .bra _ | .bcc _ _ _ _ | .bpr _ _ _ | .jmp _ | .jmpLink _ _ | .call _ _ | .ret _ | .loop _ _ | .loops _ _ _ => true
  | .halt | .trap _ | .breakTrap _ | .eret | .waiti => true
  | _ => false

/-- Decode one instruction word (R282 to R285): total, refusing by name. The D field of a NOP is ignored (R283). -/
def decodeWord (w : Word) : Except Reject Decoded :=
  match decodeOperands (bits 64 52 8 w) (bits 64 0 52 w) with
  | .error e => .error e
  | .ok i =>
    let d := bits 64 60 3 w
    if i.isControlWord && d != 0 then .error .defer
    else .ok { link := w.getLsbD 63, defer := d, instr := i }

/-- Eight bytes, lowest address first, as a word (R7). -/
def wordOfBytes (bs : List Byte) : Word :=
  bs.foldr (fun b acc => (acc <<< 8) ||| b.zeroExtend 64) 0

/-- A word as eight bytes, lowest address first (R7). -/
def bytesOfWord (w : Word) : List Byte := (List.range 8).map fun i => bits 64 (8 * i) 8 w

/-- Decode the first instruction of a list of bytes: the instruction and the bytes that follow it. -/
def decodeBytes (bs : List Byte) : Except Reject (Decoded × List Byte) :=
  if bs.length < 8 then .error .noWord
  else match decodeWord (wordOfBytes (bs.take 8)) with
    | .error e => .error e
    | .ok d => .ok (d, bs.drop 8)

/-- The instruction of the first word of a row's `nbits` bits, numbered as the opcode table numbers them; words are 64 bits,
so the word's bytes are laid out little-endian (R7) and decoded. -/
def decodeTableWord (_nbits w : Nat) : Option Instr :=
  match decodeBytes (bytesOfWord (BitVec.ofNat 64 w)) with
  | .ok (d, _) => some d.instr
  | .error _ => none

/-! ### The encoder -/

def encS (op : Nat) (d a b : Reg) : Option (BitVec 8 × OperandBits) := some (BitVec.ofNat 8 op, joinG { dst := d, sa := a, sb := b })
def encG (op : Nat) (g : FmtG) : Option (BitVec 8 × OperandBits) := some (BitVec.ofNat 8 op, joinG g)
def encI (op : Nat) (g : FmtI) : Option (BitVec 8 × OperandBits) := some (BitVec.ofNat 8 op, joinI g)
def encW (op : Nat) (g : FmtW) : Option (BitVec 8 × OperandBits) := some (BitVec.ofNat 8 op, joinW g)
def encB (op : Nat) (g : FmtB) : Option (BitVec 8 × OperandBits) := some (BitVec.ofNat 8 op, joinB g)
def encM (op : Nat) (g : FmtM) : Option (BitVec 8 × OperandBits) := some (BitVec.ofNat 8 op, joinM g)
def encV (op : Nat) (g : FmtV) : Option (BitVec 8 × OperandBits) := some (BitVec.ofNat 8 op, joinV g)
def encX (op : Nat) (g : FmtX) : Option (BitVec 8 × OperandBits) := some (BitVec.ofNat 8 op, joinX g)

/-- The fields of a memory operand (R290). -/
def memFields : MemOp → FmtM
  | .addr b i o => { base := b, idx := i, off := o }
  | .port p => { base := ofReg3 p, am := 1 }

/-- The fields of a V second source, with the IMM bit of SUB (R345). -/
def srcFields : VSrc → FmtV
  | .reg r => { vb := r }
  | .imm i => { imm := i }
def srcBit : VSrc → BitVec 1
  | .reg _ => 0
  | .imm _ => 1

/-- SUB of the arithmetic rows (R345): 0, COND or OP, SAT, IMM, TYPE. -/
def vSub (c : BitVec 3) (sat : Bool) (imm : BitVec 1) (ty : VTy) : BitVec 8 :=
  (0 : BitVec 1) ++ c ++ boolBit sat ++ imm ++ vtyCode ty

def encVArith (op : Nat) (ty : VTy) (sat : Bool) (fold : BitVec 2) (vd va : Reg) (b : VSrc) (k : KReg) :=
  encV op { srcFields b with vd := vd, va := va, k := k, fold := fold, sub := vSub 0 sat (srcBit b) ty }
def encVFma (op : Nat) (ty : VTy) (sat : Bool) (fold : BitVec 2) (vd va vb vc : Reg) (k : KReg) :=
  encV op { vd := vd, va := va, vb := vb, vc := vc, k := k, fold := fold, sub := vSub 0 sat 0 ty }
def encVUnary (op : Nat) (ty : VTy) (sat : Bool) (fold : BitVec 2) (vd va : Reg) (k : KReg) :=
  encV op { vd := vd, va := va, k := k, fold := fold, sub := vSub 0 sat 0 ty }
def encVOne (op : Nat) (fold : BitVec 2) (vd va : Reg) (k : KReg) :=
  encV op { vd := vd, va := va, k := k, fold := fold }
def sysImm (base n : Nat) : BitVec 16 := BitVec.ofNat 16 (base + n)

/-- Opcode and operand bits of an instruction word; nothing for rows that are no instruction words. -/
def encodeOperands : Instr → Option (BitVec 8 × OperandBits)
  | .nop => some (0x00, 0)
  | .bra t => encB 0x01 { tgt := t }
  | .bcc c a b t => encB 0x02 { a := a, sb := b, cond := bccCode c, tgt := t }
  | .bpr c k t => encB 0x03 { cond := bprCode c, k := k, tgt := t }
  | .jmp a => encG 0x04 { sa := a }
  | .jmpLink d a => encG 0x04 { dst := d, sa := a, sub := 1 }
  | .call a t => encB 0x05 { a := a, tgt := t }
  | .ret a => encG 0x06 { sa := a }
  | .loop a t => encB 0x07 { a := a, tgt := t }
  | .loops p dim t => encB 0x08 { prt := p, dim := dim, tgt := t }
  | .halt => some (0x09, 0)
  | .trap imm => encI 0x0A { imm := imm }
  | .breakTrap imm => encI 0x0B { imm := imm }
  | .waitv a imm => encG 0x0C { sa := a, imm := imm }
  | .phase l => encG 0x0D { imm := l.zeroExtend 16 }
  | .size a c => encG 0x0E { sa := a, x4 := c.zeroExtend 4 }
  | .markp => some (0x0F, 0)
  | .slpost sl n => encG 0x10 { x4 := sl, imm := n.zeroExtend 16 }
  | .slwait sl n => encG 0x11 { x4 := sl, imm := n.zeroExtend 16 }
  | .slset sl a imm => encG 0x12 { sa := a, x4 := sl, imm := imm }
  | .slget d sl => encG 0x13 { dst := d, x4 := sl }
  | .sysrd d n => encG 0x18 { dst := d, imm := n.zeroExtend 16 }
  | .syswr n a => encG 0x19 { sa := a, imm := n.zeroExtend 16 }
  | .windescWrite h a => encG 0x19 { sa := a, imm := sysImm 0x0C0 h.toNat }
  | .tapcfgWrite i a => encG 0x19 { sa := a, imm := sysImm 0x0E0 i.toNat }
  | .arrmapWrite i a => encG 0x19 { sa := a, imm := sysImm 0x0E8 i.toNat }
  | .cvmodeWrite a => encG 0x19 { sa := a, imm := 0x00B }
  | .fflagsWrite a => encG 0x19 { sa := a, imm := 0x00A }
  | .rfmtWrite i a => encG 0x19 { sa := a, imm := sysImm 0x100 i.toNat }
  | .ejdescWrite i a => encG 0x19 { sa := a, imm := sysImm 0x0F0 i.toNat }
  | .rtabWrite h a => encG 0x19 { sa := a, imm := sysImm 0x200 h.toNat }
  | .votelogClear a => encG 0x19 { sa := a, imm := 0x012 }
  | .ejflagsClear a => encG 0x19 { sa := a, imm := 0x014 }
  | .eret => some (0x1A, 0)
  | .waiti => some (0x1B, 0)
  | .add d a b => encS 0x20 d a b
  | .sub d a b => encS 0x21 d a b
  | .mul d a b => encS 0x23 d a b
  | .mulh d a b => encS 0x24 d a b
  | .mulhsu d a b => encS 0x25 d a b
  | .div d a b => encS 0x26 d a b
  | .divu d a b => encS 0x27 d a b
  | .rem d a b => encS 0x28 d a b
  | .remu d a b => encS 0x29 d a b
  | .and d a b => encS 0x2A d a b
  | .or d a b => encS 0x2B d a b
  | .xor d a b => encS 0x2C d a b
  | .andn d a b => encS 0x2D d a b
  | .shl d a b => encS 0x31 d a b
  | .shr d a b => encS 0x32 d a b
  | .sha d a b => encS 0x33 d a b
  | .rot d a b => encS 0x37 d a b
  | .min d a b => encS 0x38 d a b
  | .max d a b => encS 0x39 d a b
  | .minu d a b => encS 0x3A d a b
  | .maxu d a b => encS 0x3B d a b
  | .slt d a b => encS 0x3C d a b
  | .sltu d a b => encS 0x3D d a b
  | .seq d a b => encS 0x3E d a b
  | .clz d a => encG 0x40 { dst := d, sa := a }
  | .ctz d a => encG 0x41 { dst := d, sa := a }
  | .popc d a => encG 0x42 { dst := d, sa := a }
  | .addi d a imm => encI 0x22 { dst := d, sa := a, imm := imm }
  | .andi d a imm => encI 0x2E { dst := d, sa := a, imm := imm }
  | .ori d a imm => encI 0x2F { dst := d, sa := a, imm := imm }
  | .xori d a imm => encI 0x30 { dst := d, sa := a, imm := imm }
  | .shli d a n => encI 0x34 { dst := d, sa := a, imm := n.zeroExtend 32 }
  | .shri d a n => encI 0x35 { dst := d, sa := a, imm := n.zeroExtend 32 }
  | .shai d a n => encI 0x36 { dst := d, sa := a, imm := n.zeroExtend 32 }
  | .sel d a b c => encG 0x3F { dst := d, sa := a, sb := b, sc := c }
  | .li d imm => encW 0x43 { dst := d, imm := imm }
  | .lih d imm => encW 0x44 { dst := d, imm := imm.zeroExtend 42 }
  | .addx d a b s => encG 0x45 { dst := d, sa := a, sb := b, imm := s.zeroExtend 16 }
  | .extb s d a pos len => encI 0x46 { dst := d, sa := a, sub := (boolBit s).zeroExtend 10, imm := (len ++ pos).zeroExtend 32 }
  | .insb d a pos len => encI 0x47 { dst := d, sa := a, imm := (len ++ pos).zeroExtend 32 }
  | .kmovToK d a => encG 0x48 { dst := ofReg3 d, sa := a }
  | .kmovToG d a => encG 0x48 { dst := d, sa := ofReg3 a, sub := 1 }
  | .kop op d a b =>
    encG 0x49 { dst := ofReg3 d, sa := ofReg3 a, sb := if op = .not then 0 else ofReg3 b, sub := kopCode op }
  | .ld sz u t m => encM 0x50 { memFields m with t := t, sub := ((boolBit u) ++ sz).zeroExtend 8 }
  | .st sz t m => encM 0x51 { memFields m with t := t, sub := sz.zeroExtend 8 }
  | .vld f t m k => encM 0x52 { memFields m with t := t, k := k, sub := f.zeroExtend 8 }
  | .vst f t m k => encM 0x53 { memFields m with t := t, k := k, sub := f.zeroExtend 8 }
  | .vlds f t b o s k => encM 0x54 { t := t, base := b, idx := s, k := k, sub := f.zeroExtend 8, off := o }
  | .vgath f t b o vi k => encM 0x55 { t := t, base := b, idx := vi, k := k, sub := f.zeroExtend 8, off := o }
  | .vscat f t b o vi k => encM 0x56 { t := t, base := b, idx := vi, k := k, sub := f.zeroExtend 8, off := o }
  | .pcfg p b i o => encM 0x57 { t := ofReg3 p, base := b, idx := i, off := o }
  | .pclose p => encG 0x58 { sa := ofReg3 p }
  | .pstat d p => encG 0x59 { dst := d, sa := ofReg3 p }
  | .pseek p b => encG 0x5A { sa := ofReg3 p, sb := b }
  | .amo op u dw t b o i =>
    encM 0x5B { t := t, base := b, idx := i, sub := (boolBit u ++ boolBit dw ++ amoCode op).zeroExtend 8, off := o }
  | .fence => some (0x5C, 0)
  | .winqAddr d a => encG 0x5D { dst := d, sa := a }
  | .winqNum d w => encG 0x5D { dst := d, x4 := w, sub := 1 }
  | .lutld b i o => encM 0x5E { base := b, idx := i, off := o }
  | .vadd ty s f d a b k => encVArith 0x70 ty s f d a b k
  | .vsub ty s f d a b k => encVArith 0x71 ty s f d a b k
  | .vmul ty s f d a b k => encVArith 0x72 ty s f d a b k
  | .vfma ty s f d a b c k => encVFma 0x73 ty s f d a b c k
  | .vfms ty s f d a b c k => encVFma 0x74 ty s f d a b c k
  | .vmin ty f d a b k => encVArith 0x75 ty false f d a b k
  | .vmax ty f d a b k => encVArith 0x76 ty false f d a b k
  | .vabs ty s f d a k => encVUnary 0x77 ty s f d a k
  | .vneg ty s f d a k => encVUnary 0x78 ty s f d a k
  | .vand f d a b k => encVArith 0x79 .i false f d a b k
  | .vor f d a b k => encVArith 0x7A .i false f d a b k
  | .vxor f d a b k => encVArith 0x7B .i false f d a b k
  | .vshl f d a b k => encVArith 0x7C .i false f d a b k
  | .vshr f d a b k => encVArith 0x7D .i false f d a b k
  | .vsha f d a b k => encVArith 0x7E .i false f d a b k
  | .vcmp c ty f kd a b k =>
    encV 0x7F { srcFields b with kd := kd, va := a, k := k, fold := f, sub := vSub (vcondCode c) false (srcBit b) ty }
  | .vsel f d a b k => encV 0x80 { vd := d, va := a, vb := b, k := k, fold := f }
  | .vcvt t s f d a k => encV 0x81 { vd := d, va := a, k := k, fold := f, sub := cvtCode t ++ cvtCode s }
  | .vrcp f d a k => encVOne 0x82 f d a k
  | .vrsq f d a k => encVOne 0x83 f d a k
  | .vsqrt f d a k => encVOne 0x84 f d a k
  | .vexp2 f d a k => encVOne 0x85 f d a k
  | .vlog2 f d a k => encVOne 0x86 f d a k
  | .vtanh f d a k => encVOne 0x87 f d a k
  | .vsigm f d a k => encVOne 0x88 f d a k
  | .vredadd ty s f d a k => encVUnary 0x89 ty s f d a k
  | .vredmax ty f d a k => encVUnary 0x8A ty false f d a k
  | .vredmin ty f d a k => encVUnary 0x8B ty false f d a k
  | .vscan op ty s f d a k => encV 0x8C { vd := d, va := a, k := k, fold := f, sub := vSub (scanCode op) s 0 ty }
  | .vargmax ty f d a k => encVUnary 0x98 ty false f d a k
  | .vperm f d a b k => encV 0x8D { vd := d, va := a, vb := b, k := k, fold := f }
  | .vbcast f d a e k => encV 0x8E { vd := d, va := a, k := k, fold := f, imm := e.zeroExtend 13 }
  | .vsplatG f d g k => encV 0x8F { vd := d, va := g, k := k, fold := f }
  | .vsplatImm f d imm k => encV 0x8F { vd := d, k := k, fold := f, sub := 1, imm := imm }
  | .viota f d imm k => encV 0x90 { vd := d, k := k, fold := f, imm := imm }
  | .vmov f d a k => encV 0x91 { vd := d, va := a, k := k, fold := f }
  | .vmovG d a e => encV 0x91 { vd := d, va := a, sub := 1, imm := e.zeroExtend 13 }
  | .vmovE d a e => encV 0x91 { vd := d, va := a, sub := 2, imm := e.zeroExtend 13 }
  | .vcomp f d kd a k => encV 0x92 { vd := d, va := a, k := k, fold := f, kd := kd }
  | .vlut f d a k => encVOne 0x93 f d a k
  | .vhash f d a b s k => encV 0x94 { vd := d, va := a, vb := b, k := k, fold := f, imm := s }
  | .vpda d a b w => encV 0x95 { vd := d, va := a, vb := b, fold := 3, imm := w.zeroExtend 13 }
  | .vtmask f kd a b w => encV 0x96 { va := a, vb := b, fold := f, kd := kd, imm := w.zeroExtend 13 }
  | .vsample f d a b c n k => encV 0x97 { vd := d, va := a, vb := b, vc := c, k := k, fold := f, imm := n }
  | .mzero z => encX 0xB0 { z := boolBit z }
  | .mmul kg z ch pa n => encX 0xB1 { z := boolBit z, ch := ch, pa := pa, gm1 := n, kg := kgCode kg }
  | .mmulw kg z ch pa pb n => encX 0xB2 { z := boolBit z, ch := ch, pa := pa, pb := pb, gm1 := n, kg := kgCode kg }
  | .marm ch => encX 0xB3 { ch := ch }
  | .mdisarm ch => encX 0xB4 { ch := ch }
  | .mrel ch => encX 0xB5 { ch := ch }
  | .mdrain z o => encX 0xB6 { z := boolBit z, vd := o }
  | .mdrainV z d => encX 0xB6 { z := boolBit z, vd := d, sub := 1 }
  | .mdcfgSet c => encX 0xB7 { cfg := c }
  | .mdcfgTok c => encX 0xB7 { cfg := c, sub := 1 }
  | .mdcfgClr => encX 0xB7 { sub := 2 }
  | .msums acc d => encX 0xB8 { vd := d, sub := (boolBit acc).zeroExtend 8 }
  | .mldz z s => encX 0xB9 { z := boolBit z, vd := s }
  | .mstz d z => encX 0xBA { z := boolBit z, vd := d }
  | .finj a t g => encG 0xC8 { sa := a, sb := t, imm := g.zeroExtend 16 }
  | .fpref a l => encG 0xC9 { sa := a, sb := l }
  | .fupd op fmt w s c n => encG 0xCA { sa := w, sb := s, sc := c, sub := fupdCode op, x4 := ffmtCode fmt, imm := n }
  | .fred op fmt d a n => encG 0xCB { dst := d, sa := a, sub := fredCode op, x4 := ffmtCode fmt, imm := n }
  | .fgrp a g => encG 0xCC { sa := a, imm := g.zeroExtend 16 }
  | .tsend a imm => encG 0xD0 { sa := a, imm := imm }
  | .tsendP p => encG 0xD0 { sa := ofReg3 p, sub := 1 }
  | .tsendV a q => encG 0xD0 { sa := a, sub := 2, imm := q.zeroExtend 16 }
  | .tredV i a => encG 0xD1 { sa := a, sub := (boolBit i).zeroExtend 8 }
  | .tredMem i a imm => encG 0xD1 { sa := a, sub := ((1 : BitVec 1) ++ boolBit i).zeroExtend 8, imm := imm }
  | .tej j a => encG 0xD2 { sa := a, x4 := j }
  | .tdsend d a b c n => encG 0xD3 { dst := d, sa := a, sb := b, sc := c, imm := n.zeroExtend 16 }
  | .tdrecv d a => encG 0xD4 { dst := d, sa := a }
  | .tdrecvNb d a => encG 0xD4 { dst := d, sa := a, sub := 1 }
  | .trtab e a b => encG 0xD5 { sa := a, sb := b, imm := e.zeroExtend 16 }
  | .timeT d => encG 0xD6 { dst := d }
  | .timeV d => encG 0xD6 { dst := d, sub := 1 }
  | .timeOff d => encG 0xD6 { dst := d, sub := 2 }
  | .drift => some (0xD7, 0)
  | .holdrq l => encG 0xD8 { imm := l }
  | .berthW w b => encG 0xD9 { sb := b, x4 := w }
  | .berthG a b => encG 0xD9 { sa := a, sb := b, sub := 1 }
  | .bviewW w b => encG 0xDA { sb := b, x4 := w }
  | .bviewG a b => encG 0xDA { sa := a, sb := b, sub := 1 }
  | .btakeW w => encG 0xDB { x4 := w }
  | .btakeG a => encG 0xDB { sa := a, sub := 1 }
  | .btakeViewW w => encG 0xDB { x4 := w, sub := 2 }
  | .btakeViewG a => encG 0xDB { sa := a, sub := 3 }
  | .tkt d n => encG 0xDC { dst := d, imm := n.zeroExtend 16 }
  | .tserve a n => encG 0xDD { sa := a, imm := n.zeroExtend 16 }
  | .tadv n => encG 0xDE { imm := n.zeroExtend 16 }
  | .rld sz u d a imm => encG 0xDF { dst := d, sa := a, sub := (boolBit u ++ sz).zeroExtend 8, imm := imm }
  | .rst sz a b imm => encG 0xE0 { sa := a, sb := b, sub := sz.zeroExtend 8, imm := imm }
  | .ramo op u dw d a b c imm =>
    encG 0xE1 { dst := d, sa := a, sb := b, sc := c, sub := (boolBit u ++ boolBit dw ++ amoCode op).zeroExtend 8, imm := imm }
  | .rfence => some (0xE2, 0)
  | _ => none

/-- The word of an instruction with a link bit and a defer count (R282). -/
def encode (link : Bool) (defer : BitVec 3) (i : Instr) : Option Word :=
  match encodeOperands i with
  | some (op, o) => some (boolBit link ++ defer ++ op ++ o)
  | none => none

/-- The instruction is a word a core may hold (and not a host command or an event). -/
def Instr.isWord (i : Instr) : Bool := (encodeOperands i).isSome

end Sys2Proof
end

