-- ==== Sys2Proof/Machine/State/CoreState.lean ====
section
/-! DEFINITION. The state of one core: registers, ports, system registers, issue and trap state, and what is on its way through
its columns (spec 08 R185 to R205, 10 R237 to R239, 12 R292 to R294, 13 R308 to R339, 16 R395, R409 to R413). -/

namespace Sys2Proof.Machine

/-- The function columns (R185, R291). -/
inductive Col where | c | s | l | v | m | f | n
  deriving DecidableEq, Repr

/-- A vector register: 64 elements of 32 bits (R6). -/
abbrev VReg := Vector (BitVec 32) 64
/-- An accumulator set: element (i, j) at 16 i + j (R6, R208). -/
abbrev ZSet := Vector (BitVec 32) 256

/-- Whether a core issues (R113, R240, R311). -/
inductive Run where
  /-- no code of a crew runs on it -/
  | idle
  | running
  /-- executed HALT -/
  | halted
  /-- stopped by a crew fault (R240) or a stand of the crew's end -/
  | stopped
  deriving DecidableEq, Repr

/-- A region a berth is kept for: a window of a tile, or a page by a global address in it (R407). -/
inductive Region where
  | window (tile : Nat) (w : BitVec 4)
  | page (gaddr : Word)
  deriving DecidableEq, Repr

/-- A dynamic message a waiting release still has to send (R219, R227). -/
structure Release where
  region : Region
  taker  : Word
  view   : Bool
  /-- its place in the order of issue: what the core issued before it comes first (R227) -/
  seq    : Nat := 0
  deriving DecidableEq, Repr

/-- Why a core issues no bundle though it runs (R189, R313, R314, R320, R336, R311, R401, R409, R412, R220, R227, R250). -/
inductive Wait where
  /-- WAITV: the next bundle issues at u + 1 -/
  | waitv (u : BitVec 48)
  /-- FENCE: steps of each port still to drain, and cycles until what has drained is visible -/
  | fence (steps : List (PReg × Nat)) (tail : Nat)
  | phase
  | waiti
  | tdrecv (d a : Reg)
  | tserve (n : BitVec 6) (k : BitVec 32)
  | btake (region : Region) (view : Bool) (since : Word)
  /-- RFENCE: its place in the order of issue -/
  | rfence (seq : Nat)
  | release (r : Release)
  /-- HALT of a free core with remote requests outstanding -/
  | halt
  /-- the thread is away on a context-ferry visit -/
  | ferry
  deriving DecidableEq, Repr

/-- What a result writes, and where (R188, R292). -/
inductive Wr where
  | g (r : Reg) (v : Word)
  /-- a remote result, which ends the wait for its register (R395) -/
  | remote (r : Reg) (v : Word) (tag : BitVec 16)
  /-- DRAINST as SYSRD read it: BUSY is set for a drain that enters in the same cycle (R193) -/
  | drainst (r : Reg) (v : Word)
  | k (r : KReg) (mask v : Word)
  | v (r : Reg) (mask : Word) (x : VReg)
  /-- element-wise wrapping addition, MSUMS.acc (R377) -/
  | vAcc (r : Reg) (mask : Word) (x : VReg)
  | flags (f : BitVec 7)
  | lt (t : Vector (BitVec 8) 16)
  /-- a port's end-of-dimension flags become visible (R202) -/
  | portFlags (p : PReg) (f : BitVec 10)
  /-- a system register of R190 -/
  | sys (n : BitVec 12) (v : Word)
  /-- a port opens with its configuration (R331) -/
  | portOpen (p : PReg)
  /-- the port accepts no further access (R334) -/
  | portShut (p : PReg)
  deriving DecidableEq, Repr

/-- A result on its way: written when `due` counts to zero; of two of one cycle the later-issued stands (R188). -/
structure PendWr where
  due : Nat
  seq : Nat
  wr  : Wr
  deriving DecidableEq, Repr

/-- An operation issued and not yet entered (R186, R293). `addr` is the byte address of its word; `block` is the delivery that
fired an armed word (R142). -/
structure Op where
  due   : Nat
  seq   : Nat
  addr  : Nat
  instr : Instr
  block : Option Nat := none
  /-- of a MARM: the armed word, its D and its byte address (R378) -/
  arm : Option (Instr × Nat × Nat) := none
  deriving DecidableEq, Repr

/-- Cycles of a column that belong to an operation: from `lo` up to but not including `hi`, counted from now (R187). -/
structure Hold where
  col : Col
  lo  : Nat
  hi  : Nat
  seq : Nat
  /-- an MDRAIN: the further MDRAINs it keeps out for 16 cycles (R212) -/
  drain : Bool
  deriving DecidableEq, Repr

/-- A dimension of a port's walk (R201). -/
structure Dim where
  stride : BitVec 32
  cntM1  : BitVec 16
  deriving DecidableEq, Repr

/-- A fetched read step: its bytes, or the fault found at its fetch (R203). A step of 128 or 256 B also has its bytes in the layout in which
the array takes them, fetched with them line by line (R373). -/
structure Step where
  addr  : Int
  data  : List Byte
  fault : Option (BitVec 8 × Word)
  wide  : List Byte := []
  wideFault : Option (BitVec 8 × Word) := none
  deriving DecidableEq, Repr

/-- A buffered write step: the lines not yet drained, each with its address and its bytes: address, value, and the bits of the byte
that are written (R203, R328, R333). -/
structure WStep where
  lines : List (Nat × List (Nat × Byte × Byte))
  deriving DecidableEq, Repr

/-- A stream port (R201 to R204, R331 to R334, R373). -/
structure Port where
  opened  : Bool := false
  /-- a write port (DIR) -/
  write   : Bool := false
  win     : BitVec 4 := 0
  gran    : Nat := 0
  base    : BitVec 19 := 0
  dims    : List Dim := []
  /-- number of the next step the core takes, modulo the product of the counts -/
  pos     : Nat := 0
  /-- number of the next step the port fetches (read) -/
  fpos    : Nat := 0
  /-- steps since PCFG, saturating -/
  steps   : BitVec 32 := 0
  /-- flags of the most recent step, as visible now -/
  flags   : BitVec 10 := 0
  /-- whole steps fetched and not yet taken, oldest first, at most 4 -/
  fetched : List Step := []
  /-- lines already fetched of the oldest unfetched step, each as it lies and in the array's layout -/
  partLines : List (List Byte × List Byte) := []
  /-- a fault found in them -/
  partFault : Option (BitVec 8 × Word) := none
  partWide  : Option (BitVec 8 × Word) := none
  /-- no fetch in this cycle (PSEEK fetches from E + 1, R334) -/
  pause   : Bool := false
  /-- steps written and not yet drained, oldest first, at most 4 while open -/
  wbuf    : List WStep := []
  lo      : Option Nat := none
  hi      : Nat := 0
  /-- cycles the array still owns the port (R373) -/
  array   : Nat := 0
  deriving DecidableEq, Repr

/-- A remote request not yet answered (R226, R395, R409, R410). -/
structure Outstanding where
  tag   : BitVec 16
  gaddr : Word
  kind  : ReqKind
  dst   : Option Reg
  sent  : Word
  /-- its place in the order of issue (R188) -/
  seq   : Nat := 0
  again : Bool := false  -- its offer came into force while the keeper was being asked (R220)
  deriving DecidableEq, Repr

/-- TRAPCAUSE (R238). -/
structure TrapCause where
  ferry : Bool := false
  ds    : BitVec 2 := 0
  pie   : Bool := false
  pkeep : Bool := false
  cause : BitVec 8 := 0
  deriving DecidableEq, Repr

/-- A taken branch whose delay bundles are not all issued (R308, R237). -/
structure Pending where
  target : BitVec 16
  due    : Nat
  deriving DecidableEq, Repr

/-- The header of an automaton table (R364). -/
structure TabHdr where
  nstate : Nat
  nsym   : Nat
  nclass : Nat
  ntok   : Nat
  cmap   : Nat
  tran   : Nat
  mask   : Nat
  deriving DecidableEq, Repr

/-- What a VPDA or VTMASK still reads (R366, R367): a class-map entry, then a transition; or a mask word at an offset. -/
inductive AutoRead where
  | cls
  | tran (cls : Nat)
  | mask (off : Nat)
  deriving DecidableEq, Repr

/-- A VPDA or VTMASK that reads its table after its entry: cycles until the next read and until the write. -/
structure Auto where
  seq  : Nat
  due  : Nat
  left : Nat
  read : AutoRead
  hdr  : TabHdr
  win  : BitVec 4
  a    : VReg
  t    : BitVec 32
  /-- VPDA: destination; VTMASK: predicate and lanes -/
  vd   : Reg
  kd   : KReg
  lanes : Nat
  deriving DecidableEq, Repr

/-- A core's thread away at a feeder core (R250, R251). -/
structure Visit where
  feeder : Nat
  fcore  : Option Nat
  since  : Word
  /-- on its way home, once every remote store is acknowledged -/
  leaving : Bool := false
  deriving DecidableEq, Repr

/-- One core. -/
structure Core where
  g  : Vector Word 32 := Vector.replicate 32 0
  k  : Vector Word 8 := Vector.replicate 8 0
  lt : Vector (BitVec 8) 16 := Vector.replicate 16 0
  p  : Vector Port 8 := Vector.replicate 8 {}
  /-- word address of the next bundle to issue (R294); 65,536 is the end of the store -/
  pc : BitVec 17 := 0
  branch : Option Pending := none
  /-- delay bundles still due of the last transfer word, taken or not (R305) -/
  delayDue : Nat := 0
  /-- while a bundle's words execute: its address, and the branch pending when it issued -/
  cur : BitVec 17 := 0
  curBranch : Option Pending := none
  issuing : Bool := false
  domain : Word := 0
  keeper : Bool := false
  ie : Bool := false
  trapPC : BitVec 16 := 0
  trapCause : TrapCause := {}
  faultAddr : Word := 0
  shadow : Option Pending := none
  fflags : BitVec 7 := 0
  cvmode : BitVec 5 := 0x08
  srkey : Word := 0
  timed : Bool := false
  run : Run := .idle
  start : Option (BitVec 16) := none
  keeperEntry : Option (BitVec 16) := none
  /-- what must end before the next bundle issues; true: began in this cycle, whose own bundle still issues -/
  waits : List (Wait × Bool) := []
  /-- a free core's SLWAIT that stands (R304), and whether it has proceeded (R317) -/
  slwait : Option (BitVec 4 × BitVec 15) := none
  granted : Bool := false
  /-- cycles the whole core still stands (R189) -/
  stand : Nat := 0
  /-- the stand is for a bank that a drain writes: the drain goes on (R212) -/
  byDrain : Bool := false
  /-- this cycle already began before the stand: nothing counts down again -/
  mid : Bool := false
  /-- cycles until the next bundle may issue (trap entry, R237) -/
  hush : Nat := 0
  /-- a trap was entered: no bundle issues before what its units still have under way is written (R237) -/
  settling : Bool := false
  /-- words issued, the model's own order of issue -/
  issued : Nat := 0
  ops : List Op := []
  writes : List PendWr := []
  autos : List Auto := []
  holds : List Hold := []
  reqs : List Outstanding := []
  /-- registers waiting for a remote result, with the tag they wait for (R395) -/
  pending : List (Reg × BitVec 16) := []
  /-- faults and answers that trap at a later bundle (R228, R343, R371): cause, address; true: found in this cycle, whose own bundle
  still issues -/
  traps : List (BitVec 8 × Word × Bool) := []
  nextTag : BitVec 16 := 0
  tickets : List (BitVec 6 × BitVec 32) := []
  /-- PHASE at level 1 executed by the partner since this core's last one (R314) -/
  partnerPhase : Bool := false
  visit : Option Visit := none
  /-- a trap arose at the feeder, and the bundle issues again at home (R251) -/
  ferryTrap : Bool := false
  /-- of a feeder core: the visiting thread it runs -/
  guest : Option CoreRef := none
  /-- banks its explicit accesses, drain and ports have used in this cycle (R203) -/
  banks : List Nat := []
  /-- the port a failing PCFG leaves closed (R331) -/
  shut : Option PReg := none
  /-- trapped in this cycle: what the bundle's roll-back raises again -/
  trapped : Option (BitVec 8 × Word) := none
  deriving DecidableEq, Repr

end Sys2Proof.Machine
end

