-- ==== Sys2Proof/Machine/State/TileState.lean ====
section
/-! DEFINITION. The state of one tile beside its cores: windows and berths, sluices, chamber and weir, matrix array, drain,
ejection, router, route table and queues (spec 06 R137 to R151, 07 R156 to R183, 08 R190 to R214, 09 R217 to R222, 15, 16). -/

namespace Sys2Proof.Machine

/-- A remote holder's identity, kept by the tile's remote interface or the home feeder's berth table (R217). -/
structure Holder where
  modl : BitVec 13
  /-- KIND of R406: 0 stager, 1 worker, 5 feeder core, 6 host interface -/
  kind : BitVec 3
  num  : BitVec 16
  core : BitVec 2
  asid : BitVec 16
  deriving DecidableEq, Repr

/-- A view offered and not yet taken (R221): the reader's taker word, and cycles until the offer is in force. -/
structure View where
  taker : Word
  due   : Nat
  /-- for a reader elsewhere: the offer has left, and it has arrived -/
  sent  : Bool := false
  here  : Bool := false
  /-- who made it -/
  giver : Option Holder := none
  deriving DecidableEq, Repr

/-- A berth in passage (R219): the named taker, and cycles until the offer is in force (for a remote taker, once forwarded). -/
structure Passage where
  taker : Word
  due   : Nat
  /-- who handed it over -/
  giver : Option Holder := none
  /-- for a taker elsewhere: the offer has left, and it has arrived -/
  sent  : Bool := false
  here  : Bool := false
  deriving DecidableEq, Repr

/-- What the keeper of a window's berth holds beside HOLDER (R217, R219, R221, R222). -/
structure Berth where
  remote  : Option Holder := none
  passage : Option Passage := none
  views   : List View := []
  /-- the core that handed the window to an engine (R222); true: the worker -/
  giver   : Option Bool := none
  deriving DecidableEq, Repr

/-- A local store not yet visible to loads (R223): bytes by tile-store address; `worker` names the core that made it, none an
engine or a remote interface. -/
structure PStore where
  due   : Nat
  owner : Option Bool
  bytes : List (Nat × Byte)
  /-- granules that arrived uncorrectable (R147) -/
  bad   : List Nat := []
  /-- cycles until the tile's other core sees it, which run while its owner stands -/
  far   : Nat := 2
  deriving DecidableEq, Repr

/-- A store into a granule within the last eight cycles, for the fetch path (R296, R362): the granule's old bytes. -/
structure CodeStore where
  age : Nat
  addr : Nat
  old : List Byte
  deriving DecidableEq, Repr

/-- A block delivered or being delivered (R141 to R147). -/
structure Block where
  id     : Nat
  slot   : BitVec 4
  /-- weir place, or none: the chamber slot -/
  place  : Option Nat
  group  : BitVec 8
  feeder : Nat
  t      : BitVec 48
  /-- index of the arrival map that receives it -/
  map    : BitVec 3
  fmt    : BitVec 4
  bsz    : BitVec 3
  /-- width W of the map -/
  width  : Nat
  /-- beats of the map, and counts since the start -/
  beats  : Nat
  age    : Nat
  full   : Bool
  /-- lost by R145: nothing is written -/
  lost   : Bool
  /-- payloads of the beats: per beat, 8 bytes a wavelength of the map -/
  data   : List (List Byte)
  /-- wavelengths the beats of `data` lie on, one 8-byte payload each, rising -/
  lams   : BitVec 16
  /-- errors found by the taps: beat, wavelength, kind (R147) -/
  errs   : List (Nat × Nat × StoreErr)
  deriving DecidableEq, Repr

/-- An armed slot (R142, R378): the armed word, its D, its place in the order of issue, and the delivery that fires it once that one has
started. -/
structure Arm where
  slot  : BitVec 4
  instr : Instr
  d     : Nat
  seq   : Nat
  addr  : Nat
  block : Option Nat
  deriving DecidableEq, Repr

/-- Where a block's bytes lie: key of its first byte; of a weir place, its tile-store address; its slot (R374). -/
structure BlockLoc where
  key  : Nat
  weir : Option Nat
  slot : BitVec 4
  deriving DecidableEq, Repr

/-- A matrix product in the array (R208, R372 to R375). -/
structure MatOp where
  seq  : Nat
  z    : Bool
  kg   : KGroup
  groups : Nat
  lat  : Nat
  age  : Nat
  pa   : PReg
  pb   : Option PReg
  block : Option BlockLoc
  fmtA : BitVec 4
  fmtB : BitVec 4
  isInt : Bool
  addr : Nat
  /-- slices taken in so far, oldest first: element codes of 16 K-groups -/
  aSl  : List (List Nat)
  bSl  : List (List Nat)
  /-- sums of A rows and B columns so far, LUT4 decoded as it came in (R377) -/
  rows : List Int := []
  cols : List Int := []
  /-- an attached sum unit: accumulate, destination (R377) -/
  msums : Option (Bool × Reg)
  deriving DecidableEq, Repr

/-- Where a drain writes (R380). -/
inductive DrainDest where
  /-- window, first byte address, element size in half bytes -/
  | window (w : BitVec 4) (addr : Nat) (half : Nat)
  | vec (vd : Reg)
  deriving DecidableEq, Repr

/-- A drain in progress (R210 to R212). -/
structure Drain where
  seq   : Nat
  age   : Nat
  z     : Bool
  isInt : Bool
  cfg   : Word
  dest  : DrainDest
  fmt   : BitVec 4
  /-- write count and key the stochastic draws use (R211) -/
  wcount : BitVec 32
  srkw   : BitVec 32
  /-- rows read so far -/
  rows  : List (List (BitVec 32))
  /-- output lines converted and not yet written: address, bytes, count from which they may be written -/
  lines : List (Nat × List Byte × Nat)
  /-- every address the drain writes (R212's WHEEL rule) -/
  span  : List Nat
  deriving DecidableEq, Repr

/-- A static flit under way to a router input (R161): input 0 N, 1 E, 2 S, 3 W, 4 L; counts until it is there. -/
structure LinkFlit where
  inp  : BitVec 3
  due  : Nat
  flit : Flit
  deriving DecidableEq, Repr

/-- What a core's send or contribution presents to the local injection interface (R396 to R398). -/
inductive PresentKind where
  | flit (f : Flit)
  /-- a further flit of a token that has begun -/
  | rest (f : Flit)
  /-- 64 elements waiting for the row in force at the presentation (R398) -/
  | token (isInt : Bool) (elems : List (BitVec 32))
  deriving DecidableEq, Repr

structure Present where
  due  : Nat
  core : CoreRef
  kind : PresentKind
  deriving DecidableEq, Repr

/-- A reduction under way in a router (R159, R160). -/
structure Reduction where
  op     : BitVec 3
  mask   : BitVec 5
  /-- outputs that take source 6: bits 0 N, 1 E, 2 S, 3 W, 4 L -/
  outs   : BitVec 5
  /-- result cycles still to come -/
  left   : Nat
  /-- the inputs' flits so far, by port, and the result of the last of them -/
  got    : List (List FlitBits)
  result : Flit
  ejd    : BitVec 4
  rfx    : BitVec 3
  /-- T -/
  len    : Nat
  deriving DecidableEq, Repr

/-- A token being ejected (R163): its descriptor's contents when it began, flits taken, counts still to come; `fromRed` tells a
result of R160 from a token through SRCL 1 to 4. -/
structure Ejecting where
  ejd  : BitVec 4
  rfx  : BitVec 3
  desc : Word
  flits : List FlitBits
  left : Nat
  fromRed : Bool
  /-- the result of an and or an or, whose trailers are no flags (R169) -/
  raw  : Bool
  /-- the descriptor has been written since the token began (R162) -/
  old  : Bool
  deriving DecidableEq, Repr

/-- A flit of a dynamic packet in a router's input buffer (R175): input port, channel by the packet's CH, cycles until it is there;
`body` is the payload flit, which follows its head. -/
structure DynBuf where
  inp  : BitVec 3
  due  : Nat
  body : Bool
  pkt  : Packet
  deriving DecidableEq, Repr

/-- An output held for the payload flit of the packet that won it (R175): the input and channel it comes by, the packet as its head left,
and when. -/
structure OutHold where
  out : BitVec 3
  inp : BitVec 3
  ch  : Bool
  pkt : Packet
  since : Word
  deriving DecidableEq, Repr

/-- An entry of the spill ring (R183, R245). -/
structure Spill where
  port  : BitVec 3
  stage : BitVec 2
  dcnt  : BitVec 16
  flit  : Flit
  /-- reduction state instead of a flit -/
  red   : Option Reduction
  deriving DecidableEq, Repr

/-- A write of a descriptor-like register that takes effect later: cycles to go (R139, R162, R182, R195). -/
structure LateReg where
  due : Nat
  /-- register number of R190 -/
  num : BitVec 12
  val : Word
  /-- written by a free core: its cycles count in a hold too -/
  free : Bool
  deriving DecidableEq, Repr

/-- An update of a sluice in the present cycle (R206): amount, and who posted it (none: an arrival). -/
structure SlUpd where
  sl  : BitVec 4
  amt : Int
  by_ : Option Nat
  deriving DecidableEq, Repr

/-- An MZERO or MLDZ still to write its set: cycles until the end of which it writes (R376). -/
structure ZWrite where
  due : Nat
  z   : Bool
  val : ZSet
  deriving DecidableEq, Repr

/-- One tile. -/
structure Tile where
  stager : Core := {}
  worker : Core := {}
  v  : Vector VReg 32 := Vector.replicate 32 (Vector.replicate 64 0)
  z0 : ZSet := Vector.replicate 256 0
  z1 : ZSet := Vector.replicate 256 0
  /-- kinds of z0 and z1: true INT32 (R208) -/
  kz0 : Bool := false
  kz1 : Bool := false
  zwrites : List ZWrite := []
  /-- CREWID (R191); the slot that owns the tile, while a crew does -/
  crew : BitVec 16 := 0
  asid : BitVec 16 := 0
  slot : Option Nat := none
  windesc : Vector (BitVec 128) 16 := Vector.replicate 16 0
  berths  : Vector Berth 16 := Vector.replicate 16 {}
  /-- holders from the next cycle on (R219, R220) -/
  holderNew : List (BitVec 4 × BitVec 5) := []
  /-- descriptor writes that have not taken effect -/
  late    : List LateReg := []
  dirtymask : BitVec 16 := 0
  dirtylog  : Vector Word 64 := Vector.replicate 64 0
  stores : List PStore := []
  codeStores : List CodeStore := []
  sluice : Vector (BitVec 16) 16 := Vector.replicate 16 0
  slUpd  : List SlUpd := []
  /-- SLSETs of the cycle: sluice, value, core number (0 worker) -/
  slSet  : List (BitVec 4 × BitVec 16 × Nat) := []
  /-- amounts the worker's SLWAITs took in this cycle (R318) -/
  slTaken : List (BitVec 4 × Nat) := []
  -- chamber, taps, weir
  tapcfg : Vector Word 8 := Vector.replicate 8 0
  arrmap : Vector Word 8 := Vector.replicate 8 0
  weirWin : BitVec 4 := 0
  weirEn  : Bool := false
  nplace  : Nat := 0
  blocks : List Block := []
  arms   : List Arm := []
  /-- chamber slots and weir places released in this cycle: still occupied for deliveries that start in it (R144) -/
  released : List (BitVec 4 × Option Nat) := []
  /-- granules landed in this cycle (0) and the one before (1): key and old bytes (R374) -/
  landed : List (Nat × Nat × List Byte) := []
  -- array and drain
  matOps : List MatOp := []
  /-- an MSUMS that waits for its product (R377) -/
  msums  : Option (Bool × Reg) := none
  dcfg   : Vector Word 4 := Vector.replicate 4 0
  cur    : BitVec 2 := 0
  tokens : List (BitVec 2) := []
  /-- tokens pushed in this cycle wait for drains of the next (R381) -/
  newTokens : List (BitVec 2) := []
  setCur : Option (BitVec 2) := none
  clrTokens : Bool := false
  drains : List Drain := []
  -- ejection and reduction formats
  ejdesc  : Vector Word 16 := Vector.replicate 16 0
  ejflags : BitVec 32 := 0
  ejecting : List Ejecting := []
  rfmt    : Vector Word 8 := Vector.replicate 8 0
  votelog : Word := 0
  latlast : Word := 0
  /-- health heard in the greeting, by 4 port + wire: wires 0 to 2 of N and S lead to columns c - 1 to c + 1 (R16, R180) -/
  heard  : List (Nat × BitVec 3) := []
  -- router
  phase  : Vector (List (BitVec 40)) 4 := Vector.replicate 4 []
  links  : List LinkFlit := []
  presents : List Present := []
  red    : Option Reduction := none
  dyn    : List DynBuf := []
  outHolds : List OutHold := []
  /-- per output, the input served last (R175) -/
  rotor  : Vector (BitVec 3) 5 := Vector.replicate 5 4
  /-- inputs and channels that signalled OFF at the end of the last cycle -/
  off    : List (BitVec 3 × Bool) := []
  /-- route-table entries written since boot firmware filled the table; none: as it left them (R176) -/
  rtab   : Vector (Option (BitVec 128)) 256 := Vector.replicate 256 none
  /-- packets that wait at the injection interface, oldest first; messages of TDSEND among them are the send queue (R178, R400) -/
  outQ   : List Packet := []
  /-- answers of the router itself, which leave without the tile's core rail (R177) -/
  nackQ  : List Packet := []
  recvQ  : List Packet := []
  spill  : List Spill := []
  timeSkew : Word := 0
  vcycSkew : BitVec 48 := 0
  nextBlock : Nat := 0
  /-- corrected errors of beats still to land: counts until then, and the address logged (R147) -/
  tapErrs : List (Nat × Word) := []
  deriving DecidableEq, Repr

end Sys2Proof.Machine
end

