-- ==== Sys2Proof/Machine/State/FeederState.lean ====
section
/-! DEFINITION. The state of one feeder: group table, injection, replay and update areas, its four cores, sluices, berth table
and queues (spec 06 R128 to R136, 09 R217, 15 R383 to R392, R436, 16 R400, R401). -/

namespace Sys2Proof.Machine

/-- A block queued by FINJ (R386). -/
structure Inject where
  id    : Nat
  group : BitVec 8
  gaddr : Word
  t     : BitVec 48
  /-- slot of the crew whose count t belongs to -/
  slot  : Nat
  /-- the entry in force at the FINJ's E, for occupancy (R386) -/
  lam0  : Nat
  width : Nat
  wgmask : BitVec 16
  beats : Nat
  /-- the copy made at t - 4, with the entry in force for t -/
  copied : Option (List Byte)
  /-- its light failed while it was modulated (R148) -/
  dark  : Bool := false
  deriving DecidableEq, Repr

/-- A block kept in the replay area (R136). -/
structure Replay where
  group : BitVec 8
  t     : BitVec 48
  data  : List Byte
  deriving DecidableEq, Repr

/-- A write of GRPTAB in force for injections whose t is at least E + 2 (R391). -/
structure GroupWrite where
  group : BitVec 8
  from_ : BitVec 48
  entry : BitVec 2048
  deriving DecidableEq, Repr

/-- A weight read on its way to the cache slice (R74, R387): line number, count of issue, retries. -/
structure WeightRead where
  line   : Nat
  issued : BitVec 48
  slot   : Nat
  retried : Bool
  /-- the open hold announced for it (R74) -/
  held   : Bool
  deriving DecidableEq, Repr

/-- What an update pipeline does to a line (R388, R389). -/
inductive PipeKind where
  | upd (op : FupdOp) (s : Word) (c : BitVec 32) (vcyc : BitVec 32)
  | red (op : FredOp) (d : Reg) (lines : Nat)
  deriving DecidableEq, Repr

/-- An operation in an update pipeline (R390). -/
structure PipeOp where
  seq   : Nat
  kind  : PipeKind
  fmt   : FFmt
  gaddr : Word
  n     : Nat
  /-- elements already done -/
  done  : Nat
  /-- cycles until the next line -/
  due   : Nat
  mode  : BitVec 5
  key   : Word
  flags : BitVec 7
  /-- elements read by a reduction so far, as bits -/
  acc   : List (BitVec 32)
  asid  : BitVec 16
  deriving DecidableEq, Repr

/-- An entry of the berth table (R217): a page that does not rest, or has offers. -/
structure PageBerth where
  page   : Nat
  holder : Option Holder
  passage : Option Passage
  views  : List View
  /-- who handed the page to the host interface (R408) -/
  giver  : Option Holder := none
  deriving DecidableEq, Repr

/-- A write of a cache line still to become visible (R390): the core whose pipeline made it, physical addresses and bytes. -/
structure LineWrite where
  due   : Nat
  pipe  : Fin 4
  bytes : List (Nat × Byte)
  deriving DecidableEq, Repr

structure Feeder where
  cores : Vector Core 4 := Vector.replicate 4 {}
  /-- WINDESC of each core's core store (R383) -/
  windesc : Vector (Vector (BitVec 128) 16) 4 := Vector.replicate 4 (Vector.replicate 16 0)
  dirtymask : Vector (BitVec 16) 4 := Vector.replicate 4 0
  dirtylog  : Vector (Vector Word 64) 4 := Vector.replicate 4 (Vector.replicate 64 0)
  stores : List (Nat × PStore) := []
  codeStores : List (Nat × CodeStore) := []
  late   : List (Nat × LateReg) := []
  crew : BitVec 16 := 0
  asid : BitVec 16 := 0
  slot : Option Nat := none
  /-- GRPTAB entries that are not zero, by number -/
  grptab : List (Nat × BitVec 2048) := []
  grpNew : List GroupWrite := []
  deal   : List (Nat × Nat) := []
  queue  : List Inject := []
  flying : List Inject := []
  replay : List Replay := []
  /-- lines of 128 B present in the cache slice, by line number of the weight store -/
  present : List Nat := []
  reads  : List WeightRead := []
  pipes  : Vector (List PipeOp) 4 := Vector.replicate 4 []
  lineWrites : List LineWrite := []
  sluice : Vector (BitVec 16) 16 := Vector.replicate 16 0
  slUpd  : List SlUpd := []
  slSet  : List (BitVec 4 × BitVec 16 × Nat) := []
  slTaken : List (BitVec 4 × Nat) := []
  rtab   : Vector (Option (BitVec 128)) 256 := Vector.replicate 256 none
  outQ   : List Packet := []
  recvQ  : List Packet := []
  berths : List PageBerth := []
  presents : List Present := []
  timeSkew : Word := 0
  vcycSkew : BitVec 48 := 0
  nextId : Nat := 0
  deriving DecidableEq, Repr

end Sys2Proof.Machine
end

