-- ==== Sys2Proof/Machine/State/CrewState.lean ====
section
/-! DEFINITION. The state the dispatch hardware, the anchor and the members keep for a crew: bind record, counters, holds,
drift, selection, phases, marks, faults and saved copies (spec 03 R54 to R74, 05 R101 to R125, 10 R240 to R246). -/

namespace Sys2Proof.Machine

/-- Slot states (R109). -/
inductive SlotState where
  | free | bound | starting | running | drawing | preempted | rewinding | killing
  deriving DecidableEq, Repr

/-- A bind record (R108). -/
structure Bind where
  towlines : BitVec 64 := 0
  mods   : BitVec 32 := 0
  crew   : BitVec 16 := 0
  asid   : BitVec 16 := 0
  start  : BitVec 48 := 0
  horizon : BitVec 16 := 0
  sellat : BitVec 16 := 0
  pounds : BitVec 16 := 0
  x0 : BitVec 8 := 0
  y0 : BitVec 8 := 0
  wm1 : BitVec 8 := 0
  hm1 : BitVec 8 := 0
  image  : BitVec 48 := 0
  save   : BitVec 48 := 0
  age    : BitVec 16 := 0
  sprio  : BitVec 2 := 0
  started : Word := 0
  eclass : BitVec 4 := 0
  prio   : BitVec 2 := 0
  onfault : Bool := false
  fixed  : Bool := false
  state  : SlotState := .free
  allow  : BitVec 16 := 0
  deriving DecidableEq, Repr

/-- A schedule variant (R114). -/
structure Variant where
  cls  : BitVec 3
  index : Nat
  bank : BitVec 2
  length : BitVec 32
  cap  : List (BitVec 16)
  est  : BitVec 16
  deriving DecidableEq, Repr

/-- A hold announced for a crew and merged by start count (R69, R72): `len` 0 while open and not released. -/
structure HoldAnn where
  h     : BitVec 48
  len   : Nat
  /-- the causes of its announcements -/
  whys  : List HoldWhy
  /-- announcers that have not released an open hold -/
  opens : Nat
  deriving DecidableEq, Repr

structure DrawOff where
  v   : BitVec 48
  why : DrawWhy
  /-- modules that have saved their part, as the anchor knows -/
  drawn : List Nat := []
  deriving DecidableEq, Repr

/-- A crew fault as the anchor keeps it: the first report, with its member and the count of its receipt (R240). -/
structure FaultRec where
  cause : BitVec 8
  addr  : Word
  member : Nat
  at_   : BitVec 48
  deriving DecidableEq, Repr

/-- A member that has reported: a core here, or a member of another module of the crew. -/
inductive Reporter where
  | here (r : CoreRef)
  | there (modIdx member : Nat)
  deriving DecidableEq, Repr

/-- A phase under way at a level (R314): the reference count and the members that have reported. -/
structure PhaseRef where
  level : BitVec 2
  /-- at level 1, the tile whose cores check each other -/
  tile  : Nat
  count : BitVec 48
  seen  : List Reporter
  deriving DecidableEq, Repr

/-- The counters and pending matters of a running crew. -/
structure CrewRun where
  vcyc : BitVec 48 := 0
  /-- the machinery runs count `vcyc` in this TIME cycle -/
  live : Bool := false
  holds : List HoldAnn := []
  /-- open holds the anchor has announced for a lockhouse elsewhere: its module index, the cause and the start count -/
  asked : List (Nat × HoldWhy × BitVec 48) := []
  /-- start counts of open holds whose release waits for the hold to be in force (R71) -/
  rels : List (BitVec 48) := []
  /-- hold in force: TIME cycles counted so far; 0 none (R70) -/
  holdCount : Nat := 0
  /-- TIME cycles of a drift pause still to stand (R64) -/
  pause : Nat := 0
  /-- count E of an effective DRIFT whose pause is to come, and its P -/
  drift : Option (BitVec 48 × Nat) := none
  driftC : Int := 0
  since  : BitVec 24 := 0
  lastAdj : BitVec 8 := 0
  bank : BitVec 2 := 0
  row  : Nat := 0
  /-- SIZE words by count and group (R116) -/
  sizes : List (BitVec 48 × BitVec 3 × BitVec 16) := []
  sel  : Option Selection := none
  selNext : Option Selection := none
  /-- count of the last bank switch (R118) -/
  switchAt : BitVec 48 := 0
  /-- selection waiting for its energy budget (R117): the estimate it needs -/
  selWait : Option (BitVec 48 × Nat) := none
  phases : List PhaseRef := []
  /-- MARKP at a count: the members that executed it (R242) -/
  marks : List (BitVec 48 × List Reporter) := []
  /-- a feeder's log has asked for a mark, which is taken at the next crew-level phase boundary (R243) -/
  markWish : Bool := false
  /-- fault under way (R240) -/
  fault : Option FaultRec := none
  /-- the crew is killed at its stop whatever ONFAULT says (R243) -/
  fatal : Bool := false
  draw : Option DrawOff := none
  /-- a re-grade waits for the crew's next phase boundary, until this TIME (R29) -/
  wish : Option Word := none
  /-- the feeders modulate nothing: from 40 counts before a draw-off (R150) -/
  injectStop : Bool := false
  /-- machinery stands: fault stop, draw-off or end -/
  stopped : Bool := false
  deriving DecidableEq, Repr

/-- A static flit held in a retiming buffer until its count (R41). -/
structure Retimed where
  count : BitVec 48
  port  : BitVec 2
  flit  : Flit
  deriving DecidableEq, Repr

/-- A flit waiting to leave: when it left the towpath, its port (R36). -/
structure StaticOut where
  count : BitVec 48
  port  : BitVec 2
  flit  : Flit
  deriving DecidableEq, Repr

/-- What an area holds of a crew at a count (R214, R242, R244): units and memory cells as they stood. -/
structure Saved where
  count : BitVec 48
  run   : CrewRun
  tiles : List (Nat × Tile)
  feeders : List (Nat × Feeder)
  cells : List (Nat × Byte)
  poison : List Nat
  tickets : List (Nat × BitVec 32 × BitVec 32)
  /-- page berths of its members, by feeder (R225) -/
  berths : List (Nat × PageBerth)
  /-- windows of tiles outside the crew that a member holds or has handed over: tile, window, HOLDER, the rest (R225) -/
  windows : List (Nat × BitVec 4 × BitVec 5 × Berth)
  /-- what was due at later counts -/
  agenda : List (BitVec 48 × Instr)
  /-- retiming buffers of the crew's towlines (R244) -/
  retimes : List (Nat × List Retimed)
  x0 : BitVec 8
  y0 : BitVec 8
  deriving DecidableEq, Repr

/-- A slot of the slot table with what the firmware keeps for its crew. -/
structure Slot where
  rec_  : Bind := {}
  run   : CrewRun := {}
  variants : List Variant := []
  modIdx : Nat := 0
  modules : Nat := 1
  width : Nat := 0
  height : Nat := 0
  /-- largest static latency from a member to the anchor (R117) -/
  dmax : Nat := 0
  /-- allowances of the crew's modules, as last received by the anchor (R121) -/
  allows : List (Nat × BitVec 16) := []
  ready : Bool := false
  /-- of a crew on several modules, as the anchor knows: which modules could start their part, which are ready, with their timed cores, and
  on which every core has halted (R104, R111, R112, R121) -/
  fits   : List Nat := []
  readyFrom : List (Nat × List Nat) := []
  halted : List Nat := []
  /-- what this module has last told the anchor about starting its part -/
  told   : Bool := false
  /-- every module may start its part -/
  go     : Bool := false
  /-- global address and length of the image -/
  img    : Word := 0
  imgLen : Nat := 0
  /-- towlines of this module that LINK names -/
  links  : List Nat := []
  /-- reach column and row that FIXED names (R102) -/
  origin : Option (Nat × Nat) := none
  /-- origin tried first after a rewind (R241) -/
  again  : Option (Nat × Nat) := none
  /-- a bind that waits for other modules starts nothing (R104) -/
  pending : Bool := false
  /-- the origin that victims are being drawn off for, and their slots (R124) -/
  claim  : Option ((Nat × Nat) × List Nat) := none
  digest : BitVec 256 := 0
  current : Option Saved := none
  /-- draw area -/
  drawn : Option Saved := none
  /-- rewinds to the current mark without a newer one (R241) -/
  rewinds : Nat := 0
  /-- undo log: old bytes of lines, newest first (R243) -/
  undo : List (Nat × List Byte × List Nat) := []
  lastCause : BitVec 8 := 0
  lastAddr : Word := 0
  /-- granules of pages pinned: first page and count -/
  pins : List (Nat × Nat) := []
  tiles : List Nat := []
  feeders : List Nat := []
  deriving DecidableEq, Repr

/-- A crew drawn off by the host (R86 DRAW, R109): its save handle. -/
structure SavedCrew where
  handle : Word
  asid   : BitVec 16
  slot   : Slot
  deriving DecidableEq, Repr

end Sys2Proof.Machine
end

