-- ==== Sys2Proof/Machine/State/HostState.lean ====
section
/-! DEFINITION. The state of the host interface, the lockhouse, the receiving interfaces, the towlines, the reaches and the rails
(spec 01 R22 to R31, 02 R33 to R53, 04 R76 to R98, 09 R233, R234, 10 R248). -/

namespace Sys2Proof.Machine

/-- A completion or event not yet written to its ring (R82 to R85). -/
structure Completion where
  event  : Bool
  status : BitVec 8
  qid    : Nat
  cid    : BitVec 16
  result : Word
  logaddr : Word
  time   : Word
  deriving DecidableEq, Repr

/-- A work queue (R77, R81, R82). -/
structure Queue where
  qid   : Nat
  port  : Nat
  asid  : BitVec 16
  admin : Bool
  ring  : Word
  depth : Nat
  size  : Nat
  vec   : BitVec 11
  dropped : BitVec 32
  cqhead  : BitVec 32
  /-- completions written since creation -/
  written : Nat
  inflight : Nat
  waiting : List Completion
  deriving DecidableEq, Repr

/-- A machine-check record (R95). -/
structure McRec where
  time : Word
  addr : Word
  asid : BitVec 16
  crew : BitVec 16
  unit : BitVec 4
  index : BitVec 28
  kind : BitVec 8
  cause : BitVec 8
  repeat_ : BitVec 16
  seq  : BitVec 32
  unread : Bool
  /-- of an error response: QID, CID and opcode (R85), for which R95 gives no field -/
  cmd  : Option (Nat × BitVec 16 × BitVec 8) := none
  deriving DecidableEq, Repr

/-- LHSTAT.STATE (R78). -/
inductive LhPhase where
  | booting | triplex | duplex | halted | restarting
  deriving DecidableEq, Repr

/-- A page-table entry (R86 MAP, R216): address space, MOD, SPACE and VPN together as gaddr div 2^21, physical page. -/
structure PageMap where
  asid  : BitVec 16
  page  : Nat
  phys  : Word
  write : Bool
  atomic : Bool
  repl  : Bool
  pins  : Nat
  deriving DecidableEq, Repr

/-- A translation entry of a receiving interface (R51, R52). -/
structure TlbEntry where
  asid : BitVec 16
  page : Nat
  locked : Bool
  deriving DecidableEq, Repr

/-- A receiving interface: first and second level, most recently used first, and requests waiting for a walk. -/
structure IfaceState where
  iface : Iface
  l1 : List TlbEntry
  l2 : List TlbEntry
  /-- in order of arrival; true: translated, and waiting only for an earlier one to the same destination (R51) -/
  walks : List (Req × Bool)
  deriving DecidableEq, Repr

/-- A pound (R248). -/
inductive PoundState where
  | defined | fenced | resetting
  deriving DecidableEq, Repr

structure Pound where
  num : Nat
  x0 : Nat
  y0 : Nat
  x1 : Nat
  y1 : Nat
  state : PoundState
  /-- the command a fence or reset completes -/
  cmd : Option (Nat × BitVec 16)
  deriving DecidableEq, Repr

/-- A page migration (R233). -/
structure Migration where
  page : Nat
  oldF : Nat
  newF : Nat
  newPhys : Word
  copied : Nat
  step : Nat
  queued : List Req
  forwards : List Req
  deriving DecidableEq, Repr

/-- A store to a replicated page, performed at the primary copy, whose other copies are being written one after the other: its number, the unit
that keeps the page, the store, the modules still to come (R230). -/
structure CopyWrite where
  num    : BitVec 16
  keeper : CoreRef
  req    : Req
  left   : List (BitVec 13)
  deriving DecidableEq, Repr

/-- A launch refused: STATUS, detail, LOGADDR, and for GRADE the image's grade code (R103). -/
structure LaunchNo where
  status : BitVec 8
  detail : BitVec 8
  log    : Word
  grade  : BitVec 16 := 0
  deriving DecidableEq, Repr

/-- A bind waiting for other modules (R104): module indices still to answer, refusals received. -/
structure BindWait where
  slot : Nat
  qid  : Nat
  cid  : BitVec 16
  left : List Nat
  refusals : List (Nat × LaunchNo)
  deriving DecidableEq, Repr

/-- Host interface and lockhouse. -/
structure Lockhouse where
  phase : LhPhase := .booting
  out   : BitVec 3 := 0
  lost  : BitVec 16 := 0
  evlost : BitVec 8 := 0
  admBase : Vector Word 4 := Vector.replicate 4 0
  admCfg  : Vector Word 4 := Vector.replicate 4 0
  queues : List Queue := []
  evPort : BitVec 2 := 0
  events : List Completion := []
  /-- commands accepted and not yet carried out, in the order they reached the command processor (R88) -/
  accepted : List HostCmd := []
  /-- commands under way that complete later: DRAW, POUND, LAUNCH across modules -/
  open_ : List HostCmd := []
  log   : List McRec := []
  nextSeq : BitVec 32 := 0
  /-- voted state words and their commit journal (R90, R94) -/
  words : List (Nat × Word) := []
  disputed : Option Nat := none
  aspaces : List (BitVec 16 × Word) := []
  pages  : List PageMap := []
  ifaces : List IfaceState := []
  routes : List (Nat × BitVec 8) := []
  /-- modules of the flight, by flight number, as calibration left them (R40, R103) -/
  flightMods : BitVec 32 := 0
  slots  : List (Nat × Slot) := []
  saved  : List SavedCrew := []
  nextHandle : Word := 1
  pounds : List Pound := []
  binds  : List BindWait := []
  migrations : List Migration := []
  copies : List CopyWrite := []
  nextCopy : BitVec 16 := 0
  localNums : List (BitVec 11) := []
  powerCap : BitVec 16 := 3200
  /-- a power or thermal limit is in force -/
  limit  : Bool := false
  /-- crews under a power or thermal limit hold, with its start count (R122) -/
  limitHeld : List (Nat × BitVec 48) := []
  /-- messages from other modules' lockhouses that wait while this one has halted, with their towlines (R93) -/
  mail   : List (Nat × Notice) := []
  /-- crews held by a lockhouse halt (R93) -/
  haltHeld : List (Nat × BitVec 48) := []
  /-- a crew has left RUNNING since the last scheduler pass (R121) -/
  freed  : Bool := false
  regrading : Option (Nat × Nat) := none
  regraded  : Option (BitVec 16) := none
  bootCount : Word := 0
  measure : Vector (BitVec 256) 5 := Vector.replicate 5 0
  /-- the flash's banks; none: as shipped (R97) -/
  bankA  : Option (List Byte) := none
  bankB  : Option (List Byte) := none
  bankActive : Bool := false
  /-- FW_STAGE has written the inactive bank, which the next start boots -/
  staged : Bool := false
  /-- a restart has halted again: only RESET_N recovers (R94) -/
  spent  : Bool := false
  /-- MSI-X tables, by port and offset (R76) -/
  msix   : List (Nat × Word) := []
  attKey : BitVec 256 := 0
  /-- the attestation certificate made at the last start (R97) -/
  cert   : List Byte := []
  deriving DecidableEq, Repr

/-- A frame kept for replay (R39), with the sendings so far. -/
structure SentFrame where
  frame : Frame
  sendings : Nat
  deriving DecidableEq, Repr

/-- The lanes of one direction of a towline (R33, R44 to R47). -/
structure DirLanes where
  /-- rotation position of the frame now on the lanes, and of the one after it -/
  rot  : BitVec 5 := 16
  next : BitVec 5 := 16
  /-- position that headers announce for the frame two after theirs -/
  goal : BitVec 5 := 16
  /-- ordinary steps go down (R44) -/
  down : Bool := true
  /-- the step under way ends at this TIME -/
  step : Option Word := none
  walkTo : Option Nat := none
  parked : Option Nat := none
  /-- lanes without signal -/
  dark : List Nat := []
  deriving DecidableEq, Repr

/-- A towline (R32 to R47). -/
structure Towline where
  peer : BitVec 8 := 0xFF
  up   : Bool := false
  lat  : BitVec 16 := 0
  /-- the two directions' lanes: outgoing and incoming (R33) -/
  outLanes : DirLanes := {}
  inLanes  : DirLanes := {}
  seqNext : BitVec 12 := 0
  /-- the last frame received -/
  ackSeq : BitVec 12 := 0
  /-- uncorrectable frames not yet named in a header, oldest first (R39) -/
  nacks : List (BitVec 12) := []
  replayQ : List (BitVec 12) := []
  sent  : List SentFrame := []
  retime : List Retimed := []
  badSeqs : List (Nat × Nat) := []
  staticOut : List StaticOut := []
  dynOut : List Packet := []
  /-- announcements and messages of crews, which leave before all other dynamic flits (R69) -/
  notes : List Notice := []
  owner : Option Nat := none
  rtab  : Vector (Option (BitVec 128)) 256 := Vector.replicate 256 none
  deriving DecidableEq, Repr

/-- A reach: dispensers (NEXT, SERVING), rails, greeting (R22 to R24, R28, R180, R181, R234). -/
structure Reach where
  tickets : List (Nat × BitVec 32 × BitVec 32) := []
  /-- core voltage in units of 0.5 mV -/
  volts : Nat := 1360
  coreGood : Bool := true
  transitGood : Bool := true
  /-- the transit converter lost -/
  converterOut : Option Bool := none
  hole : Bool := false
  skips : List (Nat × Nat) := []
  deriving DecidableEq, Repr

/-- The rails beside those of the reaches: control die, feeder logic, HBM4E stacks, lasers and heaters (R22); true: on. -/
structure Rails where
  control : Bool := false
  feeder  : Bool := false
  hbm     : Bool := false
  laser   : Bool := false
  deriving DecidableEq, Repr

/-- Rails and sideband (R22 to R31). -/
structure Power where
  rails : Rails := {}
  pwrEn : Bool := false
  pgood : Bool := false
  /-- a thermal trip has turned the reaches' rails off (R27) -/
  off   : Bool := false
  tripN : Bool := true
  /-- the step of R25 under way; 0: off, 6: all steps ended -/
  step  : Nat := 0
  /-- laser modules in failover, with the TIME it ends (R24) -/
  lasersOut : List (Nat × Word) := []
  greeting : Nat := 0
  /-- the greeting's self-test, and boot firmware's filling of the route tables: which one; 0: none yet (R176, R180) -/
  health : Nat := 0
  routes : Nat := 0
  refLost : Bool := false
  deriving DecidableEq, Repr

/-- What leaves the module (R30, R76, R104, log 1, DESIGN CHOICE). -/
inductive Out where
  | frame (tl : Nat) (f : Frame)
  | msix (port : Nat) (vec : BitVec 11)
  | console
  | farStore (a : Word) (data : List Byte)
  deriving DecidableEq, Repr

end Sys2Proof.Machine
end

