-- ==== Sys2Proof/Machine/State.lean ====
section
/-! DEFINITION. The state of the machine (one AW-940 module), the reasons a step can stop, and the state after reset. -/

namespace Sys2Proof.Machine

/-- When an event is due: at a TIME, or at a count of the crew in a slot. -/
inductive When where
  | time (t : Word)
  | count (slot : Nat) (c : BitVec 48)
  deriving DecidableEq, Repr

/-- An event due later. -/
structure Due where
  at_ : When
  ev  : Instr
  deriving DecidableEq, Repr

/-- What is left to do in the present cycle, in order (log 2, DESIGN CHOICE). -/
inductive Work where
  | ev (i : Instr)
  /-- the crew in a slot runs its next count, stands, or stops -/
  | crewGo (slot : Nat)
  /-- routers, cores and engines of the listed units do their parts of the cycle -/
  | units
  /-- results and stores of a core that are due become visible, and its counts go down -/
  | coreTick (c : CoreRef)
  /-- a stand ends or goes on, and waits that end are found -/
  | coreBegin (c : CoreRef)
  /-- the oldest operation due enters its column -/
  | coreEnter (c : CoreRef)
  /-- the next bundle issues -/
  | coreIssue (c : CoreRef)
  /-- ports fetch and drain, engines of the tile or feeder do their part of the cycle -/
  | tileEngines (t : Nat)
  | feederEngines (f : Nat)
  /-- sluices, descriptor writes and the array at the end of the cycle -/
  | tileEnd (t : Nat)
  | feederEnd (f : Nat)
  deriving DecidableEq, Repr

/-- Why the machine stops. -/
inductive Fault where
  /-- an event names a tile, feeder, towline, reach, core or lane that the grid of spec 00 R4 does not have: raised by every
  event's meaning; safe, since no hardware event names such a unit (log 6, DESIGN CHOICE) -/
  | noSuchUnit
  deriving DecidableEq, Repr

/-- Why an instruction has no meaning. -/
inductive Refusal where
  /-- the instruction of this mnemonic is not modelled: raised by the arms of exec; safe -/
  | notModelled (mnemonic : String)
  deriving DecidableEq, Repr

/-- The machine: one module. -/
structure State where
  time   : Word := 0
  grade  : BitVec 16 := 0x0940
  modNum : BitVec 13 := 0
  flight : BitVec 5 := 0
  isRef  : Bool := true
  /-- fused-off physical tiles (x, y) -/
  defects : List (Nat × Nat) := []
  /-- reaches that a re-grade treats as fused off (R29) -/
  worn : List (Nat × Nat) := []
  /-- reach column retired on AW-936 -/
  retired : Option Nat := none
  pwr    : Power := {}
  lh     : Lockhouse := {}
  reaches : List (Nat × Reach) := []
  towlines : List (Nat × Towline) := []
  tiles  : List (Nat × Tile) := []
  feeders : List (Nat × Feeder) := []
  /-- every byte the module stores, by the keys of Config (log 3, DESIGN CHOICE) -/
  mem    : List Host.Cell := []
  /-- keys of poisoned granules: the first byte of 8 (tile) or 16 (weight store) -/
  poison : List Nat := []
  /-- the core whose operation enters -/
  actor  : CoreRef := .tile 0 true
  /-- the operation has passed the checks of its bundle's issue (R287) -/
  checked : Bool := false
  /-- the delivery that fired the armed word that enters (R142) -/
  fired  : Option Nat := none
  /-- of a MARM that enters: the armed word of its bundle, its D and its byte address (R378) -/
  partner : Option (Instr × Nat × Nat) := none
  /-- the word's byte address (FAULTADDR of ILLEGAL, R235) -/
  wordAt : Nat := 0
  /-- place of the operation in its core's order of issue (R188) -/
  seq    : Nat := 0
  /-- how many free values have been taken -/
  free   : Nat := 0
  inputs : List Instr := []
  agenda : List Due := []
  work   : List Work := []
  outbox : List Out := []
  deriving DecidableEq, Repr

/-- An administrative queue as it exists from reset (R77). -/
def adminQueue (p : Nat) : Queue :=
  { qid := p, port := p, asid := 0, admin := true, ring := 0, depth := 64, size := 0, vec := 0, dropped := 0, cqhead := 0,
    written := 0, inflight := 0, waiting := [] }

/-- The machine right after reset: PWR_EN low and no rail up, no crew, no core running (R25, R30, R77). Values for which
the spec states no reset are those of log 4, DESIGN CHOICE. -/
def State.reset : State :=
  { lh := { queues := [adminQueue 0, adminQueue 1, adminQueue 2, adminQueue 3] } }

end Sys2Proof.Machine
end

