-- ==== Sys2Proof/Machine/Memory.lean ====
section
/-! DEFINITION. The module's memories as one list of cells in canonical form: keys strictly rising, no zero byte listed (log 3, DESIGN CHOICE). -/

namespace Sys2Proof.Machine

/-- The canonical form: keys strictly rising, no byte equal to what an unlisted key reads as. -/
def cellsFrom : Nat → List Host.Cell → Bool
  | _, [] => true
  | lo, (a, b) :: r => lo ≤ a && b != 0 && cellsFrom (a + 1) r

def Memory.wf (m : List Host.Cell) : Bool := cellsFrom 0 m

/-- One byte; unlisted keys read as zero. -/
def readCell : List Host.Cell → Nat → Byte
  | [], _ => 0
  | (a, b) :: r, k => if a = k then b else if k < a then 0 else readCell r k

/-- Write one byte, keeping the canonical form. -/
def writeCell : List Host.Cell → Nat → Byte → List Host.Cell
  | [], k, v => if v = 0 then [] else [(k, v)]
  | (a, b) :: r, k, v =>
    if k < a then (if v = 0 then (a, b) :: r else (k, v) :: (a, b) :: r)
    else if k = a then (if v = 0 then r else (k, v) :: r)
    else (a, b) :: writeCell r k v

/-- `n` bytes from a key up. -/
def readCells (m : List Host.Cell) (k n : Nat) : List Byte := (List.range n).map fun i => readCell m (k + i)

/-- Bytes written at given keys, in order. -/
def writeCells (m : List Host.Cell) (bs : List (Nat × Byte)) : List Host.Cell :=
  bs.foldl (fun m kb => writeCell m kb.1 kb.2) m

/-- Bytes with their consecutive keys. -/
def keyed (k : Nat) : List Byte → List (Nat × Byte)
  | [] => []
  | b :: r => (k, b) :: keyed (k + 1) r

/-- Every listed cell of a key range set to zero (R247). -/
def clearCells (m : List Host.Cell) (lo hi : Nat) : List Host.Cell := m.filter fun c => !(lo ≤ c.1 && c.1 < hi)

/-- A little-endian number (R7). -/
def leNat : List Byte → Nat
  | [] => 0
  | b :: r => b.toNat + 256 * leNat r

/-- The low `n` bytes of a number, lowest first (R7). -/
def leBytes : Nat → Nat → List Byte
  | 0, _ => []
  | n + 1, x => BitVec.ofNat 8 x :: leBytes n (x / 256)

end Sys2Proof.Machine
end

