-- ==== Sys2Proof/Machine/Units.lean ====
section
/-! DEFINITION. Access to the units of the module: tiles, feeders, towlines, reaches, cores, the slot of a crew. Units are listed by
number; an unlisted unit is as reset leaves it. -/

namespace Sys2Proof

/-- Core number for the order among the cores of a unit: worker 0, stager 1 (R206); feeder cores by number (R436). -/
def CoreRef.order : CoreRef → Nat
  | .tile _ w => if w then 0 else 1
  | .feeder _ c => c

def CoreRef.isWorker : CoreRef → Bool
  | .tile _ w => w
  | _ => false
def CoreRef.isFeeder : CoreRef → Bool
  | .feeder _ _ => true
  | _ => false
/-- The tile of a tile core; a feeder core has none. -/
def CoreRef.tileId : CoreRef → Option Nat
  | .tile id _ => some id
  | .feeder _ _ => none

/-- Number of a member in the order of R240: logical tile id, feeders after tiles. -/
def CoreRef.member (r : CoreRef) : Nat :=
  match r with
  | .tile id _ => id
  | .feeder f _ => 65536 + f

/-- The wheel agent of a core (R198). -/
def CoreRef.agent (r : CoreRef) : Nat := if r.isWorker then 0 else 1

/-- The UNIT and INDEX a core's records carry (R95). -/
def CoreRef.unitIndex : CoreRef → BitVec 4 × Nat
  | .tile id _ => (0, id)
  | .feeder f _ => (1, f)

end Sys2Proof

namespace Sys2Proof.Machine

/-- The value listed under a number, or the default. -/
def lookupD {α : Type} : List (Nat × α) → Nat → α → α
  | [], _, d => d
  | (k, a) :: r, n, d => if k = n then a else lookupD r n d

/-- The value listed under a number. -/
def lookup? {α : Type} : List (Nat × α) → Nat → Option α
  | [], _ => none
  | (k, a) :: r, n => if k = n then some a else lookup? r n

/-- List a value under a number, numbers rising. -/
def insert {α : Type} : List (Nat × α) → Nat → α → List (Nat × α)
  | [], n, a => [(n, a)]
  | (k, b) :: r, n, a => if n < k then (n, a) :: (k, b) :: r else if n = k then (n, a) :: r else (k, b) :: insert r n a

/-- Remove a number. -/
def remove {α : Type} (l : List (Nat × α)) (n : Nat) : List (Nat × α) := l.filter fun x => x.1 != n

/-- Change every listed value. -/
def mapVals {α : Type} (f : Nat → α → α) : List (Nat × α) → List (Nat × α)
  | [] => []
  | (k, a) :: r => (k, f k a) :: mapVals f r

/-! ### The grid (R1, R4, R18) -/

def State.cols (s : State) : Nat := if s.grade = 0x0936 then 217 else 248
def State.tileCount (s : State) : Nat := s.cols * 192
def State.tileOk (s : State) (id : Nat) : Bool := id < s.tileCount
def State.feederOk (s : State) (f : Nat) : Bool :=
  f < 64 && (s.grade != 0x0936 || (f % 32 < 28))
def towlineOk (t : Nat) : Bool := t < 64
/-- Logical coordinates and id (R4). -/
def State.xOf (s : State) (id : Nat) : Nat := id % s.cols
def State.yOf (s : State) (id : Nat) : Nat := id / s.cols
def State.idOf (s : State) (x y : Nat) : Nat := y * s.cols + x
/-- The westernmost active reach column (R15, R18). -/
def State.firstReach (s : State) : Nat := if s.retired = some 0 then 1 else 0
/-- The reach (rx, ry) of R4 that a logical tile lies in: rx counts the retired column too (R15, R17). -/
def State.reachOf (s : State) (id : Nat) : Nat × Nat := (s.xOf id / 31 + s.firstReach, s.yOf id / 32)
def reachKey (rx ry : Nat) : Nat := ry * 8 + rx
/-- cat(rx, ry), each in the 3 bits that R101 gives it (R89, R184, log 56, DEDUCED). -/
def reachWord (rx ry : Nat) : Word := BitVec.ofNat 64 (reachKey ry rx)
/-- An active reach (R18). -/
def State.reachOk (s : State) (rx ry : Nat) : Bool := s.firstReach ≤ rx && rx - s.firstReach < s.cols / 31 && ry < 6

def State.coreOk (s : State) : CoreRef → Bool
  | .tile id _ => s.tileOk id
  | .feeder f c => s.feederOk f && c < 4

/-! ### Units -/

def State.tile (s : State) (id : Nat) : Tile := lookupD s.tiles id {}
def State.setTile (s : State) (id : Nat) (t : Tile) : State := { s with tiles := insert s.tiles id t }
def State.modTile (s : State) (id : Nat) (f : Tile → Tile) : State := s.setTile id (f (s.tile id))
def State.feeder (s : State) (f : Nat) : Feeder := lookupD s.feeders f {}
def State.setFeeder (s : State) (n : Nat) (f : Feeder) : State := { s with feeders := insert s.feeders n f }
def State.modFeeder (s : State) (n : Nat) (f : Feeder → Feeder) : State := s.setFeeder n (f (s.feeder n))
def State.towline (s : State) (i : Nat) : Towline := lookupD s.towlines i {}
def State.setTowline (s : State) (i : Nat) (t : Towline) : State := { s with towlines := insert s.towlines i t }
def State.modTowline (s : State) (i : Nat) (f : Towline → Towline) : State := s.setTowline i (f (s.towline i))
def State.reach (s : State) (rx ry : Nat) : Reach := lookupD s.reaches (reachKey rx ry) {}
def State.setReach (s : State) (rx ry : Nat) (r : Reach) : State := { s with reaches := insert s.reaches (reachKey rx ry) r }

/-- The lockhouse commits nothing (R93). -/
def State.halted (s : State) : Bool := s.lh.phase = .halted || s.lh.phase = .restarting

/-- A tile's cores and interfaces have power (R153, R184). -/
def State.powered (s : State) (id : Nat) : Bool := !s.pwr.off && (s.reach (s.reachOf id).1 (s.reachOf id).2).coreGood
/-- A tile's router, bypass wires and taps have power (R24). -/
def State.transit (s : State) (id : Nat) : Bool := !s.pwr.off && (s.reach (s.reachOf id).1 (s.reachOf id).2).transitGood

/-- A core number within 4 as a position. -/
def feederCore (c : Nat) : Fin 4 := Fin.ofNat 4 c

def State.core (s : State) : CoreRef → Core
  | .tile id true => (s.tile id).worker
  | .tile id false => (s.tile id).stager
  | .feeder f c => (s.feeder f).cores[feederCore c]

def State.setCore (s : State) (r : CoreRef) (c : Core) : State :=
  match r with
  | .tile id true => s.setTile id { s.tile id with worker := c }
  | .tile id false => s.setTile id { s.tile id with stager := c }
  | .feeder f n => s.setFeeder f { s.feeder f with cores := (s.feeder f).cores.set (feederCore n) c }

def State.modCore (s : State) (r : CoreRef) (f : Core → Core) : State := s.setCore r (f (s.core r))

/-- The core whose operation enters. -/
def State.me (s : State) : Core := s.core s.actor
def State.setMe (s : State) (c : Core) : State := s.setCore s.actor c
def State.modMe (s : State) (f : Core → Core) : State := s.modCore s.actor f

/-! ### Crews -/

/-- The slot of the crew that owns the core's tile or feeder. -/
def State.slotOf (s : State) : CoreRef → Option Nat
  | .tile id _ => (s.tile id).slot
  | .feeder f _ => (s.feeder f).slot

def State.slot (s : State) (n : Nat) : Slot := lookupD s.lh.slots n {}
def State.setSlot (s : State) (n : Nat) (x : Slot) : State := { s with lh := { s.lh with slots := insert s.lh.slots n x } }
def State.modSlot (s : State) (n : Nat) (f : Slot → Slot) : State := s.setSlot n (f (s.slot n))
def State.modRun (s : State) (n : Nat) (f : CrewRun → CrewRun) : State :=
  s.modSlot n fun x => { x with run := f x.run }

/-- The slot that holds a crew number on this module. -/
def State.slotOfCrew (s : State) (crew : BitVec 16) : Option Nat :=
  (s.lh.slots.find? fun x => x.2.rec_.crew == crew && x.2.rec_.state != .free).map (·.1)

/-- The ASID a core's unit belongs to. -/
def State.asidOf (s : State) : CoreRef → BitVec 16
  | .tile id _ => (s.tile id).asid
  | .feeder f _ => (s.feeder f).asid
def State.crewOf (s : State) : CoreRef → BitVec 16
  | .tile id _ => (s.tile id).crew
  | .feeder f _ => (s.feeder f).crew

/-- TIME as a unit shows it (R59, R60). -/
def State.timeAt (s : State) : CoreRef → Word
  | .tile id _ => s.time + (s.tile id).timeSkew
  | .feeder f _ => s.time + (s.feeder f).timeSkew

/-- VCYC as a core reads it: the crew's count, in a hold the hold's count; 0 outside any crew (R54, R56, R68). -/
def State.vcycOf (s : State) (r : CoreRef) : BitVec 48 :=
  match s.slotOf r with
  | none => 0
  | some n => (s.slot n).run.vcyc + (match r with | .tile id _ => (s.tile id).vcycSkew | .feeder f _ => (s.feeder f).vcycSkew)

/-- The crew's machinery runs a count in this TIME cycle (R54, R70). -/
def State.crewLive (s : State) (r : CoreRef) : Bool :=
  match s.slotOf r with
  | none => false
  | some n => (s.slot n).run.live

/-- A target u has passed at count c (R57). -/
def passed (u c : BitVec 48) : Bool :=
  let d := (c - u).toNat
  0 < d && d < 2 ^ 47

/-- A TIME has come. -/
def passedTime (t now : Word) : Bool := (now - t).toNat < 2 ^ 63

/-- Wheel phase of a tile (R198): the crew's count while its machinery runs, else TIME. -/
def State.wheelPhase (s : State) (id : Nat) : Nat :=
  match (s.tile id).slot with
  | some n => if (s.slot n).run.live then (s.slot n).run.vcyc.toNat else s.time.toNat
  | none => s.time.toNat

/-- The bank of a tile-store address and the agent that owns a bank at a phase (R198): 0 worker, 1 stager, 2 chamber engine,
3 towpath ejection. -/
def bankOf (a : Nat) : Nat := a / 64 % 32
def bankAgent (w b : Nat) : Nat := (w + b) % 4

/-! ### Free values (log 5, DESIGN CHOICE) -/

/-- Take a free number below `n` (0 when n is 0). -/
def State.freeBelow (s : State) (n : Nat) : Nat × State := (Config.freeNat s.free % n, { s with free := s.free + 1 })
def State.takeBool (s : State) : Bool × State := (Config.freeBool s.free, { s with free := s.free + 1 })
def State.takeWord (s : State) : Word × State := (Config.freeWord s.free, { s with free := s.free + 1 })

/-! ### Agenda -/

def State.atTime (s : State) (t : Word) (i : Instr) : State := { s with agenda := s.agenda ++ [⟨.time t, i⟩] }
def State.afterTime (s : State) (d : Nat) (i : Instr) : State := s.atTime (s.time + BitVec.ofNat 64 d) i
def State.atCount (s : State) (slot : Nat) (c : BitVec 48) (i : Instr) : State :=
  { s with agenda := s.agenda ++ [⟨.count slot c, i⟩] }
/-- An event after a time the spec does not state (log 7, DESIGN CHOICE). -/
def State.afterFree (s : State) (i : Instr) : State :=
  { (s.afterTime (Config.freeNat s.free + 1) i) with free := s.free + 1 }
/-- A towline in service to a module of the flight. -/
def State.lineTo (s : State) (m : Nat) : Option Nat := (List.range 64).find? fun t => (s.towline t).up && (s.towline t).peer.toNat == m
/-- A message leaves for a module of the flight; with no towline in service it is lost (R69). -/
def State.tell (s : State) (m : Nat) (n : Notice) : State :=
  match s.lineTo m with
  | some t => s.modTowline t fun x => { x with notes := x.notes ++ [n] }
  | none => s
/-- Flight numbers of the crew's other modules. -/
def Slot.others (x : Slot) (own : BitVec 5) : List Nat := (List.range 32).filter fun m => x.rec_.mods.getLsbD m && m != own.toNat
/-- A message for every other module of a crew. -/
def State.tellAll (s : State) (x : Slot) (n : Notice) : State := (x.others s.flight).foldl (fun s m => s.tell m n) s
/-- A message for the crew's anchor module, whose flight number its crew number holds (R105). -/
def State.tellAnchor (s : State) (x : Slot) (n : Notice) : State := s.tell (x.rec_.crew.extractLsb' 11 5).toNat n
def State.emit (s : State) (o : Out) : State := { s with outbox := s.outbox ++ [o] }

/-! ### Machine-check log (R95) -/

/-- Add a record: unread records fill the log, then repeats of the newest match, then loss. -/
def State.mcheck (s : State) (addr : Word) (asid crew : BitVec 16) (unit : BitVec 4) (index : Nat) (kind cause : BitVec 8)
    (cmd : Option (Nat × BitVec 16 × BitVec 8) := none) : State :=
  let lh := s.lh
  let unread := (lh.log.filter (·.unread)).length
  let same (r : McRec) : Bool := r.unread && r.kind == kind && r.unit == unit && r.index == BitVec.ofNat 28 index && r.addr == addr
  if unread < 1024 then
    let r : McRec := { time := s.time, addr := addr, asid := asid, crew := crew, unit := unit, index := BitVec.ofNat 28 index, kind := kind,
                       cause := cause, repeat_ := 0, seq := lh.nextSeq, unread := true, cmd := cmd }
    let keep := if lh.log.length < 1024 then lh.log
      else match lh.log.findIdx? (fun x => !x.unread) with
        | some i => lh.log.eraseIdx i
        | none => lh.log
    { s with lh := { lh with log := keep ++ [r], nextSeq := lh.nextSeq + 1 } }
  else match (lh.log.reverse.find? (·.unread)) with
    | some r =>
      if same r then
        let up (x : McRec) : McRec :=
          if x.seq == r.seq && x.unread then { x with repeat_ := if x.repeat_ = 0xFFFF then x.repeat_ else x.repeat_ + 1 } else x
        { s with lh := { lh with log := lh.log.map up } }
      else { s with lh := { lh with lost := if lh.lost = 0xFFFF then lh.lost else lh.lost + 1 } }
    | none => s

end Sys2Proof.Machine
end

