-- ==== Sys2Proof/Machine/Ops.lean ====
section
/-! DEFINITION. Shared operations of a core: reading registers, results on their way, traps and crew faults (the one exception
entry) and the return, standing, issue state (spec 08 R186 to R189, 10 R235 to R240, 12 R292). -/

namespace Sys2Proof.Machine

/-! ### Cause codes (R10) -/
namespace Cause
def illegal : BitVec 8 := 0x01
def collide : BitVec 8 := 0x02
def wheel : BitVec 8 := 0x03
def window : BitVec 8 := 0x04
def berth : BitVec 8 := 0x05
def align : BitVec 8 := 0x06
def priv : BitVec 8 := 0x07
def sluice : BitVec 8 := 0x08
def chamberLoss : BitVec 8 := 0x09
def remoteFault : BitVec 8 := 0x0A
def remoteNack : BitVec 8 := 0x0B
def eccConsumed : BitVec 8 := 0x0C
def late : BitVec 8 := 0x0D
def driftLimit : BitVec 8 := 0x0E
def trap : BitVec 8 := 0x0F
def breakTrap : BitVec 8 := 0x10
def draw : BitVec 8 := 0x11
def phaseSkew : BitVec 8 := 0x12
def select : BitVec 8 := 0x13
def voteFail : BitVec 8 := 0x14
end Cause

/-! ### Registers -/

/-- g0 reads as zero (R6). -/
def Core.readG (c : Core) (r : Reg) : Word := if r = 0 then 0 else c.g[r.toNat]'(by omega)
/-- k0 reads as all ones (R6). -/
def Core.readK (c : Core) (r : KReg) : Word := if r = 0 then BitVec.allOnes 64 else c.k[r.toNat]'(by omega)
/-- Writes to g0 are ignored (R188). -/
def Core.writeG (c : Core) (r : Reg) (v : Word) : Core :=
  if r = 0 then c else { c with g := c.g.set r.toNat v (by omega) }
/-- Writes to k0 are ignored (R188). -/
def Core.writeK (c : Core) (r : KReg) (v : Word) : Core :=
  if r = 0 then c else { c with k := c.k.set r.toNat v (by omega) }
def Core.port (c : Core) (p : PReg) : Port := c.p[p.toNat]'(by omega)
def Core.setPort (c : Core) (p : PReg) (x : Port) : Core := { c with p := c.p.set p.toNat x (by omega) }
def Core.modPort (c : Core) (p : PReg) (f : Port → Port) : Core := c.setPort p (f (c.port p))
def Tile.readV (t : Tile) (r : Reg) : VReg := t.v[r.toNat]'(by omega)
def Tile.writeV (t : Tile) (r : Reg) (x : VReg) : Tile := { t with v := t.v.set r.toNat x (by omega) }
def Tile.readZ (t : Tile) (z : Bool) : ZSet := if z then t.z1 else t.z0
def Tile.writeZ (t : Tile) (z : Bool) (x : ZSet) : Tile := if z then { t with z1 := x } else { t with z0 := x }
def Tile.kind (t : Tile) (z : Bool) : Bool := if z then t.kz1 else t.kz0
def Tile.setKind (t : Tile) (z b : Bool) : Tile := if z then { t with kz1 := b } else { t with kz0 := b }

/-- The acting core's g register. -/
def State.g (s : State) (r : Reg) : Word := s.me.readG r
def State.k (s : State) (r : KReg) : Word := s.me.readK r
/-- The tile of the acting core; a feeder core has none, and an empty tile stands for it. -/
def State.myTile (s : State) : Tile :=
  match s.actor with
  | .tile id _ => s.tile id
  | .feeder _ _ => {}
def State.v (s : State) (r : Reg) : VReg := s.myTile.readV r
/-- Change the tile of the acting core; nothing for a feeder core. -/
def State.modMyTile (s : State) (f : Tile → Tile) : State :=
  match s.actor with
  | .tile id _ => s.modTile id f
  | .feeder _ _ => s

/-! ### Results on their way (R188, R292) -/

/-- Results in the order of issue. -/
def insertWr (w : PendWr) : List PendWr → List PendWr
  | [] => [w]
  | x :: r => if w.seq < x.seq then w :: x :: r else x :: insertWr w r

/-- A result of the operation that enters now, written `n` cycles later. -/
def State.later (s : State) (n : Nat) (w : Wr) : State :=
  s.modMe fun c => { c with writes := insertWr ⟨n, s.seq, w⟩ c.writes }

/-- A scalar result of latency n. -/
def State.laterG (s : State) (n : Nat) (r : Reg) (v : Word) : State := s.later n (.g r v)
/-- A whole predicate register of latency n. -/
def State.laterK (s : State) (n : Nat) (r : KReg) (v : Word) : State := s.later n (.k r (BitVec.allOnes 64) v)
/-- Flags of latency n; none set, none written. -/
def State.laterFlags (s : State) (n : Nat) (f : BitVec 7) : State := if f = 0 then s else s.later n (.flags f)

/-! ### Crew faults (R240) and traps (R235, R237) -/

/-- The report of a fault on its way to the crew's anchor: a TIME within the budget of R69 on this module (log 5, DESIGN CHOICE), or out to the
anchor module. -/
def State.report (s : State) (slot : Nat) (cause : BitVec 8) (addr : Word) (member : Nat) : State :=
  let x := s.slot slot
  if x.modIdx = 0 then
    let (d, s) := s.freeBelow 32
    s.afterTime (d + 1) (.crewFaultReport x.rec_.crew cause addr member)
  else s.tellAnchor x (.report x.rec_.crew cause addr member)

/-- A crew fault found by a unit that is no core: record and report (R235, R240). -/
def State.unitFault (s : State) (slot : Option Nat) (unit : BitVec 4) (index : Nat) (member : Nat) (cause : BitVec 8) (addr : Word) :
    State :=
  match slot with
  | none => s.mcheck addr 0 0 unit index 0x01 cause
  | some n =>
    let x := s.slot n
    (s.mcheck addr x.rec_.asid x.rec_.crew unit index 0x01 cause).report n cause addr member

/-- A crew fault of a core: it stops issuing and its operations complete; record and report (R240). -/
def State.coreFault (s : State) (r : CoreRef) (cause : BitVec 8) (addr : Word) : State :=
  let ui := r.unitIndex
  (s.modCore r fun c => { c with run := .stopped, waits := [], trapped := some (cause, addr) }).unitFault
    (s.slotOf r) ui.1 ui.2 r.member cause addr

/-- Cycles from an operation's entry to its last register write, as R292 and R342 give them; 0 where it writes none. -/
def foldBeats (f : BitVec 2) : Nat := 2 ^ f.toNat

def lastWrite : Instr → Nat
  | .mul _ _ _ | .mulh _ _ _ | .mulhsu _ _ _ => 3
  | .div _ _ _ | .divu _ _ _ | .rem _ _ _ | .remu _ _ _ => 18
  | .ld _ _ _ _ | .vld _ _ _ _ | .vlds _ _ _ _ _ _ | .vgath _ _ _ _ _ _ | .lutld _ _ _ | .pstat _ _ | .winqAddr _ _ | .winqNum _ _ => 4
  | .amo _ _ _ _ _ _ _ | .tdrecv _ _ | .tdrecvNb _ _ => 4
  | .st _ _ _ | .vst _ _ _ _ | .vscat _ _ _ _ _ _ => 2
  | .vadd ty _ f _ _ _ _ | .vsub ty _ f _ _ _ _ | .vmul ty _ f _ _ _ _ | .vmin ty f _ _ _ _ | .vmax ty f _ _ _ _ =>
    foldBeats f + (if ty = .f then 3 else 1)
  | .vfma ty _ f _ _ _ _ _ | .vfms ty _ f _ _ _ _ _ => foldBeats f + (if ty = .f then 3 else 1)
  | .vcvt _ _ f _ _ _ => foldBeats f + 3
  | .vabs _ _ f _ _ _ | .vneg _ _ f _ _ _ | .vcmp _ _ f _ _ _ _ => foldBeats f + 1
  | .vand f _ _ _ _ | .vor f _ _ _ _ | .vxor f _ _ _ _ | .vshl f _ _ _ _ | .vshr f _ _ _ _ | .vsha f _ _ _ _ => foldBeats f + 1
  | .vsel f _ _ _ _ | .vperm f _ _ _ _ | .vbcast f _ _ _ _ | .vsplatG f _ _ _ | .vsplatImm f _ _ _ | .viota f _ _ _ => foldBeats f + 1
  | .vmov f _ _ _ | .vlut f _ _ _ => foldBeats f + 1
  | .vmovG _ _ _ | .vmovE _ _ _ | .mstz _ _ => 2
  | .vrcp f _ _ _ | .vrsq f _ _ _ | .vsqrt f _ _ _ | .vexp2 f _ _ _ | .vlog2 f _ _ _ | .vtanh f _ _ _ | .vsigm f _ _ _ => foldBeats f + 5
  | .vredadd _ _ f _ _ _ | .vredmax _ f _ _ _ | .vredmin _ f _ _ _ | .vscan _ _ _ f _ _ _ => foldBeats f + 7
  | .vargmax _ f _ _ _ => foldBeats f + 5
  | .vcomp f _ _ _ _ | .vhash f _ _ _ _ _ => foldBeats f + 2
  | .vtmask f _ _ _ _ => foldBeats f + 11
  | .vpda _ _ _ _ => 23
  | .vsample f _ _ _ _ _ _ => foldBeats f + 23
  | .mdrainV _ _ => 21
  | .loop _ _ | .call _ _ | .jmpLink _ _ | .slget _ _ | .sysrd _ _ | .timeT _ | .timeV _ | .timeOff _ | .tdsend _ _ _ _ _ => 1
  | .add _ _ _ | .sub _ _ _ | .addi _ _ _ | .and _ _ _ | .or _ _ _ | .xor _ _ _ | .andn _ _ _ | .andi _ _ _ | .ori _ _ _ | .xori _ _ _ => 1
  | .shl _ _ _ | .shr _ _ _ | .sha _ _ _ | .shli _ _ _ | .shri _ _ _ | .shai _ _ _ | .rot _ _ _ | .min _ _ _ | .max _ _ _ => 1
  | .minu _ _ _ | .maxu _ _ _ | .slt _ _ _ | .sltu _ _ _ | .seq _ _ _ | .sel _ _ _ _ | .clz _ _ | .ctz _ _ | .popc _ _ => 1
  | .li _ _ | .lih _ _ | .addx _ _ _ _ | .extb _ _ _ _ _ | .insb _ _ _ _ | .kmovToK _ _ | .kmovToG _ _ | .kop _ _ _ _ => 1
  | .syswr _ _ | .fflagsWrite _ | .cvmodeWrite _ => 1
  | _ => 0

/-- Cycles from now to the last write of what the core has issued (R237's w). -/
def Core.lastDue (c : Core) : Nat :=
  (c.writes.map (·.due)).foldl max ((c.ops.map fun o => o.due + lastWrite o.instr).foldl max ((c.autos.map (·.left)).foldl max 0))

/-- Precise trap entry (R237, R238): `i` cycles from now the trapping bundle at `pc` would have issued; `shadow` is the taken branch
whose delay bundles it belongs to. -/
def Core.trapEntry (c : Core) (i : Nat) (pc : BitVec 17) (shadow : Option Pending) (cause : BitVec 8) (addr : Word) (entry : BitVec 16) :
    Core :=
  { c with
    trapPC := pc.truncate 16
    trapCause := { ferry := c.ferryTrap, ds := BitVec.ofNat 2 (match shadow with | some b => b.due | none => 0), pie := c.ie,
                   pkeep := c.keeper, cause := cause }
    faultAddr := addr
    shadow := shadow
    ferryTrap := false
    keeper := true
    ie := false
    pc := entry.zeroExtend 17
    branch := none
    delayDue := 0
    waits := []
    slwait := none
    granted := false
    hush := max (i + 2) (c.lastDue + 1)
    settling := true
    trapped := some (cause, addr) }

/-- The exception of a core (R235, R237, R240): a crew fault in a timed core, in keeper mode, or without a keeper entry; a precise
trap otherwise, at the bundle that does not issue because of it. `next` names TRAP and BREAK, which trap at the bundle that
follows theirs. -/
def State.raiseOf (s : State) (r : CoreRef) (cause : BitVec 8) (addr : Word) (next : Bool := false) : State :=
  let c := s.core r
  match c.keeperEntry with
  | none => s.coreFault r cause addr
  | some e =>
    if c.timed || c.keeper then s.coreFault r cause addr
    else
      let ui := r.unitIndex
      let at_ := c.issuing && !next
      (s.modCore r fun c => c.trapEntry (if c.issuing && next then 1 else 0) (if at_ then c.cur else c.pc)
        (if at_ then c.curBranch else c.branch) cause addr e).mcheck addr (s.asidOf r) (s.crewOf r) ui.1 ui.2 0x01 cause

/-- The exception of the acting core. -/
def State.raise (s : State) (cause : BitVec 8) (addr : Word) : State := s.raiseOf s.actor cause addr

/-- A fault that an operation finds after its issue cycle, or an M or F operation at or after its entry: a crew fault in a timed core, a
trap at the first bundle issued after this cycle in a free one (R343, R371, R384). (log 39, DEDUCED) -/
def State.lateFault (s : State) (r : CoreRef) (cause : BitVec 8) (addr : Word) : State :=
  let c := s.core r
  if c.timed || c.keeper || c.keeperEntry.isNone then s.coreFault r cause addr
  else s.modCore r fun c => { c with traps := c.traps ++ [(cause, addr, true)] }

/-- A fault of a V operation at its entry: precise in its issue cycle, else as R343. (log 39, DEDUCED) -/
def State.opFault (s : State) (cause : BitVec 8) (addr : Word) : State :=
  if s.me.issuing then s.raise cause addr else s.lateFault s.actor cause addr

/-- A result of an operation that entered earlier. -/
def State.writeAt (s : State) (r : CoreRef) (seq n : Nat) (w : Wr) : State :=
  s.modCore r fun c => { c with writes := insertWr ⟨n, seq, w⟩ c.writes }

/-- Return from a trap (R239). A DS of 3 acts as 0; a shadow discarded by the handler leaves no delay bundle. -/
def Core.eret (c : Core) : Core :=
  let ds := if c.trapCause.ds = 3 then 0 else c.trapCause.ds.toNat
  let br : Option Pending := match c.shadow with
    | some b => if ds = 0 then none else some { target := b.target, due := ds }
    | none => none
  { c with
    keeper := c.trapCause.pkeep
    ie := c.trapCause.pie
    pc := c.trapPC.zeroExtend 17
    branch := br
    delayDue := match br with | some b => b.due | none => 0 }

/-! ### Standing (R189) -/

/-- The whole core stands `n` cycles and then does what it was doing again. (log 38, DEDUCED) -/
def Core.standFor (c : Core) (n : Nat) : Core := { c with stand := max c.stand n, mid := true }

/-- The operation that enters stands the core: it is due again when the stand ends. A word whose bundle is issuing is issued again
with it. (log 38, DEDUCED) -/
def State.standOp (s : State) (n : Nat) (i : Instr) : State :=
  s.modMe fun c =>
    let c := c.standFor n
    if c.issuing then c else { c with ops := ⟨0, s.seq, s.wordAt, i, s.fired, s.partner⟩ :: c.ops }

/-- The same for a bank that a drain still writes, cycle by cycle; the drain goes on meanwhile (R212). (log 38, DEDUCED) -/
def State.standDrain (s : State) (i : Instr) : State := (s.standOp 1 i).modMe fun c => { c with byDrain := true }

/-- A word after whose entry no bundle issues until the wait ends. -/
def State.await (s : State) (w : Wait) : State := s.modMe fun c => { c with waits := c.waits ++ [(w, true)] }

/-- A word that makes a remote request when it enters. -/
def asksAway : Instr → Bool
  | .rld _ _ _ _ _ | .rst _ _ _ _ | .ramo _ _ _ _ _ _ _ _ | .berthG _ _ | .bviewG _ _ | .btakeG _ | .btakeViewG _ | .tkt _ _ | .tserve _ _ | .tadv _ => true
  | _ => false
/-- An answer is due to a remote request that the core issued before a place in the order of issue, entered or not (R311, R412). -/
def Core.owed (c : Core) (seq : Nat) : Bool := c.reqs.any (·.seq < seq) || c.ops.any fun o => o.seq < seq && asksAway o.instr
/-- A wait in an RFENCE whose earlier requests are all answered (R412). -/
def Core.fenced (c : Core) : Wait → Bool
  | .rfence q => !c.owed q
  | _ => false
/-- An answer is due to any request the core has issued. -/
def Core.owedAny (c : Core) : Bool := !c.reqs.isEmpty || c.ops.any fun o => asksAway o.instr

/-- End the waits that meet a test. -/
def Core.endWaits (c : Core) (p : Wait → Bool) : Core := { c with waits := c.waits.filter fun w => !(p w.1) }

/-- Branch to a word address after the two delay bundles (R308). -/
def Core.branchTo (c : Core) (tgt : BitVec 16) : Core := { c with branch := some ⟨tgt, 2⟩, delayDue := 2 }
/-- A transfer word that does not branch still has two delay bundles (R305). -/
def Core.noBranch (c : Core) : Core := { c with delayDue := 2 }

/-! ### Answering -/

/-- A meaning's answer. -/
abbrev Result := Host.Outcome State Fault Refusal

/-- An effect that always answers a next state. -/
def done (s : State) : Result := .next s

/-- An event's effect, when the units it names exist (log 6, DESIGN CHOICE). -/
def onUnit (ok : Bool) (s : State) : Result := if ok then .next s else .fault .noSuchUnit

end Sys2Proof.Machine
end

