-- ==== Sys2Proof/Machine/Complete.lean ====
section
/-! DEFINITION. Completions, administrative events and their rings (spec 04 R77 to R85, R89, R95). -/

namespace Sys2Proof.Machine

/-! STATUS codes (R85). -/
namespace Status
def ok : BitVec 8 := 0x00
def malformed : BitVec 8 := 0x01
def privilege : BitVec 8 := 0x02
def badQueue : BitVec 8 := 0x03
def hostDma : BitVec 8 := 0x04
def range : BitVec 8 := 0x05
def translation : BitVec 8 := 0x06
def grade : BitVec 8 := 0x07
def image : BitVec 8 := 0x08
def noResource : BitVec 8 := 0x09
def busy : BitVec 8 := 0x0A
def noCrew : BitVec 8 := 0x0B
def voteHalt : BitVec 8 := 0x0C
def aborted : BitVec 8 := 0x0D
def auth : BitVec 8 := 0x0E
def flight : BitVec 8 := 0x0F
def berth : BitVec 8 := 0x10
def poisoned : BitVec 8 := 0x11
end Status

/-! Event STATUS codes (R89). -/
namespace Event
def ready : BitVec 8 := 0x00
def regradeStart : BitVec 8 := 0x01
def regradeDone : BitVec 8 := 0x02
def thermalWarn : BitVec 8 := 0x03
def crewEnded : BitVec 8 := 0x04
def towlineDown : BitVec 8 := 0x05
def duplex : BitVec 8 := 0x06
def halt : BitVec 8 := 0x07
def triplex : BitVec 8 := 0x08
end Event

/-! ### Queues -/

def State.queue? (s : State) (q : Nat) : Option Queue := s.lh.queues.find? (·.qid == q)
def State.setQueue (s : State) (q : Queue) : State :=
  { s with lh := { s.lh with queues := s.lh.queues.map fun x => if x.qid = q.qid then q else x } }

/-- Ring of a queue: base address and size exponent; none while an administrative ring's SIZE is invalid (R78). -/
def State.ringOf (s : State) (q : Queue) : Option (Nat × Nat) :=
  if q.qid < 4 then
    let cfg := s.lh.admCfg[Fin.ofNat 4 q.qid]
    let size := (cfg.extractLsb' 16 4).toNat
    if 7 ≤ size && size ≤ 12 then some ((s.lh.admBase[Fin.ofNat 4 q.qid] &&& ~~~0xFFF).toNat, size) else none
  else some (q.ring.toNat, q.size)

/-- MSI-X vector of a queue (R77, R78). -/
def State.vecOf (s : State) (q : Queue) : BitVec 11 :=
  if q.qid < 4 then (s.lh.admCfg[Fin.ofNat 4 q.qid]).extractLsb' 0 11 else q.vec

/-- Word 0 of a completion (R84). -/
def completionWord (c : Completion) (phase : Bool) : Word :=
  (0 : BitVec 16) ++ (if c.event then (1 : BitVec 8) else 0) ++ c.status ++ (if phase then (1 : BitVec 1) else 0)
    ++ BitVec.ofNat 15 c.qid ++ c.cid

/-- The ring of the queue has room for completion number `written` (R82). -/
def Queue.room (q : Queue) (size : Nat) : Bool := (BitVec.ofNat 32 q.written - q.cqhead).toNat < 2 ^ size

/-- Write one completion into its slot: words 1 to 3, then word 0 with PHASE (R84). -/
def State.writeEntry (s : State) (q : Queue) (base size : Nat) (c : Completion) : State :=
  let a := base + 32 * (q.written % 2 ^ size)
  let phase := q.written / 2 ^ size % 2 == 0
  let put (m : List Host.Cell) (o : Nat) (w : Word) : List Host.Cell := writeCells m (keyed (Config.hostKey (a + o)) (leBytes 8 w.toNat))
  let m := put (put (put (put s.mem 8 c.result) 16 c.logaddr) 24 c.time) 0 (completionWord c phase)
  let q := { q with written := q.written + 1, inflight := if c.event then q.inflight else q.inflight - 1 }
  (({ s with mem := m }).setQueue q).emit (.msix q.port (s.vecOf q))

/-- The oldest completion or event that waits for the queue's ring, with the state without it. An event, which no command caused, bears the number of
the queue it goes to (R84, log 53, DESIGN CHOICE). -/
def State.nextWaiting (s : State) (q : Queue) : Option (Completion × State) :=
  let evs := if q.qid = s.lh.evPort.toNat then s.lh.events else []
  let popEvent (e : Completion) : Completion × State := ({ e with qid := q.qid }, { s with lh := { s.lh with events := s.lh.events.drop 1 } })
  let popOwn (c : Completion) (r : List Completion) : Completion × State := (c, s.setQueue { q with waiting := r })
  match q.waiting, evs with
  | [], [] => none
  | c :: r, [] => some (popOwn c r)
  | [], e :: _ => some (popEvent e)
  | c :: r, e :: _ => some (if e.time.toNat < c.time.toNat then popEvent e else popOwn c r)

/-- Write the oldest waiting completion or event, if its ring has room (R82). -/
def State.flushOne (s : State) (qid : Nat) : State :=
  match s.queue? qid with
  | none => s
  | some q =>
    match s.ringOf q with
    | none => s
    | some (base, size) =>
      if q.room size then
        match s.nextWaiting q with
        | none => s
        | some (c, s) =>
          match s.queue? qid with
          | none => s
          | some q => s.writeEntry q base size c
      else s

/-- Write a queue's waiting entries, at most n, while there is room. -/
def State.flush (s : State) (qid : Nat) : Nat → State
  | 0 => s
  | n + 1 => (s.flushOne qid).flush qid n

/-- Something waits for the queue's ring and there is room. -/
def State.canFlush (s : State) (qid : Nat) : Bool :=
  match s.queue? qid with
  | none => false
  | some q => match s.ringOf q with
    | none => false
    | some (_, size) => q.room size && (s.nextWaiting q).isSome

/-! ### Completions (R84, R85) -/

/-- A command completes: its entry joins those of its queue and is written when it is first and there is room; every status but OK
is logged. A queue deleted meanwhile receives nothing. -/
def State.complete (s : State) (c : HostCmd) (status : BitVec 8) (result log : Word) : State :=
  match s.queue? c.qid with
  | none => s
  | some q =>
    let e : Completion := { event := false, status := status, qid := c.qid, cid := c.cid, result := result,
                            logaddr := if status = Status.ok then 0 else log, time := s.time }
    let s := s.setQueue { q with waiting := q.waiting ++ [e] }
    let s := s.flush c.qid 1
    if status = Status.ok then s else s.mcheck log q.asid 0 5 q.port 0x03 status (some (c.qid, c.cid, c.opc))

def State.completeOk (s : State) (c : HostCmd) (result : Word) : State := s.complete c Status.ok result 0

/-- A command under way that completes later, and its completion (R81, R87). -/
def State.keepOpen (s : State) (c : HostCmd) : State := { s with lh := { s.lh with open_ := s.lh.open_ ++ [c] } }
def State.finish (s : State) (qid : Nat) (cid : BitVec 16) (status : BitVec 8) (result log : Word) : State :=
  match s.lh.open_.find? fun c => c.qid == qid && c.cid == cid with
  | none => s
  | some c => ({ s with lh := { s.lh with open_ := s.lh.open_.erase c } }).complete c status result log

/-- A command under way that names a crew by its number. -/
def namesOpen (opc : BitVec 8) (crew : BitVec 16) (c : HostCmd) : Bool := c.opc == opc && c.w1.extractLsb' 0 16 == crew

/-- Commands under way that name a crew: KILL completes OK when the crew is gone, then DRAW completes ABORTED (R88, R125). -/
def State.finishCrew (s : State) (crew : BitVec 16) : State :=
  let s := (s.lh.open_.filter (namesOpen 0x0B crew)).foldl (fun s c => s.finish c.qid c.cid Status.ok 0 0) s
  (s.lh.open_.filter (namesOpen 0x0C crew)).foldl (fun s c => s.finish c.qid c.cid Status.aborted 0 (crew.zeroExtend 64)) s

/-! ### Administrative events (R89) -/

/-- An event is posted, merged or makes room. -/
def State.postEvent (s : State) (status : BitVec 8) (result log : Word) : State :=
  let e : Completion := { event := true, status := status, qid := 0, cid := 0xFFFF, result := result &&& 0x0000FFFFFFFFFFFF,
                          logaddr := log, time := s.time }
  let evs := s.lh.events
  let s :=
    if evs.length < 256 then { s with lh := { s.lh with events := evs ++ [e] } }
    else match (List.range 256).reverse.find? fun i => (evs.getD i e).status == status && (evs[i]?).isSome with
      | some i =>
        let bump (x : Completion) : Completion :=
          let n := x.result.extractLsb' 48 16
          { x with result := (if n = 0xFFFF then n else n + 1) ++ x.result.extractLsb' 0 48 }
        { s with lh := { s.lh with events := evs.modify i bump } }
      | none =>
        { s with lh := { s.lh with events := evs.drop 1 ++ [e], evlost := if s.lh.evlost = 0xFF then s.lh.evlost else s.lh.evlost + 1 } }
  s.flush s.lh.evPort.toNat 1

end Sys2Proof.Machine
end

