-- ==== Sys2Proof/Machine/Crew.lean ====
section
/-! DEFINITION. What the anchor sequencer and the dispatch hardware do for a crew: members, phases, marks, selections, draw-off
announcements and the crew's end (spec 05 R112, R116, R125; 10 R240, R242; 13 R314). -/

namespace Sys2Proof.Machine

/-- An event that happens next (log 2, DESIGN CHOICE). -/
def State.soon (s : State) (i : Instr) : State := { s with work := .ev i :: s.work }

/-! ### Members (R240) -/

/-- Every core of a slot's tiles and feeders. -/
def Slot.cores (x : Slot) : List CoreRef :=
  (x.tiles.flatMap fun t => [.tile t true, .tile t false]) ++ x.feeders.flatMap fun f => (List.range 4).map (.feeder f ·)

/-- Timed cores of a crew on this module; idle cores belong to no level (R113). -/
def State.timedMembers (s : State) (x : Slot) : List CoreRef :=
  x.cores.filter fun r => (s.core r).timed && (s.core r).run != .idle

/-- The number FAULTADDR names a member by: its logical tile id; none is stated for a feeder (log 13, DESIGN CHOICE). -/
def memberAddr (r : CoreRef) : Word :=
  match r with
  | .tile id _ => BitVec.ofNat 64 id
  | .feeder f _ => Config.feederMember f

/-- A reporter's number in the order of R240. -/
def Reporter.member : Reporter → Nat
  | .here r => r.member
  | .there _ m => m

/-- The member lowest in the order of R240. -/
def lowestMember : List Reporter → Option Reporter
  | [] => none
  | r :: rest => match lowestMember rest with
    | some q => some (if q.member < r.member then q else r)
    | none => some r

/-- The tile at L(0,0) of the crew, whose reach's sequencer is the anchor (R116, R157). -/
def State.anchorTile (s : State) (x : Slot) : Nat := s.idOf x.rec_.x0.toNat x.rec_.y0.toNat

/-- A crew fault found by the anchor reach sequencer. -/
def State.seqFault (s : State) (n : Nat) (cause : BitVec 8) (addr : Word) : State :=
  let t := s.anchorTile (s.slot n)
  s.unitFault (some n) 0 t t cause addr

/-- The control word in force at a tile's router: all zero outside any crew (R156). -/
def State.rowWord (s : State) (t : Nat) : BitVec 40 :=
  match (s.tile t).slot with
  | none => 0
  | some n =>
    let run := (s.slot n).run
    let rows := (s.tile t).phase[run.bank.toNat]'(by omega)
    rows.getD (run.row % rows.length) 0

/-! ### Wake events -/

/-- A wake event reaches a core in WAITI (R320): announcements wake it whatever MODE.IE is. -/
def State.wakeWaiti (s : State) (r : CoreRef) (always : Bool) : State :=
  let c := s.core r
  if c.waits.any (fun w => w.1 == .waiti) && (always || c.ie) then s.soon (.waitiWake r) else s

/-- A wake event for every core of a list. -/
def State.wakeAll (s : State) (rs : List CoreRef) (always : Bool) : State := rs.foldl (fun s r => s.wakeWaiti r always) s

/-! ### Draw-off (R125) -/

/-- The crew-level phase boundary that closes the current variant, where a selection has been made (R114). -/
def Slot.boundary (x : Slot) : Option (BitVec 48) :=
  x.run.sel.bind fun q => (x.variants.find? fun v => v.cls == q.cls && v.index == q.index).map fun v => x.run.switchAt + v.length.zeroExtend 48

/-- The draw-off count named at announcement count a: the crew-level phase boundary of the current variant when it is at or after
a + HORIZON and within 2^24 counts of a, else a + HORIZON. (log 43, DEDUCED) -/
def Slot.drawCount (x : Slot) (a : BitVec 48) : BitVec 48 :=
  let h := a + x.rec_.horizon.zeroExtend 48
  match x.boundary with
  | none => h
  | some b => if !passed b h && (b - a).toNat ≤ 2 ^ 24 then b else h

/-- A draw-off at count v reaches the members of this module: injection stops 40 counts before (R150); cores in WAITI wake (R320).
(log 43, DEDUCED) -/
def State.drawHere (s : State) (n : Nat) (v : BitVec 48) (why : DrawWhy) : State :=
  let x := s.slot n
  let s := s.modRun n fun r => { r with draw := some { v := v, why := why }, wish := none }
  let s := s.atCount n (v - 40) (.drawOffInjectStop x.rec_.crew)
  s.wakeAll x.cores true

/-- The anchor announces a draw-off at count v to every module of the crew. -/
def State.announceDraw (s : State) (n : Nat) (v : BitVec 48) (why : DrawWhy) : State :=
  let x := s.slot n
  (s.drawHere n v why).tellAll x (.draw x.rec_.crew v why (x.run.fault.map fun f => (f.cause, f.addr)))

/-- The draw-off announced for a pre-emption, a host DRAW, a re-grade or a mark, announcement travelling within the budget of R69
(log 5, DESIGN CHOICE); a lockhouse elsewhere asks the anchor for it. Nothing is announced while a stop is already under way. -/
def State.drawCrew (s : State) (n : Nat) (why : DrawWhy) : State :=
  let x := s.slot n
  if x.run.draw.isSome || x.run.stopped then s
  else if x.modIdx ≠ 0 then s.tellAnchor x (.askDraw x.rec_.crew why)
  else
    let (d, s) := s.freeBelow 33
    s.announceDraw n (x.drawCount (x.run.vcyc + BitVec.ofNat 48 d)) why

/-! ### Phases (R314) and marks (R242) -/

/-- The members of this module that report to the checker of a level. -/
def State.levelMembers (s : State) (x : Slot) (level : BitVec 2) (tile : Nat) : List CoreRef :=
  if level = 1 then [.tile tile true, .tile tile false] else s.timedMembers x

/-- Timed members of the crew's other modules, as those modules named them when they were ready. -/
def Slot.farMembers (x : Slot) : List Reporter := (x.readyFrom.filter (·.1 != 0)).flatMap fun m => m.2.map (.there m.1 ·)

/-- Everyone who reports at a level: at level 3 the crew's other modules' members too (R107). -/
def State.reporters (s : State) (x : Slot) (level : BitVec 2) (tile : Nat) : List Reporter :=
  (s.levelMembers x level tile).map .here ++ if level = 3 then x.farMembers else []

/-- Every member of a level has reported. -/
def State.levelSeen (s : State) (x : Slot) (level : BitVec 2) (tile : Nat) (seen : List Reporter) : Bool :=
  (s.reporters x level tile).all seen.contains

/-- The tile a reporter lies in, and the number FAULTADDR names it by. -/
def Reporter.tile : Reporter → Nat
  | .here r => r.tileId.getD 0
  | .there _ _ => 0
def Reporter.addr : Reporter → Word
  | .here r => memberAddr r
  | .there _ m => if m < 65536 then BitVec.ofNat 64 m else Config.feederMember (m - 65536)

/-- A timed core's report of a phase (level ≥ 1): the first report of a phase is its reference; a different count is PHASE_SKEW. (log 35, DEDUCED) -/
def State.phaseReport (s : State) (n : Nat) (r : Reporter) (level : BitVec 2) (e : BitVec 48) : State :=
  let x := s.slot n
  let tile := if level = 1 then r.tile else 0
  let mine (p : PhaseRef) : Bool := p.level == level && p.tile == tile && !p.seen.contains r
  match x.run.phases.findIdx? mine with
  | none =>
    let s := s.modRun n fun u => { u with phases := u.phases ++ [{ level := level, tile := tile, count := e, seen := [r] }] }
    s.atCount n (e + x.rec_.horizon.zeroExtend 48 + 1) (.phaseCheckTimeout x.rec_.crew level e)
  | some i =>
    match x.run.phases[i]? with
    | none => s
    | some p =>
      let p' := { p with seen := p.seen ++ [r] }
      let s := s.modRun n fun u => { u with phases := u.phases.set i p' }
      if p.count ≠ e then s.seqFault n Cause.phaseSkew r.addr
      else if s.levelSeen x level tile p'.seen then s.modRun n fun u => { u with phases := u.phases.eraseIdx i }
      else s

/-- A feeder's log asks the anchor for a mark at the next crew-level phase boundary (R243). -/
def State.wishMark (s : State) (n : Nat) : State :=
  let x := s.slot n
  if x.modIdx = 0 then s.modRun n fun r => { r with markWish := true } else s.tellAnchor x (.askDraw x.rec_.crew .mark)

/-- The boundary at which a wished mark is taken has come; with no variant in force every count counts as one. (log 43, DEDUCED) -/
def Slot.markDue (x : Slot) : Bool :=
  x.run.markWish && x.run.draw.isNone && (match x.boundary with | some b => b == x.run.vcyc || passed b x.run.vcyc | none => true)

/-- MARKP of a timed member at count e, as the anchor takes it: every timed member at the same count requests a mark; different counts are
PHASE_SKEW (R242). -/
def State.markReport (s : State) (n : Nat) (r : Reporter) (e : BitVec 48) : State :=
  let x := s.slot n
  match x.run.marks.findIdx? fun m => !m.2.contains r with
  | none =>
    if s.levelSeen x 3 0 [r] then s.drawCrew n .mark
    else s.modRun n fun u => { u with marks := u.marks ++ [(e, [r])] }
  | some i =>
    match x.run.marks[i]? with
    | none => s
    | some m =>
      let seen := m.2 ++ [r]
      let s := s.modRun n fun u => { u with marks := u.marks.set i (m.1, seen) }
      if m.1 ≠ e then s.seqFault n Cause.phaseSkew r.addr
      else if s.levelSeen x 3 0 seen then
        (s.modRun n fun u => { u with marks := u.marks.eraseIdx i }).drawCrew n .mark
      else s

/-! ### Selection (R116) -/

/-- A size word at the anchor: it joins those of its group, and the decision falls at e + Dmax + 8. -/
def State.sizeWord (s : State) (n : Nat) (cls grp : BitVec 3) (w : BitVec 16) (e : BitVec 48) : State :=
  let x := s.slot n
  let first := !(x.run.sizes.any (·.1 == e))
  let s := s.modRun n fun u => { u with sizes := u.sizes ++ [(e, grp, w)] }
  if first then s.atCount n (e + BitVec.ofNat 48 (x.dmax + 8)) (.selectionDecide x.rec_.crew cls e) else s

/-- SIZE at count e: the word goes to the anchor. A count that is not a selection point for the class, or a class without variants, is
SELECT. -/
def State.contribute (s : State) (n : Nat) (r : CoreRef) (cls : BitVec 3) (w : BitVec 16) (e : BitVec 48) : State :=
  let x := s.slot n
  let grp := (s.core r).domain.extractLsb' 5 3
  let row := s.rowWord (s.anchorTile x)
  if !(row.getLsbD 0 && row.extractLsb' 1 3 == cls && x.variants.any (·.cls == cls)) then
    s.coreFault r Cause.select (cls.zeroExtend 64)
  else if x.modIdx ≠ 0 then s.tellAnchor x (.size x.rec_.crew e cls grp w)
  else s.sizeWord n cls grp w e

/-! ### The end of a crew (R112, R225) -/

/-- A slot that keeps its place from others. -/
def Slot.holdsPlace (x : Slot) : Bool :=
  x.rec_.state == .starting || x.rec_.state == .running || x.rec_.state == .drawing || x.rec_.state == .rewinding || x.rec_.state == .killing

/-- The taker word of R406 names a member of the crew: a tile or feeder core of this module. -/
def State.isMemberTaker (s : State) (x : Slot) (modl : BitVec 13) (kind : BitVec 3) (num : BitVec 16) : Bool :=
  modl == s.modNum && (((kind == 0 || kind == 1) && x.tiles.contains num.toNat) || (kind == 5 && x.feeders.contains num.toNat))

def State.isMemberHolder (s : State) (x : Slot) (h : Holder) : Bool := s.isMemberTaker x h.modl h.kind h.num && h.asid == x.rec_.asid

/-- Every page berth the crew held or had in passage comes to rest with its home feeder. -/
def State.restPages (s : State) (x : Slot) (f : Feeder) : Feeder :=
  { f with berths := f.berths.filter fun b =>
      !((b.holder.any (s.isMemberHolder x)) || (b.passage.any fun p => p.giver.any (s.isMemberHolder x))) }

/-- Every window of another tile that a member held remotely comes to rest. -/
def State.restWindows (s : State) (x : Slot) (t : Tile) : Tile :=
  (List.range 16).foldl (fun t i =>
    let w := Fin.ofNat 16 i
    let b := t.berths[w]
    if b.remote.any (s.isMemberHolder x) || (b.passage.any fun p => p.giver.any (s.isMemberHolder x)) then
      { t with berths := t.berths.set w { b with remote := none, passage := none }
               windesc := t.windesc.set w (t.windesc[w] &&& ~~~((31 : BitVec 128) <<< 59)) }
    else t) t

/-- A core that no crew runs: answers to its requests are discarded, and no wait of its own goes on (R113, R229). (log 45, DEDUCED) -/
def idleCore (c : Core) : Core :=
  { c with run := .idle, domain := 0, waits := [], slwait := none, stand := 0, reqs := [], traps := [], visit := none,
           guest := none, ferryTrap := false }

/-- A tile released by its crew: no owner, its cores idle, its window berths at rest. What its engines still have under way goes on. (log 45, DEDUCED) -/
def releaseTile (t : Tile) : Tile :=
  { t with stager := idleCore t.stager, worker := idleCore t.worker, crew := 0, asid := 0, slot := none
           berths := Vector.replicate 16 {}, windesc := t.windesc.map fun d => d &&& ~~~((31 : BitVec 128) <<< 59) }

def releaseFeeder (f : Feeder) : Feeder :=
  { f with cores := f.cores.map idleCore
           crew := 0, asid := 0, slot := none, queue := [] }

/-- Pins of a slot are taken off its pages (R110). -/
def unpin (ps : List PageMap) (asid : BitVec 16) (pins : List (Nat × Nat)) : List PageMap :=
  ps.map fun p =>
    let n := (pins.filter fun q => p.asid == asid && q.1 ≤ p.page && p.page < q.1 + q.2).length
    { p with pins := p.pins - n }

/-- Entries of pages that nothing pins any longer are locked no more (R110). -/
def unlockFree (ps : List PageMap) (xs : List IfaceState) : List IfaceState :=
  let held (e : TlbEntry) : Bool := ps.any fun p => p.asid == e.asid && p.page == e.page && p.pins != 0
  xs.map fun x => { x with l1 := x.l1.map fun e => { e with locked := e.locked && held e } }

/-- An event that names a crew by its number, which a later crew may take again. -/
def namesCrew (crew : BitVec 16) : Instr → Bool
  | .vcycBroadcast c | .dispatchReady c | .crewStart c | .holdStart c | .holdEnd c | .driftPause c | .selectionSwitch c | .crewFaultStop c
  | .rewind c | .drawOff c | .drawOffInjectStop c | .drawOffComplete c | .markComplete c => c == crew
  | .holdAnnounce c _ _ _ | .holdRelease c _ _ | .selectionDecide c _ _ | .phaseCheckTimeout c _ _ | .crewFaultReport c _ _ _
  | .allowChange c _ _ | .bindResponse c _ _ _ _ => c == crew
  | _ => false

/-- A local number that this module's firmware gave out is free again (R105). -/
def State.freeNumber (s : State) (crew : BitVec 16) : List (BitVec 11) :=
  if crew.extractLsb' 11 5 = s.flight then s.lh.localNums.filter (· != crew.extractLsb' 0 11) else s.lh.localNums

/-- The slot becomes FREE and gives up what it holds; CREW_ENDED is posted with the cause. -/
def State.endCrew (s : State) (n : Nat) (cause : BitVec 8) (addr : Word) : State :=
  let x := s.slot n
  let keep (d : Due) : Bool := match d.at_ with | .count m _ => m != n | .time _ => !namesCrew x.rec_.crew d.ev
  let s := { s with tiles := mapVals (fun i t => if x.tiles.contains i then releaseTile t else s.restWindows x t) s.tiles
                    feeders := mapVals (fun i f =>
                      let g := s.restPages x f
                      if x.feeders.contains i then releaseFeeder g else g) s.feeders
                    towlines := mapVals (fun _ t => if t.owner = some n then { t with owner := none } else t) s.towlines
                    agenda := s.agenda.filter keep
                    lh := { s.lh with slots := remove s.lh.slots n, freed := true
                                      limitHeld := s.lh.limitHeld.filter (·.1 ≠ n), haltHeld := s.lh.haltHeld.filter (·.1 ≠ n)
                                      pages := unpin s.lh.pages x.rec_.asid x.pins
                                      ifaces := unlockFree (unpin s.lh.pages x.rec_.asid x.pins) s.lh.ifaces
                                      localNums := s.freeNumber x.rec_.crew } }
  let s := if x.modIdx = 0 then s.tellAll x (.ended x.rec_.crew cause addr) else s
  let s := (s.finishCrew x.rec_.crew).postEvent Event.crewEnded (Config.crewEndedWord x.rec_.crew cause) addr
  s.soon .schedulerPass

/-- Every core of the crew on this module has executed HALT; idle cores count as halted (R112, R113). -/
def State.allHalted (s : State) (x : Slot) : Bool :=
  (x.rec_.state == .running || x.rec_.state == .drawing || x.rec_.state == .killing)
    && x.cores.all fun r => let c := s.core r; c.run == .halted || c.run == .idle

/-- Every module of the crew has told its anchor that its cores have halted. -/
def Slot.othersHalted (x : Slot) : Bool := (List.range x.modules).all fun m => m == 0 || x.halted.contains m

/-- The crew ends once every core on all of its modules has executed HALT; a module elsewhere tells the anchor of its own (R112). A halted lockhouse
frees no slot (R93). -/
def State.checkEnd (s : State) (n : Nat) : State :=
  let x := s.slot n
  if !s.allHalted x || s.halted then s
  else if x.modIdx ≠ 0 then s.tellAnchor x (.halted x.rec_.crew x.modIdx)
  else if x.othersHalted then s.endCrew n 0 0 else s

end Sys2Proof.Machine
end

