-- ==== Sys2Proof/Machine/Operands.lean ====
section
/-! DEFINITION. Operand forms over tile store and core store: effective addresses (spec 12 R290), windows and the checks of an
explicit access (08 R194 to R199), layouts (13 R328), reads and stores (09 R223, R224), the fetch path (12 R296). -/

namespace Sys2Proof.Machine

/-! ### Window descriptors (R194) -/

abbrev WinDesc := BitVec 128
def WinDesc.valid (d : WinDesc) : Bool := d.getLsbD 37
def WinDesc.base (d : WinDesc) : Nat := (d.extractLsb' 15 11).toNat * 256
def WinDesc.size (d : WinDesc) : Nat := ((d.extractLsb' 26 11).toNat + 1) * 256
def WinDesc.ur (d : WinDesc) : Bool := d.getLsbD 38
def WinDesc.uw (d : WinDesc) : Bool := d.getLsbD 39
def WinDesc.rowel (d : WinDesc) : Nat := let n := (d.extractLsb' 40 12).toNat; if n = 0 then 4096 else n
def WinDesc.blk (d : WinDesc) : BitVec 2 := d.extractLsb' 52 2
def WinDesc.fmt (d : WinDesc) : BitVec 4 := d.extractLsb' 54 4
def WinDesc.repl (d : WinDesc) : Bool := d.getLsbD 58
def WinDesc.holder (d : WinDesc) : BitVec 5 := d.extractLsb' 59 5
def WinDesc.srkw (d : WinDesc) : BitVec 32 := d.extractLsb' 64 32
def WinDesc.wcount (d : WinDesc) : BitVec 32 := d.extractLsb' 96 32
/-- The descriptor with another HOLDER. -/
def WinDesc.setHolder (d : WinDesc) (h : BitVec 5) : WinDesc := d.extractLsb' 64 64 ++ h ++ d.extractLsb' 0 59
/-- The descriptor with WCOUNT one higher (R194). -/
def WinDesc.bumpCount (d : WinDesc) : WinDesc := (d.extractLsb' 96 32 + 1) ++ d.extractLsb' 0 96
/-- A byte address lies in the window. -/
def WinDesc.has (d : WinDesc) (a : Nat) : Bool := d.valid && d.base ≤ a && a < d.base + d.size

/-- HOLDER codes (R194). -/
def holderOf (r : CoreRef) : BitVec 5 := if r.isWorker then 2 else 1

/-- Element size of a window format in half bytes (R196, R328): LUT4 1, INT8, UINT8, DM8 2, 16-bit 4, 32-bit and raw 8, INT64 16. -/
def fmtHalves (f : BitVec 4) : Nat :=
  match f.toNat with
  | 0 => 8 | 1 => 4 | 2 => 4 | 3 => 8 | 4 => 2 | 5 => 2 | 6 => 2 | 7 => 1 | 8 => 4 | 9 => 8 | 10 => 16 | _ => 8

/-- The descriptors a core's local accesses use (R194, R383). -/
def State.windows (s : State) (r : CoreRef) : Vector WinDesc 16 :=
  match r with
  | .tile id _ => (s.tile id).windesc
  | .feeder f c => (s.feeder f).windesc[feederCore c]

def State.setWindow (s : State) (r : CoreRef) (w : BitVec 4) (d : WinDesc) : State :=
  match r with
  | .tile id _ => s.modTile id fun t => { t with windesc := t.windesc.set w.toNat d (by omega) }
  | .feeder f c => s.modFeeder f fun x =>
      { x with windesc := x.windesc.set (feederCore c) ((x.windesc[feederCore c]).set w.toNat d (by omega)) }

def State.window (s : State) (r : CoreRef) (w : BitVec 4) : WinDesc := (s.windows r)[w.toNat]'(by omega)

/-- The window that holds a byte address, lowest number first (windows do not overlap, R195). -/
def State.windowAt (s : State) (r : CoreRef) (a : Nat) : Option (BitVec 4 × WinDesc) :=
  ((List.range 16).map (BitVec.ofNat 4)).findSome? fun w => let d := s.window r w; if d.has a then some (w, d) else none

/-! ### Addresses and layouts -/

/-- g[BASE] + g[IDX] + sext(OFF), exact (R290). -/
def State.ea (s : State) (base idx : Reg) (off : BitVec 19) : Int :=
  (s.g base).toNat + (s.g idx).toNat + off.toInt

/-- FAULTADDR of an address: modulo 2^64 (R290). -/
def addrWord (a : Int) : Word := BitVec.ofInt 64 a

/-- Byte addresses of an access of n bytes at a: contiguous up to 64, then lines 256 B apart (R328). -/
def layout (a n : Nat) : List Nat :=
  (List.range n).map fun j => if n ≤ 64 then a + j else a + 256 * (j / 64) + j % 64

/-- Key of a byte of the store a core's local accesses reach (log 3, DESIGN CHOICE). -/
def localKey (r : CoreRef) (a : Nat) : Nat :=
  match r with
  | .tile id _ => Config.tileKey id a
  | .feeder f c => Config.coreStoreKey f c a

/-! ### The checks of R197 to R199 -/

/-- The fate of an access: performed, a fault, or a stand of the core. -/
inductive Access where
  | ok
  | fault (cause : BitVec 8) (addr : Word)
  | stand (n : Nat)
  /-- a stand until a drain has written its bank (R212) -/
  | drain
  deriving DecidableEq, Repr

/-- What an access asks for. -/
structure Want where
  store : Bool := false
  /-- the BERTH step applies (R197 step 3; not for AMO, R231) -/
  berth : Bool := true
  /-- the access writes though it is an atomic: UW is needed, REPL is not refused (R231) -/
  atomic : Bool := false
  /-- alignment asked for; 0: none (R400) -/
  align : Nat := 1
  deriving DecidableEq, Repr

/-- Cycles until every bank is the agent's (R198); the banks of one legal access are congruent modulo 4. -/
def wheelWait (agent phase : Nat) (banks : List Nat) : Nat :=
  match (List.range 4).find? fun n => banks.all fun b => bankAgent (phase + n) b == agent with
  | some n => n
  | none => 1

/-- Banks that hold output bytes of a drain in its cycles E + 1 to E + 29 (R212). -/
def Tile.drainBanks (t : Tile) : List Nat :=
  (t.drains.filter fun d => 1 ≤ d.age && d.age ≤ 29).flatMap fun d => d.span.map bankOf

/-- WHEEL of an explicit access (R199): a fault in a timed core, 1 to 3 cycles of standing in a free core, or a stand for a drain (R212); feeder
cores have no wheel (R383). -/
def State.wheel (s : State) (r : CoreRef) (a : Int) (addrs : List Nat) : Access :=
  match r with
  | .feeder _ _ => .ok
  | .tile id w =>
    let banks := (addrs.map bankOf).eraseDups
    let n := wheelWait r.agent (s.wheelPhase id) banks
    let drain : Bool := w && banks.any ((s.tile id).drainBanks.contains ·)
    if n = 0 && !drain then .ok
    else if (s.core r).timed then .fault Cause.wheel (addrWord a)
    else if n = 0 then .drain
    else .stand n

/-- The checks of R197 in order: WINDOW, ALIGN, BERTH, WHEEL. `addrs` are the bytes touched, `a` the address for FAULTADDR. -/
def State.check (s : State) (r : CoreRef) (want : Want) (a : Int) (addrs : List Nat) : Access :=
  let c := s.core r
  let bad := Access.fault Cause.window (addrWord a)
  if a < 0 || addrs.any (fun x => Config.storeSize ≤ x) then bad
  else match s.windowAt r a.toNat with
    | none => bad
    | some (_, d) =>
      if !(addrs.all d.has) then bad
      else if !c.keeper && ((!want.store || want.atomic) && !d.ur || want.store && !d.uw) then bad
      else if want.store && !want.atomic && d.repl then bad
      else if want.align ≠ 0 && a.toNat % (min want.align 64) ≠ 0 then .fault Cause.align (addrWord a)
      else if want.store && want.berth && !r.isFeeder && d.holder ≠ holderOf r then .fault Cause.berth (addrWord a)
      else s.wheel r a addrs

/-! ### Reads and stores -/

/-- The stores of the core's memory not yet visible, in order. -/
def State.pendingStores (s : State) (r : CoreRef) : List PStore :=
  match r with
  | .tile id _ => (s.tile id).stores
  | .feeder f c => ((s.feeder f).stores.filter fun x => x.1 == c).map (·.2)

/-- A byte over which stores lie, the last one on top. -/
def overlay (l : List PStore) (a : Nat) (b : Byte) : Byte := l.foldl (fun b p => (p.bytes.find? (·.1 == a)).elim b (·.2)) b

/-- A store of the other core of a tile that a standing owner holds back, and that is two cycles old. -/
def PStore.farSeen (p : PStore) (r : CoreRef) : Bool :=
  p.far == 0 && (match r, p.owner with
    | .tile _ w, some o => o != w
    | _, _ => false)

/-- A byte as loads that enter now see it (R223). -/
def State.seen (s : State) (r : CoreRef) (a : Nat) : Byte :=
  overlay ((s.pendingStores r).filter (·.farSeen r)) a (readCell s.mem (localKey r a))

/-- Bytes as loads that enter now see them (R223). -/
def State.readLocal (s : State) (r : CoreRef) (addrs : List Nat) : List Byte := addrs.map (s.seen r)

/-- A byte as the last store left it, visible or not: what an atomic reads (R231). -/
def State.latest (s : State) (r : CoreRef) (a : Nat) : Byte :=
  overlay (s.pendingStores r) a (readCell s.mem (localKey r a))

/-- The first poisoned granule of 8 bytes among the addresses (R252). -/
def State.poisonedAt (s : State) (r : CoreRef) (addrs : List Nat) : Option Nat :=
  addrs.find? fun a => s.poison.contains (localKey r (a / 8 * 8))

/-- Bytes stored now and visible to loads after `due` cycles of their core; noted for the fetch path with the old bytes (R296). -/
def State.storeDue (s : State) (r : CoreRef) (due : Nat) (bytes : List (Nat × Byte)) : State :=
  let grans := (bytes.map fun b => b.1 / 8 * 8).eraseDups
  let notes := grans.map fun g => ({ age := 0, addr := g, old := (List.range 8).map fun i => s.latest r (g + i) } : CodeStore)
  match r with
  | .tile id w => s.modTile id fun t =>
      { t with stores := t.stores ++ [{ due := due, owner := some w, bytes := bytes, far := due }], codeStores := t.codeStores ++ notes }
  | .feeder f c => s.modFeeder f fun x =>
      { x with stores := x.stores ++ [(c, { due := due, owner := some false, bytes := bytes, far := due })], codeStores := x.codeStores ++ notes.map (c, ·) }

/-- A local store that enters now: visible at E + 2 (R223). -/
def State.store (s : State) (r : CoreRef) (bytes : List (Nat × Byte)) : State := s.storeDue r 2 bytes

/-- Bit w of DIRTYMASK for a store into window w (R205). -/
def State.markDirty (s : State) (r : CoreRef) (a : Nat) : State :=
  match s.windowAt r a with
  | none => s
  | some (w, _) =>
    match r with
    | .tile id _ => s.modTile id fun t => { t with dirtymask := t.dirtymask ||| (1 <<< w.toNat) }
    | .feeder f c => s.modFeeder f fun x =>
        { x with dirtymask := x.dirtymask.set (feederCore c) (x.dirtymask[feederCore c] ||| (1 <<< w.toNat)) }

/-- Bytes become visible in memory; a granule written whole loses its poison mark (R252). -/
def State.commitBytes (s : State) (key : Nat → Nat) (bytes : List (Nat × Byte)) : State :=
  let whole := (bytes.map fun b => b.1 / 8 * 8).eraseDups.filter fun g =>
    (List.range 8).all fun i => bytes.any (·.1 == g + i)
  { s with mem := writeCells s.mem (bytes.map fun b => (key b.1, b.2))
           poison := s.poison.filter fun k => !(whole.map key).contains k }

/-! ### The fetch path (R296, R362) -/

/-- Eight bytes as the fetch path may see them now: each granule stored within the last eight cycles whole, old or new (log 5, DESIGN CHOICE). -/
def State.fetchGranule (s : State) (r : CoreRef) (a : Nat) : List Byte × State :=
  let new := (List.range 8).map fun i => s.latest r (a + i)
  let notes : List CodeStore := match r with
    | .tile id _ => (s.tile id).codeStores
    | .feeder f c => ((s.feeder f).codeStores.filter (·.1 == c)).map (·.2)
  match (notes.filter fun n => n.addr == a && n.age < 8).map (·.old) with
  | [] => (new, s)
  | olds =>
    let (i, s) := s.freeBelow (olds.length + 1)
    ((new :: olds).getD i new, s)

/-- The granules that cover n bytes from a, through the fetch path. -/
def State.fetchGranules (s : State) (r : CoreRef) (a : Nat) : Nat → List Byte × State
  | 0 => ([], s)
  | n + 1 =>
    let (b, s) := s.fetchGranule r a
    let (bs, s) := s.fetchGranules r (a + 8) n
    (b ++ bs, s)

/-- n bytes from a through the fetch path. -/
def State.fetchBytes (s : State) (r : CoreRef) (a n : Nat) : List Byte × State :=
  let g := a / 8 * 8
  let (bs, s) := s.fetchGranules r g ((a + n - g + 7) / 8)
  ((bs.drop (a - g)).take n, s)

/-- Banks an access uses in this cycle (R203). -/
def State.useBanks (s : State) (r : CoreRef) (addrs : List Nat) : State :=
  s.modCore r fun c => { c with banks := c.banks ++ (addrs.map bankOf).eraseDups }

/-- Perform an access or take its fault or stand. -/
def State.withAccess (s : State) (i : Instr) (x : Access) (addrs : List Nat) (k : State → State) : State :=
  match x with
  | .ok => k (s.useBanks s.actor addrs)
  | .fault cause addr => s.raise cause addr
  | .stand n => s.standOp n i
  | .drain => s.standDrain i

/-- Perform a read: a poisoned granule raises ECC_CONSUMED (R147, R252). -/
def State.withRead (s : State) (i : Instr) (x : Access) (addrs : List Nat) (k : List Byte → State → State) : State :=
  s.withAccess i x addrs fun s =>
    match s.poisonedAt s.actor addrs with
    | some a => s.raise Cause.eccConsumed (BitVec.ofNat 64 (a / 8 * 8))
    | none => k (s.readLocal s.actor addrs) s

end Sys2Proof.Machine
end

