-- ==== Sys2Proof/Machine/Checks.lean ====
section
/-! DEFINITION. The checks a word passes at issue that depend on the state: ILLEGAL and PRIV of R287, with the rules that name them
(spec 08 R185, R190; 13 R304 to R334; 15 R371 to R377; 16 R394), and the column each word enters (12 R286, R291). -/

namespace Sys2Proof.Machine

/-- The column a word enters; NOP enters none (R283, R286, R291). -/
def column : Instr → Option Col
  | .nop => none
  | .bra _ | .bcc _ _ _ _ | .bpr _ _ _ | .jmp _ | .jmpLink _ _ | .call _ _ | .ret _ | .loop _ _ | .loops _ _ _ | .halt | .trap _
  | .breakTrap _ | .waitv _ _ | .phase _ | .size _ _ | .markp | .slpost _ _ | .slwait _ _ | .slset _ _ _ | .slget _ _ | .eret | .waiti
  | .sysrd _ _ | .syswr _ _ | .windescWrite _ _ | .tapcfgWrite _ _ | .arrmapWrite _ _ | .cvmodeWrite _ | .fflagsWrite _
  | .rfmtWrite _ _ | .ejdescWrite _ _ | .rtabWrite _ _ | .votelogClear _ | .ejflagsClear _ => some .c
  | .ld _ _ _ _ | .st _ _ _ | .vld _ _ _ _ | .vst _ _ _ _ | .vlds _ _ _ _ _ _ | .vgath _ _ _ _ _ _ | .vscat _ _ _ _ _ _
  | .pcfg _ _ _ _ | .pclose _ | .pstat _ _ | .pseek _ _ | .amo _ _ _ _ _ _ _ | .fence | .winqAddr _ _ | .winqNum _ _
  | .lutld _ _ _ => some .l
  | .mzero _ | .mmul _ _ _ _ _ | .mmulw _ _ _ _ _ _ | .marm _ | .mdisarm _ | .mrel _ | .mdrain _ _ | .mdrainV _ _ | .mdcfgSet _
  | .mdcfgClr | .msums _ _ | .mldz _ _ | .mstz _ _ => some .m
  | .finj _ _ _ | .fpref _ _ | .fupd _ _ _ _ _ _ | .fred _ _ _ _ _ | .fgrp _ _ => some .f
  | .mdcfgTok _ | .tsend _ _ | .tsendP _ | .tsendV _ _ | .tredV _ _ | .tredMem _ _ _ | .tej _ _ | .tdsend _ _ _ _ _ | .tdrecv _ _
  | .tdrecvNb _ _ | .trtab _ _ _ | .timeT _ | .timeV _ | .timeOff _ | .drift | .holdrq _ | .berthW _ _ | .berthG _ _ | .bviewW _ _
  | .bviewG _ _ | .btakeW _ | .btakeG _ | .btakeViewW _ | .btakeViewG _ | .tkt _ _ | .tserve _ _ | .tadv _ | .rld _ _ _ _ _
  | .rst _ _ _ _ | .ramo _ _ _ _ _ _ _ _ | .rfence => some .n
  | .vadd _ _ _ _ _ _ _ | .vsub _ _ _ _ _ _ _ | .vmul _ _ _ _ _ _ _ | .vfma _ _ _ _ _ _ _ _ | .vfms _ _ _ _ _ _ _ _
  | .vmin _ _ _ _ _ _ | .vmax _ _ _ _ _ _ | .vabs _ _ _ _ _ _ | .vneg _ _ _ _ _ _ | .vand _ _ _ _ _ | .vor _ _ _ _ _
  | .vxor _ _ _ _ _ | .vshl _ _ _ _ _ | .vshr _ _ _ _ _ | .vsha _ _ _ _ _ | .vcmp _ _ _ _ _ _ _ | .vsel _ _ _ _ _
  | .vcvt _ _ _ _ _ _ | .vrcp _ _ _ _ | .vrsq _ _ _ _ | .vsqrt _ _ _ _ | .vexp2 _ _ _ _ | .vlog2 _ _ _ _ | .vtanh _ _ _ _
  | .vsigm _ _ _ _ | .vredadd _ _ _ _ _ _ | .vredmax _ _ _ _ _ | .vredmin _ _ _ _ _ | .vscan _ _ _ _ _ _ _ | .vargmax _ _ _ _ _
  | .vperm _ _ _ _ _ | .vbcast _ _ _ _ _ | .vsplatG _ _ _ _ | .vsplatImm _ _ _ _ | .viota _ _ _ _ | .vmov _ _ _ _ | .vmovG _ _ _
  | .vmovE _ _ _ | .vcomp _ _ _ _ _ | .vlut _ _ _ _ | .vhash _ _ _ _ _ _ | .vpda _ _ _ _ | .vtmask _ _ _ _ _
  | .vsample _ _ _ _ _ _ _ => some .v
  | .add _ _ _ | .sub _ _ _ | .addi _ _ _ | .mul _ _ _ | .mulh _ _ _ | .mulhsu _ _ _ | .div _ _ _ | .divu _ _ _ | .rem _ _ _
  | .remu _ _ _ | .and _ _ _ | .or _ _ _ | .xor _ _ _ | .andn _ _ _ | .andi _ _ _ | .ori _ _ _ | .xori _ _ _ | .shl _ _ _
  | .shr _ _ _ | .sha _ _ _ | .shli _ _ _ | .shri _ _ _ | .shai _ _ _ | .rot _ _ _ | .min _ _ _ | .max _ _ _ | .minu _ _ _
  | .maxu _ _ _ | .slt _ _ _ | .sltu _ _ _ | .seq _ _ _ | .sel _ _ _ _ | .clz _ _ | .ctz _ _ | .popc _ _ | .li _ _ | .lih _ _
  | .addx _ _ _ _ | .extb _ _ _ _ _ | .insb _ _ _ _ | .kmovToK _ _ | .kmovToG _ _ | .kop _ _ _ _ => some .s
  | _ => none

/-- Transfer words and ERET, which a delay bundle may not hold (R305). -/
def isTransfer : Instr → Bool
  | .bra _ | .bcc _ _ _ _ | .bpr _ _ _ | .jmp _ | .jmpLink _ _ | .call _ _ | .ret _ | .loop _ _ | .loops _ _ _ | .eret => true
  | _ => false

/-- Cycles a word occupies its column from its entry (R292, R342, R375). -/
def occupancy : Instr → Nat
  | .vadd _ _ f _ _ _ _ | .vsub _ _ f _ _ _ _ | .vmul _ _ f _ _ _ _ | .vfma _ _ f _ _ _ _ _ | .vfms _ _ f _ _ _ _ _ => foldBeats f
  | .vmin _ f _ _ _ _ | .vmax _ f _ _ _ _ | .vabs _ _ f _ _ _ | .vneg _ _ f _ _ _ | .vcmp _ _ f _ _ _ _ | .vcvt _ _ f _ _ _ => foldBeats f
  | .vand f _ _ _ _ | .vor f _ _ _ _ | .vxor f _ _ _ _ | .vshl f _ _ _ _ | .vshr f _ _ _ _ | .vsha f _ _ _ _ => foldBeats f
  | .vsel f _ _ _ _ | .vperm f _ _ _ _ | .vbcast f _ _ _ _ | .vsplatG f _ _ _ | .vsplatImm f _ _ _ | .viota f _ _ _ => foldBeats f
  | .vmov f _ _ _ | .vlut f _ _ _ | .vrcp f _ _ _ | .vrsq f _ _ _ | .vsqrt f _ _ _ | .vexp2 f _ _ _ | .vlog2 f _ _ _ => foldBeats f
  | .vtanh f _ _ _ | .vsigm f _ _ _ | .vcomp f _ _ _ _ | .vhash f _ _ _ _ _ | .vtmask f _ _ _ _ | .vsample f _ _ _ _ _ _ => foldBeats f
  | .vredadd _ _ f _ _ _ | .vredmax _ f _ _ _ | .vredmin _ f _ _ _ | .vscan _ _ _ f _ _ _ | .vargmax _ f _ _ _ => foldBeats f
  | .vpda _ _ _ _ => 8
  | .mmul _ _ _ _ n | .mmulw _ _ _ _ _ n => n.toNat + 1
  | _ => 1

/-- An access through a port finds it open, of its direction, and of its size (R327, R328, R396); the array does not own it (R373). -/
def Port.fits (p : Port) (write : Bool) (halves : Nat) : Bool :=
  p.opened && p.write == write && 2 ^ p.gran * 2 == halves && p.array == 0

/-- Formats of an operand for a K-group class (R372). -/
def kgAllows (kg : KGroup) (fmt : BitVec 4) : Bool :=
  match kg with
  | .k4 => fmt == 1 || fmt == 2
  | .k8 => fmt == 4 || fmt == 5
  | .k16 => fmt == 6 || fmt == 7
/-- Bytes of a K-group and of a slice (R372). -/
def groupBytes (kg : KGroup) (fmt : BitVec 4) : Nat := if kg = .k16 && fmt == 6 then 16 else 8
def sliceBytes (kg : KGroup) (fmt : BitVec 4) : Nat := 16 * groupBytes kg fmt

/-- A port that a product may name (R373): an open read port whose step is the slice; where the format is not allowed, the fault is
that of R372 at entry. -/
def State.matPort (s : State) (r : CoreRef) (kg : KGroup) (p : PReg) : Bool :=
  let x := (s.core r).port p
  let fmt := (s.window r x.win).fmt
  x.opened && !x.write && (!kgAllows kg fmt || 2 ^ x.gran == sliceBytes kg fmt)

/-- An MSUMS has entered or been issued and is not attached (R377). -/
def State.msumsWaits (s : State) (r : CoreRef) : Bool :=
  match r with
  | .tile id _ => (s.tile id).msums.isSome || (s.core r).ops.any fun o => match o.instr with | .msums _ _ => true | _ => false
  | .feeder _ _ => false

/-- A product may not carry a waiting sum unit when it accumulates in FP32 (R377). (log 22, DEDUCED) -/
def State.msumsClash (s : State) (r : CoreRef) (kg : KGroup) (pa : PReg) : Bool :=
  s.msumsWaits r && (kg == .k4 || (kg == .k16 && (s.window r ((s.core r).port pa).win).fmt == 6))

/-- ILLEGAL for causes that depend on the core and the state (R287 step 1). -/
def State.illegal (s : State) (r : CoreRef) (i : Instr) : Bool :=
  let c := s.core r
  let worker := r.isWorker
  let feeder := r.isFeeder
  let el (sz : BitVec 2) : Nat := 2 * 2 ^ sz.toNat
  let vec (p : PReg) (f : BitVec 2) : Nat := 8 * foldBeats f * fmtHalves (s.window r (c.port p).win).fmt
  (match column i with
   | some .v => !worker
   | some .m => !worker
   | some .f => !feeder
   | none => i != .nop
   | _ => false)
  || (isTransfer i && c.delayDue ≠ 0)
  || (match i with
      | .size _ _ => !c.timed
      | .waiti => c.timed
      | .phase l => l.toNat < (c.domain.extractLsb' 0 2).toNat || (c.domain.extractLsb' 2 2).toNat < l.toNat
      | .loops p dim _ => !(c.port p).opened || (c.port p).dims.length ≤ dim.toNat
      | .ld sz _ _ (.port p) => !(c.port p).fits false (el sz)
      | .st sz _ (.port p) => !(c.port p).fits true (el sz)
      | .vld f _ m _ => !worker || (match m with | .port p => !(c.port p).fits false (vec p f) | _ => false)
      | .vst f _ m _ => !worker || (match m with | .port p => !(c.port p).fits true (vec p f) | _ => false)
      | .vlds _ _ _ _ _ _ | .vgath _ _ _ _ _ _ | .vscat _ _ _ _ _ _ => !worker
      | .pcfg p _ _ _ => (c.port p).array ≠ 0
      | .pclose p | .pseek p _ => !(c.port p).opened || (c.port p).array ≠ 0
      | .mmul kg _ _ pa _ => !s.matPort r kg pa || s.msumsClash r kg pa
      | .mmulw kg _ ch pa pb _ => !s.matPort r kg pa || !s.matPort r kg pb || s.msumsClash r kg pa || (ch ≠ 0 && s.fired.isNone)
      | .marm _ => s.partner.isNone
      | .msums _ _ => s.msumsWaits r
      | .mdcfgTok _ => feeder
      | .finj _ _ _ | .fgrp _ _ => !c.timed
      | .tsend _ _ | .tredMem _ _ _ | .drift | .holdrq _ => !c.timed
      | .tsendP p => !c.timed || !(c.port p).fits false 128
      | .tsendV _ _ | .tredV _ _ => !c.timed || !worker
      | .tej _ _ => feeder
      | .tdrecv _ _ => c.timed
      | .berthW _ _ | .bviewW _ _ | .btakeW _ | .btakeViewW _ => feeder
      | .berthG _ _ | .bviewG _ _ | .btakeG _ | .btakeViewG _ | .tkt _ _ | .tserve _ _ | .tadv _ | .rld _ _ _ _ _ | .rst _ _ _ _
      | .ramo _ _ _ _ _ _ _ _ | .rfence => c.timed
      | _ => false)

/-- SYSRD in user mode takes PRIV for the trap registers; SYSWR in user mode is allowed for FFLAGS, CVMODE, SRKEY, EJFLAGS and DCFG
only (R190). -/
def readPriv (n : Nat) : Bool := 0x007 ≤ n && n ≤ 0x009
def writePriv (n : Nat) : Bool := !(n == 0x00A || n == 0x00B || n == 0x00C || n == 0x014 || (0x108 ≤ n && n ≤ 0x10B))

/-- PRIV of a word in user mode, with its FAULTADDR: the register number, or 0 for an instruction (R287 step 2, R235). -/
def privOf : Instr → Option Word
  | .sysrd _ n => if readPriv n.toNat then some (n.zeroExtend 64) else none
  | .syswr n _ => if writePriv n.toNat then some (n.zeroExtend 64) else none
  | .windescWrite h _ => some (BitVec.ofNat 64 (0x0C0 + h.toNat))
  | .tapcfgWrite i _ => some (BitVec.ofNat 64 (0x0E0 + i.toNat))
  | .arrmapWrite i _ => some (BitVec.ofNat 64 (0x0E8 + i.toNat))
  | .rfmtWrite i _ => some (BitVec.ofNat 64 (0x100 + i.toNat))
  | .ejdescWrite i _ => some (BitVec.ofNat 64 (0x0F0 + i.toNat))
  | .rtabWrite h _ => some (BitVec.ofNat 64 (0x200 + h.toNat))
  | .votelogClear _ => some 0x012
  | .eret | .waiti | .trtab _ _ _ | .fgrp _ _ => some 0
  | _ => none

/-- The first failing check of one word: ILLEGAL, PRIV, and the full token queue of R381. -/
def State.wordFault (s : State) (r : CoreRef) (i : Instr) : Option (BitVec 8 × Word) :=
  if !i.wf || s.illegal r i then some (Cause.illegal, BitVec.ofNat 64 s.wordAt)
  else if let (false, some n) := ((s.core r).keeper, privOf i) then some (Cause.priv, n)
  else match i, r with
    | .mdcfgTok _, .tile id _ =>
      if 8 ≤ (s.tile id).tokens.length + (s.tile id).newTokens.length then some (Cause.collide, 0) else none
    | _, _ => none

/-- A word's meaning behind its issue checks: an operation whose bundle has passed them has its effect; otherwise the first failing
check decides (R287). -/
def guarded (i : Instr) (s : State) (effect : State → State) : Result :=
  if s.checked then done (effect s)
  else match s.wordFault s.actor i with
    | some (cause, addr) => done (s.raise cause addr)
    | none => done (effect s)

end Sys2Proof.Machine
end

