-- ==== Sys2Proof/Machine/Flags.lean ====
section
/-! DEFINITION. FFLAGS bits (spec 08 R192) and the scalar results and flags of the S column (13 R321 to R325). -/

namespace Sys2Proof.Machine

namespace FFlag
def nx : BitVec 7 := 0x01
def uf : BitVec 7 := 0x02
def of : BitVec 7 := 0x04
def dz : BitVec 7 := 0x08
def nv : BitVec 7 := 0x10
def sat : BitVec 7 := 0x20
def nolegal : BitVec 7 := 0x40
end FFlag

/-! ### Values of the S column -/

def valMulh (a b : Word) : Word := ((a.signExtend 128 * b.signExtend 128) >>> 64).truncate 64
def valMulhsu (a b : Word) : Word := ((a.signExtend 128 * b.zeroExtend 128) >>> 64).truncate 64
/-- Signed division toward zero; divisor 0 gives -1 (R322). -/
def valDiv (a b : Word) : Word := if b = 0 then BitVec.allOnes 64 else a.sdiv b
def valDivu (a b : Word) : Word := if b = 0 then BitVec.allOnes 64 else a.udiv b
/-- The remainder takes the sign of the dividend; divisor 0 gives the dividend (R322). -/
def valRem (a b : Word) : Word := if b = 0 then a else a.srem b
def valRemu (a b : Word) : Word := if b = 0 then a else a.umod b
/-- Only division by zero sets a flag (R322). -/
def divFlags (b : Word) : BitVec 7 := if b = 0 then FFlag.dz else 0
def low6 (b : Word) : Nat := (b.extractLsb' 0 6).toNat
def valShl (a : Word) (n : Nat) : Word := a <<< n
def valShr (a : Word) (n : Nat) : Word := a >>> n
def valSha (a : Word) (n : Nat) : Word := a.sshiftRight n
def valRot (a : Word) (n : Nat) : Word := a.rotateRight n
def valMin (a b : Word) : Word := if a.slt b then a else b
def valMax (a b : Word) : Word := if a.slt b then b else a
def valMinu (a b : Word) : Word := if a.ult b then a else b
def valMaxu (a b : Word) : Word := if a.ult b then b else a
def valBool (b : Bool) : Word := if b then 1 else 0
/-- Leading zero bits, 0 to 64. -/
def valClz (a : Word) : Word := BitVec.ofNat 64 (((List.range 64).find? fun i => a.getLsbD (63 - i)).getD 64)
/-- Trailing zero bits, 0 to 64. -/
def valCtz (a : Word) : Word := BitVec.ofNat 64 (((List.range 64).find? fun i => a.getLsbD i).getD 64)
/-- Set bits. -/
def valPopc (a : Word) : Word := BitVec.ofNat 64 ((List.range 64).countP fun i => a.getLsbD i)
/-- Bits pos + len - 1 to pos, zero- or sign-extended (R323). -/
def valExtb (sgn : Bool) (a : Word) (pos lenM1 : BitVec 6) : Word :=
  let len := lenM1.toNat + 1
  let x := (a >>> pos.toNat) <<< (64 - len)
  if sgn then x.sshiftRight (64 - len) else x >>> (64 - len)
/-- d with bits pos + len - 1 to pos replaced by the low bits of a (R323). -/
def valInsb (d a : Word) (pos lenM1 : BitVec 6) : Word :=
  let m := (BitVec.allOnes 64 >>> (63 - lenM1.toNat)) <<< pos.toNat
  (d &&& ~~~m) ||| ((a <<< pos.toNat) &&& m)
def valLih (d : Word) (imm : BitVec 22) : Word := imm ++ d.extractLsb' 0 42
def valAddx (a b : Word) (s : BitVec 3) : Word := a + (b <<< s.toNat)
def valKop (op : KopOp) (a b : Word) : Word :=
  match op with
  | .and => a &&& b
  | .or => a ||| b
  | .xor => a ^^^ b
  | .andn => a &&& ~~~b
  | .not => ~~~a

end Sys2Proof.Machine
end

