-- ==== Sys2Proof/Machine/Control.lean ====
section
/-! DEFINITION. The C column beside system registers: branches, loops, stops, phases and sluices (spec 13 R304 to R318, R320; 08 R206;
15 R436), and the return from a trap (10 R239). -/

namespace Sys2Proof.Machine

/-! ### Links (R308) -/

/-- Words of the bundle at a word address, as the fetch path shows them: through the first word with L clear, at most 4 (R284). -/
def State.bundleWords (s : State) (r : CoreRef) (w : Nat) : Nat → Nat × State
  | 0 => (0, s)
  | n + 1 =>
    let (b, s) := s.fetchBytes r (8 * w + 7) 1
    if (b.getD 0 0).getLsbD 7 then
      let (k, s) := s.bundleWords r (w + 1) n
      (k + 1, s)
    else (1, s)

/-- Byte address of the bundle that follows, in sequence, the second delay bundle. -/
def State.linkAddr (s : State) : Word × State :=
  let pc := s.me.pc.toNat
  let (a, s) := s.bundleWords s.actor pc 4
  let (b, s) := s.bundleWords s.actor (pc + a) 4
  (BitVec.ofNat 64 (8 * (pc + a + b)), s)

/-! ### Branches and calls -/

/-- A transfer word: branches or not, with two delay bundles either way (R305). -/
def State.transfer (s : State) (taken : Bool) (tgt : BitVec 16) : State :=
  s.modMe fun c => if taken then c.branchTo tgt else c.noBranch

/-- Conditions of BCC (R307). -/
def bccHolds (c : BccCond) (a b : Word) : Bool :=
  match c with
  | .eq => a == b
  | .ne => a != b
  | .lt => a.slt b
  | .ge => !(a.slt b)
  | .ltu => a.ult b
  | .geu => !(a.ult b)

/-- Conditions of BPR (R307). -/
def bprHolds (c : BprCond) (k : Word) : Bool :=
  match c with
  | .any => k != 0
  | .none => k == 0
  | .all => k == BitVec.allOnes 64
  | .nall => k != BitVec.allOnes 64

/-- The fault of a register target: not a multiple of 8, or at or beyond 512 KiB (R294, R308). -/
def jumpFault (t : Word) : Option (BitVec 8) :=
  if t.toNat % 8 ≠ 0 then some Cause.align else if Config.storeSize ≤ t.toNat then some Cause.window else none

/-- JMP and RET: a faulting target has no effect and writes no link (R308). -/
def State.jumpTo (s : State) (t : Word) (link : Option Reg) : State :=
  match jumpFault t with
  | some cause => s.raise cause t
  | none =>
    let s := match link with
      | some d =>
        let (l, s) := s.linkAddr
        s.laterG 1 d l
      | none => s
    s.transfer true (t.extractLsb' 3 16)

/-- BRA (R308). -/
def execBra (tgt : BitVec 16) (s : State) : Result := guarded (.bra tgt) s fun s => s.transfer true tgt
/-- BCC (R307, R308). -/
def execBcc (c : BccCond) (a b : Reg) (tgt : BitVec 16) (s : State) : Result :=
  guarded (.bcc c a b tgt) s fun s => s.transfer (bccHolds c (s.g a) (s.g b)) tgt
/-- BPR (R307, R308). -/
def execBpr (c : BprCond) (k : KReg) (tgt : BitVec 16) (s : State) : Result :=
  guarded (.bpr c k tgt) s fun s => s.transfer (bprHolds c (s.k k)) tgt
/-- JMP (R308). -/
def execJmp (a : Reg) (s : State) : Result := guarded (.jmp a) s fun s => s.jumpTo (s.g a) none
/-- JMP.link: g[DST] := link at E + 1 (R308). -/
def execJmpLink (d a : Reg) (s : State) : Result := guarded (.jmpLink d a) s fun s => s.jumpTo (s.g a) (some d)
/-- CALL: g[A] := link at E + 1 (R308). -/
def execCall (a : Reg) (tgt : BitVec 16) (s : State) : Result :=
  guarded (.call a tgt) s fun s =>
    let (l, s) := s.linkAddr
    (s.laterG 1 a l).transfer true tgt
/-- RET has the effect of JMP without .link (R308). -/
def execRet (a : Reg) (s : State) : Result := guarded (.ret a) s fun s => s.jumpTo (s.g a) none

/-- LOOP (R309). -/
def execLoop (a : Reg) (tgt : BitVec 16) (s : State) : Result :=
  guarded (.loop a tgt) s fun s =>
    let c := s.g a
    if 2 ≤ c.toNat then (s.laterG 1 a (c - 1)).transfer true tgt else (s.laterG 1 a 0).transfer false tgt

/-- LOOPS: branches while eod[DIM], as visible at E, is 0 (R310, R202). -/
def execLoops (p : PReg) (dim : BitVec 4) (tgt : BitVec 16) (s : State) : Result :=
  guarded (.loops p dim tgt) s fun s => s.transfer (!((s.me.port p).flags.getLsbD dim.toNat)) tgt

/-! ### Stopping and trapping -/

/-- The core has executed HALT and nothing it waits for is left. -/
def State.haltCore (s : State) (r : CoreRef) : State :=
  let s := s.modCore r fun c => { c with run := .halted, waits := [] }
  match s.slotOf r with
  | some n => s.checkEnd n
  | none => s

/-- HALT: a free core waits for the answers to its remote requests (R311). -/
def execHalt (s : State) : Result :=
  guarded .halt s fun s => if !s.me.timed && s.me.owedAny then s.await .halt else s.haltCore s.actor

/-- TRAP: traps at the bundle that follows, FAULTADDR zext(IMM32) (R312). -/
def execTrap (imm : BitVec 32) (s : State) : Result :=
  guarded (.trap imm) s fun s => s.raiseOf s.actor Cause.trap (imm.zeroExtend 64) true
/-- BREAK (R312). -/
def execBreakTrap (imm : BitVec 32) (s : State) : Result :=
  guarded (.breakTrap imm) s fun s => s.raiseOf s.actor Cause.breakTrap (imm.zeroExtend 64) true

/-- ERET (R239). -/
def execEret (s : State) : Result := guarded .eret s fun s => s.modMe Core.eret

/-- WAITI: a free keeper core issues nothing until a wake event (R320). -/
def execWaiti (s : State) : Result := guarded .waiti s fun s => s.await .waiti

/-- WAITV: LATE when the target has passed, else no bundle before u + 1 (R313). -/
def execWaitv (a : Reg) (imm : BitVec 16) (s : State) : Result :=
  guarded (.waitv a imm) s fun s =>
    let u := (s.g a + imm.signExtend 64).extractLsb' 0 48
    if passed u (s.vcycOf s.actor) then s.raise Cause.late (u.zeroExtend 64) else s.await (.waitv u)

/-! ### Phases, sizes, marks -/

/-- The other core of the tile. -/
def partnerOf : CoreRef → Option CoreRef
  | .tile id w => some (.tile id (!w))
  | .feeder _ _ => none

/-- The partner's PHASE at level 1 is noted; a partner asleep in PHASE wakes (R314). (log 35, DEDUCED) -/
def State.tellPartner (s : State) (r : CoreRef) : State :=
  match partnerOf r with
  | none => s
  | some q =>
    let s := s.modCore q fun c => { c with partnerPhase := true }
    if (s.core q).waits.any (fun w => w.1 == .phase) then s.soon (.phaseWake q) else s

/-- A timed core's report at a level: at level 1 only to a timed partner (R314). (log 35, DEDUCED) -/
def State.reportPhase (s : State) (r : CoreRef) (level : BitVec 2) : State :=
  match s.slotOf r with
  | none => s
  | some n =>
    if level = 1 then
      match partnerOf r with
      | some q => if (s.core q).timed && (s.core q).run != .idle then s.phaseReport n (.here r) level (s.vcycOf r) else s
      | none => s
    else if level = 3 && (s.slot n).modIdx ≠ 0 then
      s.tellAnchor (s.slot n) (.phase (s.slot n).rec_.crew (s.vcycOf r) (s.slot n).modIdx r.member)
    else s.phaseReport n (.here r) level (s.vcycOf r)

/-- PHASE (R314). -/
def execPhase (level : BitVec 2) (s : State) : Result :=
  guarded (.phase level) s fun s =>
    if level = 0 then s
    else if s.me.timed then
      let s := s.reportPhase s.actor level
      if level = 1 then s.tellPartner s.actor else s
    else if level = 1 then
      let s := s.tellPartner s.actor
      if s.me.partnerPhase then s.modMe fun c => { c with partnerPhase := false } else s.await .phase
    else s

/-- SIZE: the word min(g[SA], 0xFFFF) joins those of the core's group (R315, R116). -/
def execSize (a : Reg) (cls : BitVec 3) (s : State) : Result :=
  guarded (.size a cls) s fun s =>
    match s.slotOf s.actor with
    | none => s
    | some n => s.contribute n s.actor cls (BitVec.ofNat 16 (min (s.g a).toNat 0xFFFF)) (s.vcycOf s.actor)

/-- MARKP: a timed core requests a mark, a free core nothing (R304, R242). -/
def execMarkp (s : State) : Result :=
  guarded .markp s fun s =>
    match s.me.timed, s.slotOf s.actor with
    | true, some n =>
      let x := s.slot n
      if x.modIdx = 0 then s.markReport n (.here s.actor) (s.vcycOf s.actor)
      else s.tellAnchor x (.mark x.rec_.crew (s.vcycOf s.actor) x.modIdx s.actor.member)
    | _, _ => s

/-! ### Sluices (R206, R316 to R318, R436) -/

/-- A sluice's count as seen in this cycle. -/
def State.sluice (s : State) (r : CoreRef) (sl : BitVec 4) : BitVec 16 :=
  match r with
  | .tile id _ => (s.tile id).sluice[sl.toNat]'(by omega)
  | .feeder f _ => (s.feeder f).sluice[sl.toNat]'(by omega)

/-- An update that applies at the end of the cycle. -/
def State.sluiceAdd (s : State) (r : CoreRef) (u : SlUpd) : State :=
  let s := match r with
    | .tile id _ => s.modTile id fun t => { t with slUpd := t.slUpd ++ [u] }
    | .feeder f _ => s.modFeeder f fun x => { x with slUpd := x.slUpd ++ [u] }
  match r with
  | .tile id _ => s.wakeAll [.tile id true, .tile id false] false
  | .feeder _ _ => s

/-- What waits of cores earlier in the order took of a sluice in this cycle (R318). -/
def State.sluiceTaken (s : State) (r : CoreRef) (sl : BitVec 4) : Nat :=
  let l := match r with
    | .tile id w => if w then [] else (s.tile id).slTaken
    | .feeder f _ => (s.feeder f).slTaken
  ((l.filter (·.1 == sl)).map (·.2)).foldl (· + ·) 0

/-- An SLWAIT of n can proceed now (R317, R318). -/
def State.sluiceReady (s : State) (r : CoreRef) (sl : BitVec 4) (n : Nat) : Bool :=
  (n : Int) ≤ (s.sluice r sl).toInt - (s.sluiceTaken r sl : Int)

/-- An SLWAIT proceeds: n is subtracted at the end of the cycle. -/
def State.sluiceTake (s : State) (r : CoreRef) (sl : BitVec 4) (n : Nat) : State :=
  let s := match r with
    | .tile id w => s.modTile id fun t => { t with slTaken := if w then t.slTaken ++ [(sl, n)] else t.slTaken }
    | .feeder f _ => s.modFeeder f fun x => { x with slTaken := x.slTaken ++ [(sl, n)] }
  s.sluiceAdd r ⟨sl, -(n : Int), none⟩

/-- SLPOST: adds n at the end of E (R317). -/
def execSlpost (sl : BitVec 4) (n : BitVec 15) (s : State) : Result :=
  guarded (.slpost sl n) s fun s => s.sluiceAdd s.actor ⟨sl, n.toNat, some s.actor.order⟩

/-- SLWAIT: proceeds when the count as seen is at least n; otherwise a timed core faults and a free core stands (R304, R317). A stand
that has ended in SLWAIT_PROCEED has taken its n. -/
def execSlwait (sl : BitVec 4) (n : BitVec 15) (s : State) : Result :=
  guarded (.slwait sl n) s fun s =>
    if s.me.granted then s.modMe fun c => { c with granted := false }
    else if s.sluiceReady s.actor sl n.toNat then s.sluiceTake s.actor sl n.toNat
    else if s.me.timed then s.raise Cause.sluice (sl.zeroExtend 64)
    else (s.modMe fun c => { c with slwait := some (sl, n) }).standOp 1 (.slwait sl n)

/-- SLWAIT_PROCEED: a standing SLWAIT that can proceed takes its n, and its core's stand ends (R317, R318). -/
def execSlwaitProceed (core : CoreRef) (s : State) : Result :=
  onUnit (s.coreOk core) <|
    match (s.core core).slwait with
    | none => s
    | some (sl, n) =>
      if s.sluiceReady core sl n.toNat then
        (s.sluiceTake core sl n.toNat).modCore core fun c => { c with slwait := none, granted := true, stand := 0 }
      else s

/-- A value held to the range of a sluice (R317). -/
def clamp16 (x : Int) : BitVec 16 := BitVec.ofInt 16 (max (-32768) (min 32767 x))

/-- SLSET: takes effect after the cycle's other updates (R317). -/
def execSlset (sl : BitVec 4) (a : Reg) (imm : BitVec 16) (s : State) : Result :=
  guarded (.slset sl a imm) s fun s =>
    let v := (sl, clamp16 ((s.g a).toInt + imm.toInt), s.actor.order)
    match s.actor with
    | .tile id _ => (s.modTile id fun t => { t with slSet := t.slSet ++ [v] }).wakeAll [.tile id true, .tile id false] false
    | .feeder f _ => s.modFeeder f fun x => { x with slSet := x.slSet ++ [v] }

/-- SLGET: the count as seen at E, at E + 1 (R317). -/
def execSlget (d : Reg) (sl : BitVec 4) (s : State) : Result :=
  guarded (.slget d sl) s fun s => s.laterG 1 d ((s.sluice s.actor sl).signExtend 64)

/-! ### The ends of waits -/

/-- A core stops waiting for what a test names. -/
def State.endWait (s : State) (r : CoreRef) (p : Wait → Bool) : State := s.modCore r (·.endWaits p)

/-- WAITV_EXPIRE: the wait ends once its target has run (R313). -/
def execWaitvExpire (core : CoreRef) (s : State) : Result :=
  onUnit (s.coreOk core) <|
    s.endWait core fun w => match w with | .waitv u => passed u (s.vcycOf core) | _ => false

/-- PHASE_WAKE: a core asleep in PHASE wakes when its partner has executed PHASE (R314). -/
def execPhaseWake (core : CoreRef) (s : State) : Result :=
  onUnit (s.coreOk core) <|
    if (s.core core).partnerPhase && (s.core core).waits.any (fun w => w.1 == .phase) then
      (s.endWait core (· == .phase)).modCore core fun c => { c with partnerPhase := false }
    else s

/-- WAITI_WAKE: the next bundle issues, and no handler is entered (R320). -/
def execWaitiWake (core : CoreRef) (s : State) : Result :=
  onUnit (s.coreOk core) <| s.endWait core (· == .waiti)

/-- PHASE_CHECK_TIMEOUT: a member that has not reported HORIZON counts after the reference is PHASE_SKEW (R314). -/
def execPhaseCheckTimeout (crew : BitVec 16) (level : BitVec 2) (count : BitVec 48) (s : State) : Result :=
  done <|
    match s.slotOfCrew crew with
    | none => s
    | some n =>
      let x := s.slot n
      match x.run.phases.find? fun p => p.level == level && p.count == count with
      | none => s
      | some p =>
        let missing := (s.reporters x level p.tile).filter fun r => !p.seen.contains r
        match lowestMember missing with
        | none => s
        | some r => (s.modRun n fun u => { u with phases := u.phases.filter (· != p) }).seqFault n Cause.phaseSkew r.addr

/-- NOP (R283). -/
def execNop (s : State) : Result := guarded .nop s fun s => s

end Sys2Proof.Machine
end

