-- ==== Sys2Proof/Machine/Grid.lean ====
section
/-! DEFINITION. Physical and logical places: skipped tiles, logical columns, the tiles a waveguide passes (spec 01 R14 to R18; 06 R126). -/

namespace Sys2Proof.Machine

/-- Local column skipped in a physical row of a reach column (R14). -/
def State.skipped (s : State) (rx y : Nat) : Nat :=
  match s.defects.find? fun d => d.1 / 32 == rx && d.2 == y with
  | some d => d.1 % 32
  | none => 31

/-- A reach column that R18 cannot keep: a row with two fused-off tiles, or a reach that counts as fused off (R29). -/
def State.colBad (s : State) (rx : Nat) : Bool :=
  s.worn.any (·.1 == rx) || s.defects.any fun d => d.1 / 32 == rx && s.defects.any fun e => e.1 / 32 == rx && e.2 == d.2 && e.1 != d.1

/-- The grade of a wafer with the reach column it retires; none: not in service (R18, R29). -/
def State.gradeOf (s : State) : Option (BitVec 16 × Option Nat) :=
  match (List.range 8).filter s.colBad with
  | [] => some (0x0940, none)
  | [0] => some (0x0936, some 0)
  | [7] => some (0x0936, some 7)
  | _ => none

/-- Physical column of the first active reach column. -/
def State.firstCol (s : State) : Nat := 32 * s.firstReach

/-- The logical tile at a physical place (R15). -/
def State.logicalAt (s : State) (c y : Nat) : Option Nat :=
  let rx := c / 32
  let j := c % 32
  let k := s.skipped rx y
  if 256 ≤ c || 192 ≤ y || s.retired = some rx || j = k then none
  else some (s.idOf (31 * ((c - s.firstCol) / 32) + (if k < j then j - 1 else j)) y)

/-- Physical column of a logical tile (R15). -/
def State.physCol (s : State) (id : Nat) : Nat :=
  let x := s.xOf id
  let rx := x / 31 + s.firstCol / 32
  let j := x % 31
  32 * rx + (if s.skipped rx (s.yOf id) ≤ j then j + 1 else j)

/-- Physical column under waveguide w of a feeder (R126, R18). -/
def State.guideCol (s : State) (f w : Nat) : Nat := 8 * (f % 32) + w / 2 + s.firstCol

/-- The north feeder over a physical column (R126, R51). -/
def State.northFeeder (s : State) (c : Nat) : Nat := (c - s.firstCol) / 8

/-- Lane code of waveguide w: N0, N1, S0, S1 (R126). -/
def laneOfGuide (f w : Nat) : BitVec 2 := BitVec.ofNat 2 ((if f < 32 then 0 else 2) + w % 2)

/-- A tile whose reach carries no traffic (R181). -/
def State.dead (s : State) (id : Nat) : Bool := let (rx, ry) := s.reachOf id; s.pwr.off || (s.reach rx ry).hole

/-- The bypass of a skipped tile joins a logical tile's east or west port, 1 or 3, to the next one (R14, R181). -/
def State.bypassed (s : State) (id k : Nat) : Bool :=
  let c := s.physCol id
  let next := if k = 1 then c + 1 else c - 1
  k % 2 = 1 && next < 256 && (k = 1 || c ≠ 0) && s.retired ≠ some (next / 32) && s.skipped (next / 32) (s.yOf id) = next % 32

/-- The wire that a selector joins a logical tile's port k to its logical neighbour by: of N and S, 0 to 2 for columns c - 1 to c + 1 of the row
above or below (R16); E and W have one. -/
def State.wireOf (s : State) (id k : Nat) : Nat :=
  if k % 2 = 1 then 0
  else
    let y := s.yOf id
    let y' := if k = 0 then y - 1 else y + 1
    s.physCol (s.idOf (s.xOf id) y') + 1 - s.physCol id

/-- What the greeting has told a tile over one wire of a port, 0 before the exchange (R180). -/
def State.heardOn (s : State) (id k wire : Nat) : BitVec 3 :=
  if s.pwr.greeting = 0 then 0
  else match lookup? (s.tile id).heard (4 * k + wire) with
    | some c => c
    | none => if s.pwr.health = 0 then 0 else Config.helloCode s.pwr.health id (4 * k + wire)

/-- NBRSTAT's code for the neighbour of a logical tile, 0 N, 1 E, 2 S, 3 W; once it is fixed a bypass shows as 3 (R180, R181). -/
def State.nbrCode (s : State) (id k : Nat) : BitVec 3 :=
  if s.pwr.greeting = 2 && s.bypassed id k then 3 else s.heardOn id k (s.wireOf id k)

/-- NBRSTAT, with the depth that every unit measures in step 3 of power-on (R59, R180). -/
def State.nbrWord (s : State) (id : Nat) : Word :=
  (0 : BitVec 46) ++ (if 4 ≤ s.pwr.step then Config.depth id else 0) ++ s.nbrCode id 3 ++ s.nbrCode id 2 ++ s.nbrCode id 1 ++ s.nbrCode id 0

/-- The way out of a logical tile ends at a hole: a neighbour that did not answer the greeting (R181), or a reach that stopped. -/
def State.holeAt (s : State) (id k j : Nat) : Bool := s.dead j || (s.pwr.greeting == 2 && s.nbrCode id k == 0)

end Sys2Proof.Machine
end

