-- ==== Sys2Proof/Machine/Route.lean ====
section
/-! DEFINITION. Turn lists of the dynamic class: how a sender forms one and which are legal (spec 07 R154, R171, R174, R176). -/

namespace Sys2Proof.Machine

/-- A segment: ESC, DIR (0 N, 1 E, 2 S, 3 W), LEN. -/
structure Seg where
  esc : Bool
  dir : Nat
  len : Nat
  deriving DecidableEq, Repr

/-- Segment k of a TURNS field (R171). -/
def segAt (turns : BitVec 88) (k : Nat) : Seg :=
  let x := (turns >>> (11 * k)).extractLsb' 0 11
  { esc := x.getLsbD 10, dir := (x.extractLsb' 8 2).toNat, len := (x.extractLsb' 0 8).toNat }

def Seg.bits (g : Seg) : BitVec 88 :=
  (((if g.esc then (1 : BitVec 1) else 0) ++ BitVec.ofNat 2 g.dir ++ BitVec.ofNat 8 g.len : BitVec 11)).zeroExtend 88

/-- TURNS of a list of at most eight segments. -/
def turnsOf (l : List Seg) : BitVec 88 :=
  (l.zip (List.range 8)).foldl (fun (t : BitVec 88) (x : Seg × Nat) => t ||| (x.1.bits <<< (11 * x.2))) 0

/-- Segments 0 to 5 of an RTAB entry, up to the first of length 0. (log 41, DEDUCED) -/
def entrySegs (e : BitVec 128) : List Seg := ((List.range 6).map (segAt (e.extractLsb' 0 88))).takeWhile fun g => g.len ≠ 0

/-- Where a segment leads from (x, y). -/
def Seg.move (g : Seg) (p : Int × Int) : Int × Int :=
  match g.dir with
  | 0 => (p.1, p.2 - g.len)
  | 1 => (p.1 + g.len, p.2)
  | 2 => (p.1, p.2 + g.len)
  | _ => (p.1 - g.len, p.2)

/-- The at most two segments from a waypoint: east or west, then north or south (R176). -/
def lastSegs (frm dest : Int × Int) : List Seg :=
  let dx := dest.1 - frm.1
  let dy := dest.2 - frm.2
  (if dx = 0 then [] else [{ esc := false, dir := if 0 < dx then 1 else 3, len := dx.natAbs }]) ++
  (if dy = 0 then [] else [{ esc := false, dir := if 0 < dy then 2 else 0, len := dy.natAbs }])

/-- The full turn list of an entry's segments toward a destination. (log 41, DEDUCED) -/
def fullList (segs : List Seg) (frm dest : Int × Int) : List Seg :=
  segs ++ lastSegs (segs.foldl (fun p g => g.move p) frm) dest

/-- A segment that reverses the one before it. -/
def reversals : List Seg → Bool
  | a :: b :: r => (a.dir + 2) % 4 == b.dir || reversals (b :: r)
  | _ => false

/-- West-first on the main channel, east-first on the escape channel (R174). `seenMain`, `mainW`, `escE`: what went before. (log 41, DEDUCED) -/
def channelsOk (onEsc allW allEscE : Bool) : List Seg → Bool
  | [] => true
  | g :: r =>
    let esc := onEsc || g.esc
    (if esc then g.dir != 1 || allEscE else g.dir != 3 || allW) &&
    channelsOk esc (allW && g.dir == 3) (allEscE && esc && g.dir == 1) r

/-- R174. -/
def legalList (l : List Seg) : Bool :=
  (l.countP (·.esc)) ≤ 1 && !reversals l && channelsOk false true true l

/-- The list stays on the grid of `cols` by 192 logical tiles. -/
def staysOn (cols : Nat) (frm : Int × Int) : List Seg → Bool
  | [] => true
  | g :: r =>
    let p := g.move frm
    0 ≤ p.1 && p.1 < cols && 0 ≤ p.2 && p.2 < 192 && staysOn cols p r

/-- Rectangle of an entry: x0, y0, x1, y1 (R176). -/
def entryRect (e : BitVec 128) : Nat × Nat × Nat × Nat :=
  ((e.extractLsb' 96 8).toNat, (e.extractLsb' 88 8).toNat, (e.extractLsb' 112 8).toNat, (e.extractLsb' 104 8).toNat)

/-- The attachment tile of a feeder, and of a towline's dynamic packets (R154). -/
def State.feederTile (s : State) (f : Nat) : Nat :=
  let r := f % 32
  s.idOf (31 * (r / 4) + 8 * (r % 4)) (if f < 32 then 0 else 191)
def State.towlineTile (s : State) (t k : Nat) : Nat :=
  s.idOf (if t < 32 then 0 else s.cols - 1) (6 * (t % 32) + 1 + k)

/-- Logical coordinates of a tile. -/
def State.posOf (s : State) (id : Nat) : Int × Int := (s.xOf id, s.yOf id)

/-- A route-table value that R176 refuses for a sender at a tile: one with a reserved bit (R9), or an entry in use with a segment 6 or 7, or with a
destination of its rectangle whose full list is not legal or leaves the grid. From an entry not in use no list is formed, so none is checked
(log 16, DEDUCED). -/
def State.rtabRefused (s : State) (sender : Nat) (e : BitVec 128) : Bool :=
  let (x0, y0, x1, y1) := entryRect e
  let frm := s.posOf sender
  let segs := entrySegs e
  e.extractLsb' 120 7 ≠ 0 || e.getLsbD 127 && ((e.extractLsb' 66 22) ≠ 0 ||
  (List.range (x1 + 1 - x0)).any fun i => (List.range (y1 + 1 - y0)).any fun j =>
    let dest : Int × Int := ((x0 + i : Nat), (y0 + j : Nat))
    let l := fullList segs frm dest
    !(dest.1 < s.cols && dest.2 < 192 && legalList l && staysOn s.cols frm l))

/-- An entry as boot firmware filled it after the greeting, so that routes avoid holes: what it holds is free, within what a write accepts (R176,
log 5, DESIGN CHOICE). Kinds are those of R171. -/
def State.bootEntry (s : State) (kind num sender k : Nat) : BitVec 128 :=
  if s.pwr.routes = 0 then 0
  else
    let e := Config.bootRoute s.pwr.routes kind num k
    if s.rtabRefused sender e then 0 else e

/-- A sender's route table. -/
def State.routeTable (s : State) (tab : Vector (Option (BitVec 128)) 256) (kind num sender : Nat) : Vector (BitVec 128) 256 :=
  Vector.ofFn fun k => tab[k].getD (s.bootEntry kind num sender k)

/-- The route table of a core's unit, and the tile its heads leave from. -/
def State.rtab (s : State) (r : CoreRef) : Vector (BitVec 128) 256 × Nat :=
  match r with
  | .tile id _ => (s.routeTable (s.tile id).rtab 0 id id, id)
  | .feeder f _ => (s.routeTable (s.feeder f).rtab 1 f (s.feederTile f), s.feederTile f)

/-- Places that a list of segments passes. -/
def pathFrom : Int × Int → List Seg → List (Int × Int)
  | _, [] => []
  | p, g :: r => (List.range g.len).map (fun i => Seg.move { g with len := i + 1 } p) ++ pathFrom (g.move p) r

/-- An entry in use leads a sender's packets through one of some tiles. -/
def State.leadsThrough (s : State) (sender : Nat) (e : BitVec 128) (ids : List Nat) : Bool :=
  let (x0, y0, x1, y1) := entryRect e
  let frm := s.posOf sender
  e.getLsbD 127 && (List.range (x1 + 1 - x0)).any fun i => (List.range (y1 + 1 - y0)).any fun j =>
    (pathFrom frm (fullList (entrySegs e) frm ((x0 + i : Nat), (y0 + j : Nat)))).any fun p => ids.any fun t => s.posOf t == p

/-- Entries that lead through some tiles are boot firmware's to rewrite (R184). -/
def State.rerouted (s : State) (sender : Nat) (tab : Vector (Option (BitVec 128)) 256) (ids : List Nat) : Vector (Option (BitVec 128)) 256 :=
  tab.map fun e => e.filter fun e => !s.leadsThrough sender e ids

/-- The turn list toward a destination tile: that of the lowest-numbered valid entry whose rectangle holds it, else none of its own
(R176). -/
def turnList (s : State) (tab : Vector (BitVec 128) 256) (sender dest : Nat) : BitVec 88 :=
  let d := s.posOf dest
  let hit (e : BitVec 128) : Bool :=
    let (x0, y0, x1, y1) := entryRect e
    e.getLsbD 127 && (x0 : Int) ≤ d.1 && d.1 ≤ x1 && (y0 : Int) ≤ d.2 && d.2 ≤ y1
  let segs := match tab.toList.find? hit with
    | some e => entrySegs e
    | none => []
  turnsOf (fullList segs (s.posOf sender) d)

end Sys2Proof.Machine
end

