-- ==== Sys2Proof/Machine/SysReg.lean ====
section
/-! DEFINITION. System registers: values (spec 08 R190 to R193, R204, R205, R210; 02 R43; 03 R55 to R63; 05 R107, R119; 06 R137 to
R146; 07 R162 to R182; 10 R238; 15 R383), SYSRD and SYSWR (13 R319). -/

namespace Sys2Proof.Machine

/-! ### Words of registers made of fields -/

def trapCauseWord (t : TrapCause) : Word :=
  (0 : BitVec 48) ++ boolBit t.ferry ++ (0 : BitVec 1) ++ t.ds ++ (0 : BitVec 2) ++ boolBit t.pie ++ boolBit t.pkeep ++ t.cause
def trapCauseOf (w : Word) : TrapCause :=
  { ferry := w.getLsbD 15, ds := w.extractLsb' 12 2, pie := w.getLsbD 9, pkeep := w.getLsbD 8, cause := w.extractLsb' 0 8 }
/-- TRAPPC (R238). -/
def trapPcWord (pc : BitVec 16) : Word := (0 : BitVec 45) ++ pc ++ (0 : BitVec 3)

/-- TILEID (R191). -/
def State.tileIdWord (s : State) (id : Nat) (worker : Bool) : Word :=
  s.modNum ++ (0 : BitVec 11) ++ BitVec.ofNat 8 (s.yOf id) ++ BitVec.ofNat 8 (s.xOf id) ++ (0 : BitVec 7) ++ boolBit worker ++ BitVec.ofNat 16 id

/-- A block's state in its chamber slot or weir place: 1 FILLING, 2 FULL (R146). -/
def Block.stateBits (b : Block) : BitVec 2 := if b.full then 2 else 1

/-- CHSTAT (R146). -/
def Tile.chstat (t : Tile) : Word :=
  let st (i : Nat) : Nat :=
    match t.blocks.find? fun b => !b.lost && b.place.isNone && b.slot.toNat == i with
    | some b => b.stateBits.toNat
    | none => 0
  let arm (i : Nat) : Nat := if t.arms.any (·.slot.toNat == i) then 1 else 0
  BitVec.ofNat 64 ((List.range 16).foldl (fun a i => a + st i * 4 ^ i + arm i * 2 ^ (32 + i)) 0)

/-- WEIRSTAT (R146). -/
def Tile.weirstat (t : Tile) : Word :=
  let place (k : Nat) : Nat :=
    match t.blocks.find? fun b => !b.lost && b.place == some k with
    | some b => b.stateBits.toNat * 32 + b.slot.toNat
    | none => 0
  BitVec.ofNat 64 ((List.range 4).foldl (fun a k => a + place k * 2 ^ (7 * k)) 0
    + t.nplace * 2 ^ 29 + (if t.weirEn then 2 ^ 32 else 0) + t.weirWin.toNat * 2 ^ 33)

/-- An MDRAIN keeps BUSY from its E to E + 29 (R193, R212). -/
def Tile.drainBusy (t : Tile) : Bool := t.drains.any fun d => d.age ≤ 29

/-- DRAINST (R193). -/
def Tile.drainst (t : Tile) : Word :=
  (0 : BitVec 55) ++ boolBit t.kz1 ++ boolBit t.kz0 ++ boolBit t.drainBusy ++ BitVec.ofNat 4 (t.tokens.length + t.newTokens.length) ++ t.cur

/-- TOWLAT (R43). -/
def Towline.latWord (t : Towline) : Word :=
  (0 : BitVec 32) ++ t.peer ++ (0 : BitVec 7) ++ boolBit t.up ++ (if t.up then t.lat else 0)

/-- ACC: how far the crew's count runs ahead of the reference, in 1/256 cycle, halves rounded up; 0 on the reference module (R62, R63). -/
def State.driftAcc (s : State) (run : CrewRun) : Int :=
  if s.isRef then 0 else max (-0x7FFFFF) (min 0x7FFFFF ((Config.phase s.time + 2 ^ 31) / 2 ^ 32 - 256 * run.driftC))

/-- DRIFTACC (R63). -/
def State.driftWord (s : State) (run : CrewRun) : Word :=
  run.since ++ run.lastAdj ++ (0 : BitVec 8) ++ BitVec.ofInt 24 (s.driftAcc run)

/-- SELVAR (R119). -/
def selvarWord (q : Selection) (grp : Nat) : Word :=
  (0 : BitVec 14) ++ q.bank ++ q.size.getD grp 0 ++ q.empty ++ (0 : BitVec 8) ++ (1 : BitVec 1) ++ (0 : BitVec 4) ++ q.cls ++ (0 : BitVec 5)
    ++ BitVec.ofNat 3 q.index
/-- SELOVF (R119). -/
def selovfWord (q : Selection) (grp : Nat) : Word :=
  (0 : BitVec 32) ++ q.excess.getD grp 0 ++ (0 : BitVec 8) ++ q.ovf

/-! ### Reading -/

/-- A crew register: 0 outside any crew. -/
def State.crewWord (s : State) (r : CoreRef) (f : Slot → Word) : Word :=
  match s.slotOf r with
  | some n => f (s.slot n)
  | none => 0

/-- A register the tile holds: zero on a feeder core (R383). -/
def State.tileWord (s : State) (r : CoreRef) (f : Tile → Word) : Word :=
  match r with
  | .tile id _ => f (s.tile id)
  | .feeder _ _ => 0

def State.dirtyMask (s : State) (r : CoreRef) : BitVec 16 :=
  match r with
  | .tile id _ => (s.tile id).dirtymask
  | .feeder f c => (s.feeder f).dirtymask[feederCore c]
def State.dirtyLog (s : State) (r : CoreRef) : Vector Word 64 :=
  match r with
  | .tile id _ => (s.tile id).dirtylog
  | .feeder f c => (s.feeder f).dirtylog[feederCore c]

/-- One half of a 128-bit register. -/
def half (d : BitVec 128) (hi : Bool) : Word := if hi then d.extractLsb' 64 64 else d.extractLsb' 0 64

/-- HOLDER of a feeder's window reads 0 (R383). -/
def State.shownWindow (s : State) (r : CoreRef) (i : Nat) : WinDesc :=
  let d := (s.windows r)[Fin.ofNat 16 i]
  if r.isFeeder then d.setHolder 0 else d

/-- The value SYSRD reads (R190). -/
def State.sysValue (s : State) (r : CoreRef) (n : Nat) : Word :=
  let c := s.core r
  let grp := (c.domain.extractLsb' 5 3).toNat
  if n = 0x000 then s.timeAt r
  else if n = 0x001 then (s.vcycOf r).zeroExtend 64
  else if n = 0x002 then s.crewWord r fun x => x.rec_.horizon.zeroExtend 64
  else if n = 0x003 then c.domain
  else if n = 0x004 then (0 : BitVec 32) ++ s.asidOf r ++ s.crewOf r
  else if n = 0x005 then match r with | .tile id w => s.tileIdWord id w | .feeder _ _ => 0
  else if n = 0x006 then (0 : BitVec 62) ++ boolBit c.ie ++ boolBit c.keeper
  else if n = 0x007 then trapPcWord c.trapPC
  else if n = 0x008 then trapCauseWord c.trapCause
  else if n = 0x009 then c.faultAddr
  else if n = 0x00A then c.fflags.zeroExtend 64
  else if n = 0x00B then c.cvmode.zeroExtend 64
  else if n = 0x00C then c.srkey
  else if n = 0x00D then s.tileWord r (·.latlast)
  else if n = 0x00E then s.tileWord r (·.weirstat)
  else if n = 0x00F then s.crewWord r fun x => s.driftWord x.run
  else if n = 0x010 then s.crewWord r fun x => match x.run.sel with | some q => selvarWord q grp | none => 0
  else if n = 0x011 then s.crewWord r fun x => match x.run.sel with | some q => selovfWord q grp | none => 0
  else if n = 0x012 then s.tileWord r (·.votelog)
  else if n = 0x013 then s.tileWord r (·.chstat)
  else if n = 0x014 then s.tileWord r fun t => t.ejflags.zeroExtend 64
  else if n = 0x015 then (match r with | .tile id _ => s.nbrWord id | .feeder _ _ => 0)
  else if n = 0x016 then (s.dirtyMask r).zeroExtend 64
  else if n = 0x017 then s.tileWord r (·.drainst)
  else if n < 0x040 then 0
  else if n < 0x080 then (s.towline (n - 0x040)).latWord
  else if n < 0x0C0 then (s.dirtyLog r)[Fin.ofNat 64 (n - 0x080)]
  else if n < 0x0E0 then half (s.shownWindow r ((n - 0x0C0) / 2)) (n % 2 == 1)
  else if n < 0x0E8 then s.tileWord r fun t => t.tapcfg[Fin.ofNat 8 (n - 0x0E0)]
  else if n < 0x0F0 then s.tileWord r fun t => t.arrmap[Fin.ofNat 8 (n - 0x0E8)]
  else if n < 0x100 then s.tileWord r fun t => t.ejdesc[Fin.ofNat 16 (n - 0x0F0)]
  else if n < 0x108 then s.tileWord r fun t => t.rfmt[Fin.ofNat 8 (n - 0x100)]
  else if n < 0x10C then s.tileWord r fun t => t.dcfg[Fin.ofNat 4 (n - 0x108)]
  else if n < 0x200 then 0
  else half ((s.rtab r).1[Fin.ofNat 256 ((n - 0x200) / 2)]) (n % 2 == 1)

/-- SYSRD: g[DST] at E + 1 with the value at E (R319); DRAINST's BUSY counts a drain that enters at E too (R193). -/
def execSysrd (d : Reg) (n : BitVec 12) (s : State) : Result :=
  guarded (.sysrd d n) s fun s =>
    let v := s.sysValue s.actor n.toNat
    if n = 0x017 then s.later 1 (.drainst d v) else s.laterG 1 d v

/-! ### Writing -/

/-- Reserved bits of DIRTYLOG, RFMT and DCFG ignore writes (R9, R204, R166, R210). -/
def maskLog (v : Word) : Word := v &&& 0xFFFFFFFFFFF00000
def maskRfmt (v : Word) : Word := v &&& 0xFDFF
def maskDcfg (v : Word) : Word := v &&& 0xFFE0FFFFFFFFFFE0

/-- A core's own register takes a value (R191, R192, R238); TRAPPC and a cleared DS discard the shadow (R239). -/
def Core.writeSys (c : Core) (n : Nat) (v : Word) : Core :=
  if n = 0x006 then { c with keeper := v.getLsbD 0, ie := v.getLsbD 1 }
  else if n = 0x007 then { c with trapPC := v.extractLsb' 3 16, shadow := none }
  else if n = 0x008 then
    let t := trapCauseOf v
    { c with trapCause := t, shadow := if t.ds = 0 then none else c.shadow }
  else if n = 0x009 then { c with faultAddr := v }
  else if n = 0x00A then { c with fflags := v.extractLsb' 0 7 }
  else if n = 0x00B then { c with cvmode := v.extractLsb' 0 5 }
  else if n = 0x00C then { c with srkey := v }
  else c

/-- A tile's register takes a value. -/
def Tile.writeSys (t : Tile) (n : Nat) (v : Word) : Tile :=
  if n = 0x012 then { t with votelog := 0 }
  else if n = 0x014 then { t with ejflags := t.ejflags &&& ~~~(v.extractLsb' 0 32) }
  else if n = 0x016 then { t with dirtymask := v.extractLsb' 0 16 }
  else if 0x080 ≤ n && n < 0x0C0 then { t with dirtylog := t.dirtylog.set (Fin.ofNat 64 (n - 0x080)) (maskLog v) }
  else if 0x108 ≤ n && n < 0x10C then { t with dcfg := t.dcfg.set (Fin.ofNat 4 (n - 0x108)) (maskDcfg v) }
  else t

/-- A feeder core's own dirty records take a value; the registers R383 lists ignore it. -/
def Feeder.writeSys (f : Feeder) (c : Nat) (n : Nat) (v : Word) : Feeder :=
  if n = 0x016 then { f with dirtymask := f.dirtymask.set (feederCore c) (v.extractLsb' 0 16) }
  else if 0x080 ≤ n && n < 0x0C0 then
    { f with dirtylog := f.dirtylog.set (feederCore c) ((f.dirtylog[feederCore c]).set (Fin.ofNat 64 (n - 0x080)) (maskLog v)) }
  else f

/-- A register of R190 takes a value at its write cycle; registers a keeper's write does not change ignore it. -/
def State.writeSys (s : State) (r : CoreRef) (n : Nat) (v : Word) : State :=
  let s := s.modCore r fun c => c.writeSys n v
  match r with
  | .tile id _ => s.modTile id fun t => t.writeSys n v
  | .feeder f c => s.modFeeder f fun x => x.writeSys c n v

/-- SYSWR of a register with no rule of its own: effect at E + 1 (R319). -/
def execSyswr (n : BitVec 12) (a : Reg) (s : State) : Result :=
  guarded (.syswr n a) s fun s => s.later 1 (.sys n (s.g a))

/-- FFLAGS (R319): the write of E + 1 comes before flags of the same cycle. -/
def execFflagsWrite (a : Reg) (s : State) : Result :=
  guarded (.fflagsWrite a) s fun s => s.later 1 (.sys 0x00A (s.g a))

/-- CVMODE: RND 5 to 7 takes ILLEGAL (R192). -/
def execCvmodeWrite (a : Reg) (s : State) : Result :=
  guarded (.cvmodeWrite a) s fun s =>
    if 5 ≤ (s.g a).toNat % 8 then s.raise Cause.illegal (BitVec.ofNat 64 s.wordAt) else s.later 1 (.sys 0x00B (s.g a))

/-- VOTELOG: clears every field (R182). -/
def execVotelogClear (a : Reg) (s : State) : Result :=
  guarded (.votelogClear a) s fun s => s.later 1 (.sys 0x012 (s.g a))

/-- EJFLAGS: clears the flags written with 1 (R164). -/
def execEjflagsClear (a : Reg) (s : State) : Result :=
  guarded (.ejflagsClear a) s fun s => s.later 1 (.sys 0x014 (s.g a))

/-! ### Registers whose writes take effect later -/

/-- A write of the acting core's unit that takes effect in `due` cycles. -/
def State.lateWrite (s : State) (n : Nat) (v : Word) (due : Nat) (free : Bool) : State :=
  let l : LateReg := { due := due, num := BitVec.ofNat 12 n, val := v, free := free }
  match s.actor with
  | .tile id _ => s.modTile id fun t => { t with late := t.late ++ [l] }
  | .feeder f c => s.modFeeder f fun x => { x with late := x.late ++ [(c, l)] }

/-- Writes of the acting core's unit that have not taken effect. -/
def State.lateOf (s : State) (r : CoreRef) : List LateReg :=
  match r with
  | .tile id _ => (s.tile id).late
  | .feeder f c => ((s.feeder f).late.filter fun x => x.1 == c || 0x200 ≤ x.2.num.toNat).map (·.2)

/-- One half of a descriptor replaced; HOLDER keeps its value (R194). -/
def writeHalf (d : WinDesc) (hi : Bool) (v : Word) : WinDesc :=
  if hi then v ++ d.extractLsb' 0 64
  else d.extractLsb' 64 64 ++ d.holder ++ (v.extractLsb' 15 44) ++ (0 : BitVec 15)

/-- A window as the writes already entered will leave it. -/
def State.nextWindow (s : State) (r : CoreRef) (i : Nat) : WinDesc :=
  (s.lateOf r).foldl (fun d l => if 0x0C0 ≤ l.num.toNat && l.num.toNat < 0x0E0 && (l.num.toNat - 0x0C0) / 2 = i
    then writeHalf d (l.num.toNat % 2 == 1) l.val else d) ((s.windows r)[Fin.ofNat 16 i])

/-- A descriptor that R195 refuses for window i. -/
def State.windowRefused (s : State) (r : CoreRef) (i : Nat) (d : WinDesc) : Bool :=
  d.valid && (
    2048 * 256 < d.base + d.size
    || (List.range 16).any (fun j => j ≠ i && let e := s.nextWindow r j
        e.valid && d.base < e.base + e.size && e.base < d.base + d.size)
    || 10 < d.fmt.toNat || 1 < d.blk.toNat || (d.blk == 1 && d.rowel % 16 ≠ 0)
    || (match r with
        | .tile id _ => (s.tile id).weirEn && (s.tile id).weirWin.toNat == i && d.size < 4096
        | .feeder _ _ => false))

/-- Reserved bits of a descriptor's half, which must be written zero (R9, R194). -/
def halfReserved (half : BitVec 5) (v : Word) : Bool := half.toNat % 2 = 0 && v.extractLsb' 0 15 ≠ 0

/-- WINDESC: the whole descriptor, or ILLEGAL; for accesses that enter at E + 2 or later (R9, R195). -/
def execWindescWrite (half : BitVec 5) (a : Reg) (s : State) : Result :=
  guarded (.windescWrite half a) s fun s =>
    let i := half.toNat / 2
    let d := writeHalf (s.nextWindow s.actor i) (half.toNat % 2 == 1) (s.g a)
    if halfReserved half (s.g a) || s.windowRefused s.actor i d then s.raise Cause.illegal (BitVec.ofNat 64 s.wordAt)
    else s.lateWrite (0x0C0 + half.toNat) (s.g a) 2 (!s.me.timed)

/-- A write that R139 ignores: reserved FMT or field, or LAM0 + WM1 above 15. -/
def tapRefused (v : Word) : Bool := v.extractLsb' 8 56 ≠ 0 || v.getLsbD 6
def mapReserved (v : Word) : Bool := v.extractLsb' 48 16 ≠ 0 || v.extractLsb' 8 6 ≠ 0 || 7 < (v.extractLsb' 26 4).toNat
def mapRefused (v : Word) : Bool := mapReserved v || 15 < (v.extractLsb' 16 4).toNat + (v.extractLsb' 20 3).toNat
/-- NEXT is set to FIRST by any write (R138). -/
def mapWritten (v : Word) : Word := (v &&& ~~~((0xF : Word) <<< 38)) ||| (((v >>> 30) &&& 0xF) <<< 38)

/-- A keeper's write of TAPCFG or ARRMAP: ignored and logged, or in effect from E + 1 once no block is being received (R139). -/
def State.tapWrite (s : State) (n : Nat) (refused : Bool) (v : Word) : State :=
  match s.actor with
  | .feeder _ _ => s
  | .tile id _ =>
    if refused then
      s.mcheck (BitVec.ofNat 64 n) (s.tile id).asid (s.tile id).crew 0 id 0x01 Cause.illegal
    else s.lateWrite n v 1 false

/-- TAPCFG (R139). -/
def execTapcfgWrite (i : BitVec 3) (a : Reg) (s : State) : Result :=
  guarded (.tapcfgWrite i a) s fun s => s.tapWrite (0x0E0 + i.toNat) (tapRefused (s.g a)) (s.g a)
/-- ARRMAP (R139). -/
def execArrmapWrite (i : BitVec 3) (a : Reg) (s : State) : Result :=
  guarded (.arrmapWrite i a) s fun s => s.tapWrite (0x0E8 + i.toNat) (mapRefused (s.g a)) (mapWritten (s.g a))

/-- RFMT: for injections at counts E + 2 or later (R182). -/
def execRfmtWrite (i : BitVec 3) (a : Reg) (s : State) : Result :=
  guarded (.rfmtWrite i a) s fun s => if s.actor.isFeeder then s else s.lateWrite (0x100 + i.toNat) (maskRfmt (s.g a)) 2 false

/-- EJDESC[j] := v with NEXT 0, for ejections at counts E + 2 or later; COUNT 0 or non-zero bits 4:0 are ILLEGAL (R162, R399). -/
def State.writeEjdesc (s : State) (j : BitVec 4) (v : Word) : State :=
  if v.extractLsb' 18 13 = 0 || v.extractLsb' 0 5 ≠ 0 then s.raise Cause.illegal (BitVec.ofNat 64 s.wordAt)
  else s.lateWrite (0x0F0 + j.toNat) (v &&& ~~~((0x1FFF : Word) <<< 5)) 2 false

/-- EJDESC: acts as TEJ (R162, R182); ignored on a feeder core (R383). -/
def execEjdescWrite (i : BitVec 4) (a : Reg) (s : State) : Result :=
  guarded (.ejdescWrite i a) s fun s => if s.actor.isFeeder then s else s.writeEjdesc i (s.g a)

/-- TEJ (R399). -/
def execTej (j : BitVec 4) (a : Reg) (s : State) : Result :=
  guarded (.tej j a) s fun s => s.writeEjdesc j (s.g a)

/-- One half of a route-table entry replaced; both halves of an entry are written together. -/
def withHalf (d : BitVec 128) (hi : Bool) (v : Word) : BitVec 128 := if hi then v ++ d.extractLsb' 0 64 else d.extractLsb' 64 64 ++ v

/-- A route-table entry as the writes already entered will leave it. -/
def State.nextRoute (s : State) (e : Nat) : BitVec 128 :=
  (s.lateOf s.actor).foldl (fun d l =>
    if 0x200 ≤ l.num.toNat && (l.num.toNat - 0x200) / 2 = e then
      withHalf d (l.num.toNat % 2 == 1) l.val else d)
    ((s.rtab s.actor).1[Fin.ofNat 256 e])

/-- RTAB[e] := v for heads that enter the injection interface at E + 2 or later, or ILLEGAL (R9, R176, R402). -/
def State.writeRoute (s : State) (e : Nat) (v : BitVec 128) : State :=
  if s.rtabRefused (s.rtab s.actor).2 v then s.raise Cause.illegal (BitVec.ofNat 64 s.wordAt)
  else (s.lateWrite (0x200 + 2 * e) (half v false) 2 false).lateWrite (0x201 + 2 * e) (half v true) 2 false

/-- RTAB: acts as TRTAB on the half named (R176, R182). -/
def execRtabWrite (half : BitVec 9) (a : Reg) (s : State) : Result :=
  guarded (.rtabWrite half a) s fun s =>
    let e := half.toNat / 2
    let d := s.nextRoute e
    s.writeRoute e (withHalf d (half.toNat % 2 == 1) (s.g a))

/-- TRTAB: RTAB[e] := cat(g[SB], g[SA]) (R402). -/
def execTrtab (e : BitVec 8) (a b : Reg) (s : State) : Result :=
  guarded (.trtab e a b) s fun s => s.writeRoute e.toNat (s.g b ++ s.g a)

/-! ### Arrival maps and taps (R137, R138) -/

/-- Fields of an arrival map (R138). -/
structure ArrMap where
  word : Word
def ArrMap.en (m : ArrMap) : Bool := m.word.getLsbD 47
def ArrMap.slen (m : ArrMap) : Bool := m.word.getLsbD 46
def ArrMap.sluice (m : ArrMap) : BitVec 4 := m.word.extractLsb' 42 4
def ArrMap.next (m : ArrMap) : BitVec 4 := m.word.extractLsb' 38 4
def ArrMap.first (m : ArrMap) : BitVec 4 := m.word.extractLsb' 30 4
def ArrMap.count (m : ArrMap) : Nat := (m.word.extractLsb' 34 4).toNat + 1
def ArrMap.fmt (m : ArrMap) : BitVec 4 := m.word.extractLsb' 26 4
def ArrMap.bsz (m : ArrMap) : BitVec 3 := m.word.extractLsb' 23 3
def ArrMap.size (m : ArrMap) : Nat := (m.bsz.toNat + 1) * 512
def ArrMap.width (m : ArrMap) : Nat := (m.word.extractLsb' 20 3).toNat + 1
def ArrMap.lam0 (m : ArrMap) : Nat := (m.word.extractLsb' 16 4).toNat
def ArrMap.lane (m : ArrMap) : BitVec 2 := m.word.extractLsb' 14 2
def ArrMap.group (m : ArrMap) : BitVec 8 := m.word.extractLsb' 0 8
def ArrMap.beats (m : ArrMap) : Nat := (m.size + 8 * m.width - 1) / (8 * m.width)
/-- NEXT one further around the ring. -/
def ArrMap.advance (m : ArrMap) : Word :=
  let d := (m.next - m.first).toNat
  let n := m.first + BitVec.ofNat 4 ((d + 1) % m.count)
  (m.word &&& ~~~((0xF : Word) <<< 38)) ||| (n.zeroExtend 64 <<< 38)

def Tile.map (t : Tile) (i : Nat) : ArrMap := ⟨t.arrmap[Fin.ofNat 8 i]⟩

/-- An enabled tap is tuned to a lane and wavelength (R137). -/
def Tile.tuned (t : Tile) (lane : BitVec 2) (lam : Nat) : Bool :=
  t.tapcfg.toList.any fun w => w.getLsbD 7 && w.extractLsb' 4 2 == lane && (w.extractLsb' 0 4).toNat == lam

/-- A start beat on a wavelength of a lane matches an enabled map (R140). -/
def ArrMap.matches (m : ArrMap) (lane : BitVec 2) (tag : BitVec 8) (l : Nat) : Bool :=
  m.en && m.group == tag && m.lane == lane && m.lam0 ≤ l && l < m.lam0 + m.width

/-- The maps for which start beats on some wavelengths begin a delivery (R140). -/
def Tile.startMaps (t : Tile) (lane : BitVec 2) (lams : BitVec 16) (tag : BitVec 8) : List Nat :=
  (List.range 8).filter fun i => (List.range 16).any fun l => lams.getLsbD l && t.tuned lane l && (t.map i).matches lane tag l

/-! ### Writes that take effect (R139, R162, R182, R195) -/

/-- A block is being received by a map, or through a tap, up to its c + 2 (R139, R141). -/
def Block.arriving (b : Block) : Bool := !b.lost && b.age ≤ b.beats + 1
def Tile.receives (t : Tile) (n : Nat) : Bool :=
  t.blocks.any fun b => b.arriving &&
    let m := t.arrmap[b.map.toNat]'(by omega)
    if n < 0x0E8 then
      let tap := t.tapcfg[Fin.ofNat 8 (n - 0x0E0)]
      tap.getLsbD 7 && tap.extractLsb' 4 2 == m.extractLsb' 14 2 &&
        (m.extractLsb' 16 4).toNat ≤ (tap.extractLsb' 0 4).toNat &&
        (tap.extractLsb' 0 4).toNat ≤ (m.extractLsb' 16 4).toNat + (m.extractLsb' 20 3).toNat
    else b.map.toNat == n - 0x0E8

/-- One write of a tile's registers takes effect. -/
def Tile.applyLate (t : Tile) (l : LateReg) : Tile :=
  let n := l.num.toNat
  if n < 0x0E0 then
    let i := Fin.ofNat 16 ((n - 0x0C0) / 2)
    { t with windesc := t.windesc.set i (writeHalf t.windesc[i] (n % 2 == 1) l.val) }
  else if n < 0x0E8 then { t with tapcfg := t.tapcfg.set (Fin.ofNat 8 (n - 0x0E0)) l.val }
  else if n < 0x0F0 then { t with arrmap := t.arrmap.set (Fin.ofNat 8 (n - 0x0E8)) l.val }
  else if n < 0x100 then
    { t with ejdesc := t.ejdesc.set (Fin.ofNat 16 (n - 0x0F0)) l.val
             ejecting := t.ejecting.map fun e => if e.ejd.toNat = n - 0x0F0 then { e with old := true } else e }
  else if n < 0x200 then { t with rfmt := t.rfmt.set (Fin.ofNat 8 (n - 0x100)) l.val }
  else
    let i := Fin.ofNat 256 ((n - 0x200) / 2)
    { t with rtab := t.rtab.set i (some (withHalf (t.rtab[i].getD 0) (n % 2 == 1) l.val)) }

/-- The cycle's count of the writes that wait: those due take effect in order; a tap or map that receives a block keeps its write. (log 43, DEDUCED) -/
def Tile.tickLate (t : Tile) (live : Bool) : Tile :=
  let l := t.late
  l.foldl (fun t x =>
    let x := if x.free || live then { x with due := x.due - 1 } else x
    let n := x.num.toNat
    if x.due = 0 && (x.free || live) && !(0x0E0 ≤ n && n < 0x0F0 && t.receives n) then t.applyLate x
    else { t with late := t.late ++ [x] }) { t with late := [] }

/-- The same for a feeder: windows of its cores' stores and its route table. -/
def Feeder.applyLate (f : Feeder) (c : Nat) (l : LateReg) : Feeder :=
  let n := l.num.toNat
  if n < 0x0E0 then
    let i := Fin.ofNat 16 ((n - 0x0C0) / 2)
    let w := f.windesc[feederCore c]
    { f with windesc := f.windesc.set (feederCore c) (w.set i (writeHalf w[i] (n % 2 == 1) l.val)) }
  else
    let i := Fin.ofNat 256 ((n - 0x200) / 2)
    { f with rtab := f.rtab.set i (some (withHalf (f.rtab[i].getD 0) (n % 2 == 1) l.val)) }

def Feeder.tickLate (f : Feeder) (live : Bool) : Feeder :=
  let l := f.late
  l.foldl (fun f x =>
    let y := if x.2.free || live then { x.2 with due := x.2.due - 1 } else x.2
    if y.due = 0 && (y.free || live) then f.applyLate x.1 y else { f with late := f.late ++ [(x.1, y)] }) { f with late := [] }

end Sys2Proof.Machine
end

