-- ==== Sys2Proof/Machine/Ports.lean ====
section
/-! DEFINITION. Stream ports: walks, steps, fetch and drain, opening and closing (spec 08 R201 to R205; 13 R331 to R334, R336). -/

namespace Sys2Proof.Machine

/-! ### Walks (R201, R202) -/

/-- Steps of a whole walk: the product of the counts. -/
def Port.period (p : Port) : Nat := p.dims.foldl (fun n d => n * (d.cntM1.toNat + 1)) 1

/-- Offset of step `n` of the walk from BASE: the sum of idx[k] × STRIDE[k], dimension 0 innermost. -/
def walkOffset : List Dim → Nat → Int
  | [], _ => 0
  | d :: r, n => (n % (d.cntM1.toNat + 1) : Nat) * d.stride.toInt + walkOffset r (n / (d.cntM1.toNat + 1))

/-- eod bits of the advance that leaves step `n`: bit k set when indices 0 to k were all at their last value. -/
def walkFlags (k : Nat) : List Dim → Nat → BitVec 10
  | [], _ => 0
  | d :: r, n =>
    if n % (d.cntM1.toNat + 1) = d.cntM1.toNat then (1 <<< k) ||| walkFlags (k + 1) r (n / (d.cntM1.toNat + 1)) else 0

/-- Tile-store address of step n. -/
def State.stepAddr (s : State) (r : CoreRef) (p : Port) (n : Nat) : Int :=
  (s.window r p.win).base + p.base.toNat + walkOffset p.dims n

/-- Bytes of a step. -/
def Port.bytes (p : Port) : Nat := 2 ^ p.gran

/-! ### Checks of a step (R203) -/

/-- The fault of a step at an address: against window WIN, alignment, and for a write the berth. -/
def State.stepFault (s : State) (r : CoreRef) (p : Port) (a : Int) : Option (BitVec 8 × Word) :=
  let d := s.window r p.win
  let c := s.core r
  let n := p.bytes
  if a < 0 || !(d.has a.toNat && d.has (a.toNat + n - 1)) || (!c.keeper && !(if p.write then d.uw else d.ur)) || (p.write && d.repl) then
    some (Cause.window, addrWord a)
  else if a.toNat % (min n 64) ≠ 0 then some (Cause.align, addrWord a)
  else if p.write && !r.isFeeder && d.holder ≠ holderOf r then some (Cause.berth, addrWord a)
  else none

/-- Bytes of a step cut into lines of 64 B, those with no bit to write left out of their line. -/
def cutLines (a : Nat) : Nat → List (Nat × Byte × Byte) → List (Nat × List (Nat × Byte × Byte))
  | 0, _ => []
  | n + 1, bs =>
    if bs.isEmpty then [] else (a, (bs.take 64).filter (·.2.2 != 0)) :: cutLines (a + 64) n (bs.drop 64)

/-- Bytes all of whose bits are written. -/
def allBits (bs : List Byte) : List (Byte × Byte) := bs.map fun b => (b, 0xFF)

/-- Bytes of which only some bits are written, over what the last store left. -/
def State.mergeBits (s : State) (r : CoreRef) (bs : List (Nat × Byte × Byte)) : List (Nat × Byte) :=
  (bs.filter (·.2.2 != 0)).map fun x => (x.1, (s.latest r x.1 &&& ~~~x.2.2) ||| (x.2.1 &&& x.2.2))

/-! ### Taking and writing a step -/

/-- The step taken advances the walk; its flags are visible from E + 1 (R202). -/
def State.advance (s : State) (p : PReg) : State :=
  let x := s.me.port p
  let s := s.modMe fun c => c.setPort p { x with pos := (x.pos + 1) % x.period }
  s.later 1 (.portFlags p (walkFlags 0 x.dims x.pos))

/-- A read step for an instruction that enters now: its bytes; the fault found at its fetch is raised here; a step not fetched is WHEEL in
a timed core and a stand in a free one (R203). (log 40, DEDUCED) -/
def State.takeStep (s : State) (i : Instr) (p : PReg) (k : List Byte → State → State) : State :=
  let x := s.me.port p
  if !(x.opened && !x.write && x.array = 0) then s.raise Cause.illegal (BitVec.ofNat 64 s.wordAt)
  else
    match x.fetched with
    | [] => if s.me.timed then s.raise Cause.wheel (addrWord (s.stepAddr s.actor x x.pos)) else s.standOp 1 i
    | st :: r =>
      match st.fault with
      | some (cause, a) => s.raise cause a
      | none => k st.data ((s.modMe fun c => c.setPort p { x with fetched := r }).advance p)

/-- A write step for an instruction that enters now: bytes, each with the bits it writes (R203, R328, R333). -/
def State.writeStep (s : State) (i : Instr) (p : PReg) (bs : List (Byte × Byte)) (k : State → State) : State :=
  let x := s.me.port p
  if !(x.opened && x.write && x.array = 0) then s.raise Cause.illegal (BitVec.ofNat 64 s.wordAt)
  else if 4 ≤ x.wbuf.length then
    if s.me.timed then s.raise Cause.wheel (addrWord (s.stepAddr s.actor x x.pos)) else s.standOp 1 i
  else
    let a := s.stepAddr s.actor x x.pos
    match s.stepFault s.actor x a with
    | some (cause, f) => s.raise cause f
    | none =>
      let a := a.toNat
      let cells := ((List.range bs.length).zip bs).map fun y => (a + y.1, y.2)
      let wrote := (cells.filter (·.2.2 != 0)).map (·.1)
      let x := { x with wbuf := x.wbuf ++ [⟨cutLines a (bs.length / 64 + 1) cells⟩]
                        lo := match wrote.head?, x.lo with
                          | some w, some l => some (min l w)
                          | some w, none => some w
                          | none, l => l
                        hi := max x.hi (wrote.getLastD 0) }
      k ((s.modMe fun c => c.setPort p x).advance p)

/-! ### DIRTYLOG (R204) -/

def logEntry (all : Bool) (win : BitVec 4) (hi lo : BitVec 19) : Word :=
  (1 : BitVec 1) ++ boolBit all ++ win ++ hi ++ lo ++ (0 : BitVec 20)
def logValid (e : Word) : Bool := e.getLsbD 63
def logWin (e : Word) : Nat := (e.extractLsb' 58 4).toNat

/-- The window with the most entries, the lowest number on a tie. -/
def busiest (es : List Word) : Nat :=
  let n (w : Nat) : Nat := es.countP fun e => logWin e == w
  (List.range 16).foldl (fun b w => if n b < n w then w else b) 0

/-- Append an entry; a full log first folds its busiest window into one entry with ALL set, whose bounds `fill` are free (log 5, DESIGN CHOICE). -/
def logAppend (log : Vector Word 64) (e : Word) (fill : Word) : Vector Word 64 :=
  let es := log.toList.filter logValid
  let es := if es.length < 64 then es
    else
      let w := busiest es
      let one := logEntry true (BitVec.ofNat 4 w) (fill.extractLsb' 0 19) (fill.extractLsb' 19 19)
      match es.findIdx? (fun x => logWin x == w) with
      | some i => es.take i ++ [one] ++ (es.drop i).filter fun x => logWin x != w
      | none => es
  let es := es ++ [e]
  Vector.ofFn fun i => es.getD i.val 0

/-- A write port that wrote at least one step deposits its range; WCOUNT of its window counts every close (R194, R204). -/
def State.closeWrite (s : State) (r : CoreRef) (x : Port) : State :=
  let s := s.setWindow r x.win (s.window r x.win).bumpCount
  match x.lo with
  | none => s
  | some lo =>
    let e := logEntry false x.win (BitVec.ofNat 19 x.hi) (BitVec.ofNat 19 lo)
    let (fill, s) := s.takeWord
    match r with
    | .tile id _ => s.modTile id fun t => { t with dirtylog := logAppend t.dirtylog e fill }
    | .feeder f c => s.modFeeder f fun y =>
        { y with dirtylog := y.dirtylog.set (feederCore c) (logAppend (y.dirtylog[feederCore c]) e fill) }

/-- An open port closes now: a write port deposits, a read port loses its fetched steps (R334). Buffered steps still drain. -/
def State.closePort (s : State) (r : CoreRef) (p : PReg) : State :=
  let x := (s.core r).port p
  if !x.opened then s
  else
    let s := if x.write then s.closeWrite r x else s
    s.modCore r fun c => c.setPort p { x with opened := false, fetched := [], partLines := [], partFault := none, partWide := none, lo := none, hi := 0 }

/-! ### PCFG, PCLOSE, PSTAT, PSEEK (R331, R334) -/

/-- Word k of a descriptor as a dimension; reserved bits must be zero. -/
def dimOf (w : Word) : Option Dim :=
  if w.extractLsb' 16 16 ≠ 0 then none else some { stride := w.extractLsb' 32 32, cntM1 := w.extractLsb' 0 16 }

/-- The fault of a read of n bytes of descriptor at a (R331). -/
def State.descFault (s : State) (a : Int) (n : Nat) : Option (BitVec 8) :=
  if a < 0 || Config.storeSize < a.toNat + n then some Cause.window
  else match s.windowAt s.actor a.toNat with
    | none => some Cause.window
    | some (_, d) =>
      if !(d.has (a.toNat + n - 1)) || (!s.me.keeper && !d.ur) then some Cause.window
      else if a.toNat % 8 ≠ 0 then some Cause.align
      else none

/-- A failing PCFG leaves its port closed. (log 40, DEDUCED) -/
def State.failPcfg (s : State) (p : PReg) (cause : BitVec 8) (a : Word) : State :=
  (s.raise cause a).modMe fun c => { c with shut := some p }

/-- Words of a descriptor, through the fetch path. -/
def State.fetchWords (s : State) (a : Nat) : Nat → List Word × State
  | 0 => ([], s)
  | n + 1 =>
    let (b, s) := s.fetchBytes s.actor a 8
    let (r, s) := s.fetchWords (a + 8) n
    (BitVec.ofNat 64 (leNat b) :: r, s)

/-- PCFG: closes the port if open, reads the descriptor, and opens it at E + 1 (R331). -/
def State.configure (s : State) (p : PReg) (a : Int) : State :=
  let s := s.closePort s.actor p
  let illegal := fun (s : State) => s.failPcfg p Cause.illegal (BitVec.ofNat 64 s.wordAt)
  match s.descFault a 8 with
  | some cause => s.failPcfg p cause (addrWord a)
  | none =>
    let (ws, s) := s.fetchWords a.toNat 1
    let w := ws.getD 0 0
    let ndm1 := (w.extractLsb' 32 4).toNat
    if 9 < ndm1 || 9 < (w.extractLsb' 41 4).toNat || w.extractLsb' 45 19 ≠ 0 || w.extractLsb' 19 13 ≠ 0 then illegal s
    else match s.descFault a (8 + 8 * (ndm1 + 1)) with
      | some cause => s.failPcfg p cause (addrWord a)
      | none =>
        let (ds, s) := s.fetchWords (a.toNat + 8) (ndm1 + 1)
        let dims := ds.filterMap dimOf
        let win := w.extractLsb' 36 4
        if dims.length ≠ ndm1 + 1 then illegal s
        else if !(s.window s.actor win).valid then s.failPcfg p Cause.window (addrWord a)
        else
          let old := s.me.port p
          let x : Port := { opened := false, write := w.getLsbD 40, win := win, gran := (w.extractLsb' 41 4).toNat,
                            base := w.extractLsb' 0 19, dims := dims, wbuf := old.wbuf }
          (s.modMe fun c => c.setPort p x).later 1 (.portOpen p)

/-- PCFG (R331). -/
def execPcfg (p : PReg) (base idx : Reg) (off : BitVec 19) (s : State) : Result :=
  guarded (.pcfg p base idx off) s fun s => s.configure p (s.ea base idx off)

/-- PCLOSE: the range is deposited at E, and no access is taken from E + 1 (R334). -/
def execPclose (p : PReg) (s : State) : Result :=
  guarded (.pclose p) s fun s =>
    let x := s.me.port p
    if !x.opened then s.raise Cause.illegal (BitVec.ofNat 64 s.wordAt)
    else
      let s := if x.write then s.closeWrite s.actor x else s
      (s.modMe fun c => c.modPort p fun x => { x with lo := none, hi := 0 }).later 1 (.portShut p)

/-- The word of R202; 0 for a closed port. -/
def Port.statWord (x : Port) : Word :=
  if !x.opened then 0
  else (1 : BitVec 1) ++ boolBit x.write ++ x.win ++ x.flags ++ (0 : BitVec 16) ++ x.steps

/-- PSTAT: the word as of E, at E + 4 (R334). -/
def execPstat (d : Reg) (p : PReg) (s : State) : Result :=
  guarded (.pstat d p) s fun s => s.laterG 4 d (s.me.port p).statWord

/-- PSEEK: step g[SB] mod T, flags clear; a read port fetches from there at E + 1 (R334). -/
def execPseek (p : PReg) (b : Reg) (s : State) : Result :=
  guarded (.pseek p b) s fun s =>
    let x := s.me.port p
    if !x.opened then s.raise Cause.illegal (BitVec.ofNat 64 s.wordAt)
    else
      let k := (s.g b).toNat % x.period
      s.modMe fun c => c.setPort p { x with pos := k, fpos := k, flags := 0, fetched := [], partLines := [], partFault := none, partWide := none, pause := true }

/-! ### Fetch and drain (R332) -/

/-- The core's agent owns the bank of an address now, and nothing of higher priority uses it in this cycle; a feeder's core store has no
wheel (R383). -/
def State.slotFree (s : State) (r : CoreRef) (a : Nat) : Bool :=
  match r with
  | .feeder _ _ => true
  | .tile id _ => bankAgent (s.wheelPhase id) (bankOf a) == r.agent && !((s.core r).banks.contains (bankOf a))

/-- Bytes an engine writes now for a core's agent, visible two cycles later (R223). -/
def State.engineStore (s : State) (r : CoreRef) (bytes : List (Nat × Byte)) : State := (s.store r bytes).useBanks r (bytes.map (·.1))

/-- A step of a port has drained: a FENCE that waits for it waits two cycles more for its bytes (R336). -/
def fenceDrained (p : PReg) : Wait × Bool → Wait × Bool
  | (.fence steps tail, b) =>
    if steps.any fun x => x.1 == p && x.2 ≠ 0 then
      (.fence (steps.map fun x => if x.1 = p then (p, x.2 - 1) else x) (max tail 3), b)
    else (.fence steps tail, b)
  | w => w

/-- Drain the oldest buffered line, if its slot is free. -/
def State.portDrain (s : State) (r : CoreRef) (p : PReg) : State :=
  let x := (s.core r).port p
  match x.wbuf with
  | [] => s
  | st :: rest =>
    match st.lines with
    | [] => s.modCore r fun c => c.setPort p { x with wbuf := rest }
    | (a, bs) :: more =>
      if !s.slotFree r a then s
      else
        let s := (s.engineStore r (s.mergeBits r bs)).useBanks r [a]
        if more.isEmpty then
          s.modCore r fun c => { c.setPort p { x with wbuf := rest } with waits := c.waits.map (fenceDrained p) }
        else s.modCore r fun c => c.setPort p { x with wbuf := ⟨more⟩ :: rest }

/-- Bytes of an output range of the drain that is not yet whole read old or new, granule by granule (R212). -/
def State.readRacing (s : State) (r : CoreRef) (addrs : List Nat) : List Byte × State :=
  let spans : List Nat := match r with
    | .tile id true => ((s.tile id).drains.filter fun (d : Drain) => 1 ≤ d.age && d.age ≤ 29).flatMap (·.span)
    | _ => []
  let hit := ((addrs.filter spans.contains).map (· / 8)).eraseDups
  let (new, s) := hit.foldl (fun (x : List Nat × State) g => let (b, s) := x.2.takeBool; (if b then g :: x.1 else x.1, s)) ([], s)
  (addrs.map fun a => if new.contains (a / 8) then s.latest r a else s.seen r a, s)

/-- A poisoned granule among bytes that are read. (log 40, DEDUCED) -/
def State.poisonFault (s : State) (r : CoreRef) (addrs : List Nat) : Option (BitVec 8 × Word) :=
  (s.poisonedAt r addrs).map fun g => (Cause.eccConsumed, BitVec.ofNat 64 (g / 8 * 8))

/-- Fetch the next line of the oldest unfetched step, if its slot is free; a step that fails its checks is fetched as its fault. (log 19, DEDUCED) -/
def State.portRead (s : State) (r : CoreRef) (p : PReg) : State :=
  let x := (s.core r).port p
  if !x.opened || x.write || x.array ≠ 0 || 4 ≤ x.fetched.length then s
  else
    let a := s.stepAddr r x x.fpos
    let whole (s : State) (st : Step) : State := s.modCore r fun c =>
      c.setPort p { x with fetched := x.fetched ++ [st], fpos := (x.fpos + 1) % x.period, partLines := [], partFault := none, partWide := none }
    match s.stepFault r x a with
    | some f => whole s { addr := a, data := [], fault := some f }
    | none =>
      let la := a.toNat + 64 * x.partLines.length
      if !s.slotFree r la then s
      else
        let addrs := (List.range (min 64 x.bytes)).map (la + ·)
        let far := if x.bytes ≤ 64 then [] else (List.range 64).map (a.toNat + 256 * x.partLines.length + ·)
        let (line, s) := s.readRacing r addrs
        let (wide, s) := s.readRacing r far
        let bad := x.partFault.or (s.poisonFault r addrs)
        let badWide := x.partWide.or (s.poisonFault r far)
        let lines := x.partLines ++ [(line, wide)]
        let s' := if 64 * lines.length < x.bytes then
            s.modCore r fun c => c.setPort p { x with partLines := lines, partFault := bad, partWide := badWide }
          else whole s { addr := a, data := lines.flatMap (·.1), fault := bad, wide := lines.flatMap (·.2), wideFault := badWide }
        s'.useBanks r [la]

/-- PORT_FETCH: a write port's line drains and a read port's line is fetched (R332). -/
def execPortFetch (core : CoreRef) (p : PReg) (s : State) : Result :=
  onUnit (s.coreOk core) <|
    let s := s.portDrain core p
    if ((s.core core).port p).pause then s.modCore core fun c => c.modPort p fun x => { x with pause := false }
    else s.portRead core p

/-- The port has something to fetch or drain. -/
def Port.busy (x : Port) : Bool := !x.wbuf.isEmpty || x.pause || (x.opened && !x.write && x.fetched.length < 4)

/-! ### FENCE (R336) -/

/-- Cycles until the bundle after a FENCE may issue on account of the worker's drains: 31 after a drain's entry. -/
def Tile.drainTail (t : Tile) : Nat := ((t.drains.filter (1 ≤ ·.age)).map fun d => 31 - d.age).foldl max 0

/-- FENCE: no bundle issues until the cycle after what is buffered, and the drains of the worker, are visible. -/
def execFence (s : State) : Result :=
  guarded .fence s fun s =>
    let c := s.me
    let steps := ((List.range 8).map fun i => let p : PReg := BitVec.ofNat 3 i; (p, (c.port p).wbuf.length)).filter (·.2 ≠ 0)
    let tail := if s.actor.isWorker then s.myTile.drainTail else 0
    if steps.isEmpty && tail = 0 then s else s.await (.fence steps tail)

/-- What a FENCE waits for is visible. -/
def fenceOver : Wait → Bool
  | .fence steps tail => tail == 0 && steps.all (·.2 == 0)
  | _ => false

/-- FENCE_RELEASE (R336). -/
def execFenceRelease (core : CoreRef) (s : State) : Result :=
  onUnit (s.coreOk core) <| s.endWait core fenceOver

end Sys2Proof.Machine
end

