-- ==== Sys2Proof/Machine/Numfmt.lean ====
section
/-! DEFINITION. Number formats and their arithmetic (spec 11 R257 to R272): exact values, rounding to a format, conversion, IEEE
operations, the stochastic draw. Every function answers its result with the FFLAGS it raises. -/

namespace Sys2Proof.Machine

/-! ### Exact values -/

/-- A number as an operand carries it: (-1)^neg × m × 2^e exactly, an infinity, or a NaN (signalling or quiet). -/
inductive Num where
  | fin (neg : Bool) (m : Nat) (e : Int)
  | inf (neg : Bool)
  | nan (sig : Bool)
  deriving DecidableEq, Repr

/-- The canonical NaN of any format, before encoding (R265). -/
def Num.qnan : Num := .nan false
def Num.zero : Num := .fin false 0 0
def Num.ofInt (x : Int) : Num := .fin (x < 0) x.natAbs 0
def Num.isNan : Num → Bool
  | .nan _ => true
  | _ => false
def Num.isZero : Num → Bool
  | .fin _ m _ => m == 0
  | _ => false
def Num.sign : Num → Bool
  | .fin n _ _ => n
  | .inf n => n
  | .nan _ => false
def Num.negate : Num → Num
  | .fin n m e => .fin (!n) m e
  | .inf n => .inf (!n)
  | x => x
def Num.magnitude : Num → Num
  | .fin _ m e => .fin false m e
  | .inf _ => .inf false
  | x => x
/-- NV for a signalling NaN (R265). -/
def Num.nv : Num → BitVec 7
  | .nan true => FFlag.nv
  | _ => 0

/-- Signed significand. -/
def sgn (neg : Bool) (m : Nat) : Int := if neg then -(m : Int) else m
/-- m × 2^e scaled to the smaller exponent `lo`. -/
def scaleTo (lo : Int) (x : Int) (e : Int) : Int := x * 2 ^ (e - lo).toNat
def Num.ofScaled (x : Int) (e : Int) : Num := .fin (x < 0) x.natAbs e

/-- Exact comparison of finite values and infinities; −0 equals +0. -/
def Num.lt : Num → Num → Bool
  | .fin n m e, .fin n' m' e' => let lo := min e e'; scaleTo lo (sgn n m) e < scaleTo lo (sgn n' m') e'
  | .inf n, .fin _ _ _ => n
  | .fin _ _ _, .inf n => !n
  | .inf n, .inf n' => n && !n'
  | _, _ => false
def Num.eq : Num → Num → Bool
  | .fin n m e, .fin n' m' e' => let lo := min e e'; scaleTo lo (sgn n m) e == scaleTo lo (sgn n' m') e'
  | .inf n, .inf n' => n == n'
  | _, _ => false

/-! ### IEEE formats (R257) -/

/-- Exponent and fraction widths. -/
structure Ieee where
  eb : Nat
  fb : Nat
  deriving DecidableEq, Repr

def fp32 : Ieee := ⟨8, 23⟩
def fp16 : Ieee := ⟨5, 10⟩
def bf16 : Ieee := ⟨8, 7⟩

def Ieee.bias (f : Ieee) : Int := 2 ^ (f.eb - 1) - 1
/-- Exponent of the smallest subnormal. -/
def Ieee.qmin (f : Ieee) : Int := 1 - f.bias - f.fb
/-- Encoding of +infinity, of the largest finite number, of the sign, of the canonical NaN. -/
def Ieee.infEnc (f : Ieee) : Nat := (2 ^ f.eb - 1) * 2 ^ f.fb
def Ieee.maxEnc (f : Ieee) : Nat := f.infEnc - 1
def Ieee.signEnc (f : Ieee) : Nat := 2 ^ (f.eb + f.fb)
def Ieee.nanEnc (f : Ieee) : Nat := f.infEnc + 2 ^ (f.fb - 1)

def Ieee.decode (f : Ieee) (bits : Nat) : Num :=
  let fr := bits % 2 ^ f.fb
  let ex := bits / 2 ^ f.fb % 2 ^ f.eb
  let neg := bits / f.signEnc % 2 == 1
  if ex = 2 ^ f.eb - 1 then (if fr = 0 then .inf neg else .nan (fr < 2 ^ (f.fb - 1)))
  else if ex = 0 then .fin neg fr f.qmin
  else .fin neg (fr + 2 ^ f.fb) (f.qmin + ex - 1)

/-! ### Rounding (R262, R263, R269) -/

/-- Whether the neighbour of larger magnitude is chosen for a value that lies `rem` parts of `all` above the smaller one, 0 < rem < all;
`odd`: the smaller one's encoding has bit 0 set; `r`: the draw. -/
def roundsAway (rnd : BitVec 3) (neg : Bool) (rem all : Nat) (odd : Bool) (r : Nat) : Bool :=
  match rnd.toNat with
  | 0 => all < 2 * rem || (all == 2 * rem && odd)
  | 1 => false
  | 2 => neg
  | 3 => !neg
  | _ => if neg then !(r < (all - rem) * 65536 / all) else r < rem * 65536 / all

/-- An overflowing magnitude stays at the largest finite one. -/
def overflowFinite (rnd : BitVec 3) (sat neg : Bool) : Bool :=
  sat || (match rnd.toNat with | 1 => true | 2 => !neg | 3 => neg | _ => false)

/-- A value m × 2^e cut at 2^q: quotient and, of 2^k parts, the remainder. -/
def cutAt (m : Nat) (e q : Int) : Nat × Nat × Nat :=
  if q ≤ e then (m * 2 ^ (e - q).toNat, 0, 1)
  else let k := (q - e).toNat; (m / 2 ^ k, m % 2 ^ k, 2 ^ k)

/-- A non-zero value is tiny: its rounding with an unbounded exponent lies below the smallest normal (R263, R267). (log 33, DEDUCED) -/
def Ieee.tiny (f : Ieee) (rnd : BitVec 3) (r : Nat) (neg : Bool) (m : Nat) (e : Int) : Bool :=
  let top := e + (Nat.log2 m : Nat)
  let emin := 1 - f.bias
  let (lo, rem, all) := cutAt m e (top - f.fb)
  let n := lo + (if rem ≠ 0 && roundsAway rnd neg rem all (lo % 2 == 1) r then 1 else 0)
  top < emin && n < 2 ^ (emin - top + f.fb).toNat

/-- A finite value rounded to an IEEE format: encoding and flags. (log 33, DEDUCED) -/
def Ieee.round (f : Ieee) (rnd : BitVec 3) (sat : Bool) (r : Nat) (neg : Bool) (m : Nat) (e : Int) : Nat × BitVec 7 :=
  let s := if neg then f.signEnc else 0
  if m = 0 then (s, 0)
  else
    let q := max (e + (Nat.log2 m : Nat) - f.fb) f.qmin
    let (lo, rem, all) := cutAt m e q
    let mag := (q - f.qmin).toNat * 2 ^ f.fb + lo + (if rem ≠ 0 && roundsAway rnd neg rem all (lo % 2 == 1) r then 1 else 0)
    if f.infEnc ≤ mag then (s + (if overflowFinite rnd sat neg then f.maxEnc else f.infEnc), FFlag.of ||| FFlag.nx)
    else (s + mag, (if rem = 0 then 0 else FFlag.nx ||| (if f.tiny rnd r neg m e then FFlag.uf else 0)))

/-- Any value to an IEEE format (R262 to R265). -/
def Ieee.encode (f : Ieee) (rnd : BitVec 3) (sat : Bool) (r : Nat) : Num → Nat × BitVec 7
  | .fin neg m e => f.round rnd sat r neg m e
  | .inf neg => ((if neg then f.signEnc else 0) + f.infEnc, 0)
  | .nan sig => (f.nanEnc, if sig then FFlag.nv else 0)

/-- FP32 lanes. -/
def f32 (b : BitVec 32) : Num := fp32.decode b.toNat
def toF32 (rnd : BitVec 3) (sat : Bool) (r : Nat) (x : Num) : BitVec 32 × BitVec 7 :=
  let y := fp32.encode rnd sat r x
  (BitVec.ofNat 32 y.1, y.2)
/-- rne_fp32 (R268). -/
def rneF32 (x : Num) : BitVec 32 × BitVec 7 := toF32 0 false 0 x
/-- The FP32 number nearest a value. -/
def rne (x : Num) : Num := f32 (rneF32 x).1

/-! ### DM8 (R259, R260) -/

/-- The value of a DM8 byte (R259). -/
def dm8Decode (x : Nat) : Num :=
  let s := x / 128 % 2 == 1
  let d := x / 64 % 2
  let m := x % 64
  if m = 0 then
    if d = 0 then (if s then .qnan else .zero) else .inf s
  else
    let q := Nat.log2 m
    let z := 5 - q
    let k : Int := if d = 1 then z else -(z + 1)
    let b := m - 2 ^ q
    let w := min q 2
    let fw := q - 2
    let e : Int := b / 2 ^ (q - w) * 2 ^ (2 - w)
    .fin s (2 ^ fw + b % 2 ^ fw) (4 * k + e - fw)

/-- The codes of +0 and the positive finite values, in order of magnitude (R260). -/
def dm8Order : List Nat :=
  List.range 64 ++ (List.range 32).map (0x60 + ·) ++ (List.range 16).map (0x50 + ·) ++ (List.range 8).map (0x48 + ·)
    ++ (List.range 4).map (0x44 + ·) ++ [0x42, 0x43, 0x41]

/-- Magnitude of a code in units of 2^-24. -/
def dm8Scaled (c : Nat) : Nat :=
  match dm8Decode c with
  | .fin _ m e => m * 2 ^ (e + 24).toNat
  | _ => 0

/-- The last code of a list whose magnitude is not above x, and the next one; x and the codes scaled alike by `u`. -/
def dm8Bracket (x u : Nat) : Nat → List Nat → Nat × Option Nat
  | lo, [] => (lo, none)
  | lo, c :: r => if dm8Scaled c * u ≤ x then dm8Bracket x u c r else (lo, some c)

/-- A finite value rounded to DM8 (R262, R263). -/
def dm8Round (rnd : BitVec 3) (sat : Bool) (r : Nat) (neg : Bool) (m : Nat) (e : Int) : Nat × BitVec 7 :=
  let u := 2 ^ (-(e + 24)).toNat
  let x := m * 2 ^ (e + 24).toNat
  let put (c : Nat) : Nat := if neg && c ≠ 0 then c + 128 else c
  match dm8Bracket x u 0 dm8Order with
  | (lo, none) =>
    if dm8Scaled lo * u = x then (put lo, 0)
    else (put (if overflowFinite rnd sat neg then 0x41 else 0x40), FFlag.of ||| FFlag.nx)
  | (lo, some hi) =>
    let rem := x - dm8Scaled lo * u
    let all := dm8Scaled hi * u - dm8Scaled lo * u
    if rem = 0 then (put lo, 0)
    else
      let odd := lo % 2 == 1 && hi % 2 == 0
      (put (if roundsAway rnd neg rem all odd r then hi else lo), FFlag.nx ||| (if lo = 0 then FFlag.uf else 0))

def dm8Encode (rnd : BitVec 3) (sat : Bool) (r : Nat) : Num → Nat × BitVec 7
  | .fin neg m e => dm8Round rnd sat r neg m e
  | .inf neg => (if neg then 0xC0 else 0x40, 0)
  | .nan sig => (0x80, if sig then FFlag.nv else 0)

/-! ### Integers (R264) -/

/-- A finite value rounded to an integer, and whether it was not one. -/
def roundInt (rnd : BitVec 3) (r : Nat) (neg : Bool) (m : Nat) (e : Int) : Int × Bool :=
  let (lo, rem, all) := cutAt m e 0
  let mag := lo + (if rem ≠ 0 && roundsAway rnd neg rem all (lo % 2 == 1) r then 1 else 0)
  (sgn neg mag, rem ≠ 0)

/-- An integer format. -/
structure IntFmt where
  width : Nat
  signed : Bool
  deriving DecidableEq, Repr

def i8 : IntFmt := ⟨8, true⟩
def u8 : IntFmt := ⟨8, false⟩
def i16 : IntFmt := ⟨16, true⟩
def i32 : IntFmt := ⟨32, true⟩
def u32 : IntFmt := ⟨32, false⟩
def i64 : IntFmt := ⟨64, true⟩
/-- A LUT4 code as a target (R261). -/
def lut4 : IntFmt := ⟨4, false⟩

def IntFmt.min (f : IntFmt) : Int := if f.signed then -(2 ^ (f.width - 1)) else 0
def IntFmt.max (f : IntFmt) : Int := if f.signed then 2 ^ (f.width - 1) - 1 else 2 ^ f.width - 1
/-- An integer as the format's bits. -/
def IntFmt.wrap (f : IntFmt) (x : Int) : Nat := (x % (2 ^ f.width : Int)).toNat
/-- Bits as an integer. -/
def IntFmt.value (f : IntFmt) (b : Nat) : Int :=
  let u := b % 2 ^ f.width
  if f.signed && 2 ^ (f.width - 1) ≤ u then u - 2 ^ f.width else u
/-- An integer clamped or wrapped into the format. -/
def IntFmt.narrow (f : IntFmt) (sat : Bool) (x : Int) : Nat × BitVec 7 :=
  if sat && x < f.min then (f.wrap f.min, FFlag.sat)
  else if sat && f.max < x then (f.wrap f.max, FFlag.sat)
  else (f.wrap x, 0)

/-- Any value to an integer format. -/
def IntFmt.encode (f : IntFmt) (rnd : BitVec 3) (sat : Bool) (r : Nat) : Num → Nat × BitVec 7
  | .nan _ => (0, FFlag.nv)
  | .inf neg => if sat then (f.wrap (if neg then f.min else f.max), FFlag.nv ||| FFlag.sat) else (0, FFlag.nv)
  | .fin neg m e =>
    let (x, inexact) := roundInt rnd r neg m e
    let y := f.narrow sat x
    (y.1, y.2 ||| (if inexact then FFlag.nx else 0))

/-! ### Formats as sources and targets -/

inductive NumFmt where
  | ieee (f : Ieee)
  | int (f : IntFmt)
  | dm8
  deriving DecidableEq, Repr

def NumFmt.decode (f : NumFmt) (b : Nat) : Num :=
  match f with
  | .ieee g => g.decode b
  | .int g => .ofInt (g.value b)
  | .dm8 => dm8Decode b

/-- convert(y, F, RND, SAT) with draw r (R268); the SAT of R263 for integer and for other targets. -/
def NumFmt.encode (f : NumFmt) (rnd : BitVec 3) (satInt satFlt : Bool) (r : Nat) (x : Num) : Nat × BitVec 7 :=
  match f with
  | .ieee g => g.encode rnd satFlt r x
  | .int g => g.encode rnd satInt r x
  | .dm8 => dm8Encode rnd satFlt r x

/-! ### IEEE operations (R265, R267): exact result, before its one rounding, and NV -/

/-- Exact sum; an exact zero has the sign of R267. -/
def Num.add (rnd : BitVec 3) (a b : Num) : Num × BitVec 7 :=
  match a, b with
  | .nan x, y => (.qnan, (Num.nan x).nv ||| y.nv)
  | x, .nan y => (.qnan, x.nv ||| (Num.nan y).nv)
  | .inf n, .inf n' => if n = n' then (.inf n, 0) else (.qnan, FFlag.nv)
  | .inf n, _ => (.inf n, 0)
  | _, .inf n => (.inf n, 0)
  | .fin n m e, .fin n' m' e' =>
    let lo := min e e'
    let s := scaleTo lo (sgn n m) e + scaleTo lo (sgn n' m') e'
    if s = 0 then (.fin (if n = n' then n else rnd = 2) 0 0, 0) else (.ofScaled s lo, 0)

/-- Exact product. -/
def Num.mul (a b : Num) : Num × BitVec 7 :=
  match a, b with
  | .nan x, y => (.qnan, (Num.nan x).nv ||| y.nv)
  | x, .nan y => (.qnan, x.nv ||| (Num.nan y).nv)
  | .inf n, .inf n' => (.inf (n != n'), 0)
  | .inf n, .fin n' m _ => if m = 0 then (.qnan, FFlag.nv) else (.inf (n != n'), 0)
  | .fin n m _, .inf n' => if m = 0 then (.qnan, FFlag.nv) else (.inf (n != n'), 0)
  | .fin n m e, .fin n' m' e' => (.fin (n != n') (m * m') (e + e'), 0)

/-- Exact a × b + c. -/
def Num.fma (rnd : BitVec 3) (a b c : Num) : Num × BitVec 7 :=
  let p := a.mul b
  let s := p.1.add rnd c
  (s.1, p.2 ||| s.2)

/-- maximumNumber: a number and a NaN give the number; −0 orders below +0. -/
def Num.maxNum (a b : Num) : Num × BitVec 7 :=
  let fl := a.nv ||| b.nv
  if a.isNan then (if b.isNan then .qnan else b, fl)
  else if b.isNan then (a, fl)
  else (if a.lt b || (a.eq b && a.sign) then b else a, fl)
/-- minimumNumber. -/
def Num.minNum (a b : Num) : Num × BitVec 7 :=
  let fl := a.nv ||| b.nv
  if a.isNan then (if b.isNan then .qnan else b, fl)
  else if b.isNan then (a, fl)
  else (if b.lt a || (a.eq b && b.sign) then b else a, fl)

/-- Exact sum of finite values: scaled sum and exponent. -/
def exactSum : List (Bool × Nat × Int) → Int × Int
  | [] => (0, 0)
  | (n, m, e) :: r =>
    let (s, q) := exactSum r
    if m = 0 then (s, q) else if s = 0 then (sgn n m, e)
    else
      let lo := min e q
      (scaleTo lo (sgn n m) e + scaleTo lo s q, lo)

/-! ### The draw of stochastic rounding (R270) -/

def drawOf (row col : Nat) (srkey : Word) (srkw wcount : BitVec 32) : Nat :=
  let c : BitVec 32 := BitVec.ofNat 20 row ++ BitVec.ofNat 12 col
  let x : Word := ((wcount ^^^ srkw) ++ c) ^^^ srkey
  let x := x * 0x9E3779B97F4A7C15
  let x := x ^^^ (x >>> 32)
  let x := x * 0x0001000000010001
  (x >>> 48).toNat

/-! ### The reduction formats (R271, R272) -/

/-- Flags of a lane in a token's trailer. -/
inductive FixFlag where | none | sat | inv
  deriving DecidableEq, Repr

/-- fix(x, LSB, P, H). -/
def fixOf (x : Num) (lsb : Int) (p h : Nat) : Int × FixFlag :=
  match x with
  | .fin neg m e =>
    let n := (roundInt 0 0 neg m (e - lsb)).1
    let lim : Int := 2 ^ (p - h) - 1
    if lim < n then (lim, .sat) else if n < -lim then (-lim, .sat) else (n, .none)
  | _ => (0, .inv)

/-- A lane's N under OUTF 1, 2 or 3 (R272); `inv`: the lane has INV. -/
def ejectLane (outf : BitVec 2) (lsb : Int) (inv : Bool) (n : Int) : Word :=
  match outf.toNat with
  | 1 => if inv then 0x7FC00000 else ((rneF32 (.fin (n < 0) n.natAbs lsb)).1).zeroExtend 64
  | 2 => if inv then 0 else BitVec.ofNat 64 (i32.encode 0 true 0 (.fin (n < 0) n.natAbs lsb)).1
  | _ => BitVec.ofInt 64 n

end Sys2Proof.Machine
end

