-- ==== Sys2Proof/Machine/Special.lean ====
section
/-! DEFINITION. The special functions (spec 11 R273 to R278): VRCP, VRSQ, VSQRT, VEXP2, VLOG2, VTANH, VSIGM, each on the value of an
FP32 lane, answering the FP32 value and its NV and DZ. -/

namespace Sys2Proof.Machine

/-! ### Steps: every step rounds once by nearest-even (R273) -/

def mulR (a b : Num) : Num := rne (a.mul b).1
def addR (a b : Num) : Num := rne (a.add 0 b).1
def subR (a b : Num) : Num := addR a b.negate
def fmaR (a b c : Num) : Num := rne (a.fma 0 b c).1
/-- A value times 2^k, exactly. -/
def Num.shift (x : Num) (k : Int) : Num :=
  match x with
  | .fin n m e => .fin n m (e + k)
  | y => y
def one : Num := .fin false 1 0

/-! ### Tables and constants -/

/-- The largest y below 2^n that a downward closed test accepts. -/
def largest (p : Nat → Bool) : Nat → Nat → Nat
  | 0, y => y
  | n + 1, y => if p (y + 2 ^ n) then largest p n (y + 2 ^ n) else largest p n y

/-- A table entry from its 25 leading bits: the nearest 24-bit significand, no entry being a tie. -/
def entry25 (y : Nat) (e : Int) : Num := .fin false ((y + 1) / 2) e

/-- TR[i] = rne(1 / (1 + (2i + 1)/256)) (R274). -/
def tableTR (i : Nat) : Num := entry25 (2 ^ 25 * 256 / (257 + 2 * i)) (-24)
/-- TR2[j] = rne(1 / (1 + j/128)) (R277). -/
def tableTR2 (j : Nat) : Num := entry25 (2 ^ 25 * 128 / (128 + j)) (-24)
/-- TS[j] = rne(1 / sqrt(w)), w = (1 + (2 × low six bits + 1)/128), doubled when the top bit is set (R275). -/
def tableTS (j : Nat) : Num :=
  let w := (129 + 2 * (j % 64)) * (1 + j / 64)
  entry25 (largest (fun y => y * y * w ≤ 2 ^ 50 * 128) 26 0) (-24)
/-- TE[j] = rne(2^(j/64)) (R276). -/
def tableTE (j : Nat) : Num := entry25 (largest (fun y => y ^ 64 ≤ 2 ^ (j + 64 * 24)) 26 0) (-23)

/-- TL[j] = rne(-log2(TR2[j])), FP32 bits (R277). -/
def tableTL : List (BitVec 32) :=
  [0x00000000, 0x3C37F28B, 0x3CB73CB3, 0x3D08E68D, 0x3D35D690, 0x3D626FCC, 0x3D8759C9, 0x3D9D5182] ++
  [0x3DB31FB7, 0x3DC8C50D, 0x3DDE420E, 0x3DF3975C, 0x3E0462C4, 0x3E0EE690, 0x3E195751, 0x3E23B551] ++
  [0x3E2E00D1, 0x3E383A17, 0x3E42615F, 0x3E4C76EA, 0x3E567AEF, 0x3E606DB6, 0x3E6A4F70, 0x3E74205F] ++
  [0x3E7DE0B5, 0x3E83C856, 0x3E88983F, 0x3E8D602E, 0x3E92203D, 0x3E96D887, 0x3E9B8925, 0x3EA03234] ++
  [0x3EA4D3C2, 0x3EA96DEF, 0x3EAE00D1, 0x3EB28C80, 0x3EB71110, 0x3EBB8E97, 0x3EC0052D, 0x3EC474E2] ++
  [0x3EC8DDD3, 0x3ECD4011, 0x3ED19BAF, 0x3ED5F0C3, 0x3EDA3F60, 0x3EDE8798, 0x3EE2C97E, 0x3EE70525] ++
  [0x3EEB3A9E, 0x3EEF69FF, 0x3EF39355, 0x3EF7B6B5, 0x3EFBD42A, 0x3EFFEBCB, 0x3F01FED4, 0x3F0404E8] ++
  [0x3F060828, 0x3F08089D, 0x3F0A0650, 0x3F0C0146, 0x3F0DF98A, 0x3F0FEF1F, 0x3F11E20E, 0x3F13D260] ++
  [0x3F15C01A, 0x3F17AB44, 0x3F1993E4, 0x3F1B79FF, 0x3F1D5DA0, 0x3F1F3ECA, 0x3F211D84, 0x3F22F9D5] ++
  [0x3F24D3C3, 0x3F26AB53, 0x3F28808D, 0x3F2A5375, 0x3F2C2410, 0x3F2DF268, 0x3F2FBE7F, 0x3F31885D] ++
  [0x3F335004, 0x3F35157E, 0x3F36D8CA, 0x3F3899F4, 0x3F3A58FE, 0x3F3C15EE, 0x3F3DD0C9, 0x3F3F8991] ++
  [0x3F41404E, 0x3F42F506, 0x3F44A7BB, 0x3F465873, 0x3F480731, 0x3F49B3FA, 0x3F4B5ED6, 0x3F4D07C5] ++
  [0x3F4EAECF, 0x3F5053F6, 0x3F51F740, 0x3F5398AF, 0x3F553847, 0x3F56D60F, 0x3F58720A, 0x3F5A0C3A] ++
  [0x3F5BA4A5, 0x3F5D3B4E, 0x3F5ED038, 0x3F60636B, 0x3F61F4E5, 0x3F6384AF, 0x3F6512C6, 0x3F669F36] ++
  [0x3F6829FA, 0x3F69B31C, 0x3F6B3AA0, 0x3F6CC084, 0x3F6E44CF, 0x3F6FC782, 0x3F7148A2, 0x3F72C831] ++
  [0x3F744636, 0x3F75C2B1, 0x3F773DA2, 0x3F78B713, 0x3F7A2F03, 0x3F7BA577, 0x3F7D1A71, 0x3F7E8DF1]

/-- C1 = rne(ln 2), C2 = rne((ln 2)²/2), C3 = rne((ln 2)³/6) (R276). -/
def constC1 : Num := f32 0x3F317218
def constC2 : Num := f32 0x3E75FDF0
def constC3 : Num := f32 0x3D635847
/-- D1 = rne(1/ln 2), D2 = rne(-1/(2 ln 2)), D3 = rne(1/(3 ln 2)) (R277). -/
def constD1 : Num := f32 0x3FB8AA3B
def constD2 : Num := f32 0xBF38AA3B
def constD3 : Num := f32 0x3EF6384F
/-- L2E = rne(log2 e), G3 = rne(-1/3), G5 = rne(2/15) (R278). -/
def constL2E : Num := f32 0x3FB8AA3B
def constG3 : Num := f32 0xBEAAAAAB
def constG5 : Num := f32 0x3E088889

/-! ### The functions -/

/-- x = ±2^e × m with m in [1, 2): e, and the significand in 24 bits. -/
def splitF32 (m : Nat) (e : Int) : Int × Nat :=
  let n := Nat.log2 m
  (e + n, if n ≤ 23 then m * 2 ^ (23 - n) else m / 2 ^ (n - 23))

/-- VRCP (R274). -/
def rcpOf (x : Num) : Num × BitVec 7 :=
  match x with
  | .nan s => (.qnan, (Num.nan s).nv)
  | .inf n => (.fin n 0 0, 0)
  | .fin n m0 e0 =>
    if m0 = 0 then (.inf n, FFlag.dz)
    else
      let (e, sg) := splitF32 m0 e0
      let m : Num := .fin false sg (-23)
      let t := tableTR (sg / 2 ^ 16 % 128)
      let g := fmaR m.negate t one
      let y := fmaR t g t
      let g := fmaR m.negate y one
      let y := fmaR y g y
      (rne ((if n then y.negate else y).shift (-e)), 0)

/-- The shared steps of VRSQ and VSQRT: u, y and h (R275). -/
def rsqSteps (m0 : Nat) (e0 : Int) : Num × Num × Int :=
  let (e, sg) := splitF32 m0 e0
  let odd := e % 2 = 1
  let u : Num := .fin false sg (if odd then -22 else -23)
  let h := if odd then (e - 1) / 2 else e / 2
  let step (y : Num) : Num :=
    let s := mulR u y
    let g := fmaR s.negate y one
    fmaR (rne (y.shift (-1))) g y
  (u, step (step (tableTS ((if odd then 64 else 0) + sg / 2 ^ 17 % 64))), h)

/-- VRSQ (R275). -/
def rsqOf (x : Num) : Num × BitVec 7 :=
  match x with
  | .nan s => (.qnan, (Num.nan s).nv)
  | .inf n => if n then (.qnan, FFlag.nv) else (.zero, 0)
  | .fin n m e =>
    if m = 0 then (.inf n, FFlag.dz)
    else if n then (.qnan, FFlag.nv)
    else
      let (_, y, h) := rsqSteps m e
      (rne (y.shift (-h)), 0)

/-- VSQRT (R275). -/
def sqrtOf (x : Num) : Num × BitVec 7 :=
  match x with
  | .nan s => (.qnan, (Num.nan s).nv)
  | .inf n => if n then (.qnan, FFlag.nv) else (.inf false, 0)
  | .fin n m e =>
    if m = 0 then (.fin n 0 0, 0)
    else if n then (.qnan, FFlag.nv)
    else
      let (u, y, h) := rsqSteps m e
      let s := mulR u y
      let g := fmaR s.negate s u
      let s := fmaR (rne (y.shift (-1))) g s
      (rne (s.shift h), 0)

/-- floor(x × 64) of a finite value, and x less that many 64ths, exactly. -/
def floor64 (n : Bool) (m : Nat) (e : Int) : Int × Num :=
  let k := (roundInt 2 0 n m (e + 6)).1
  (k, (Num.add 0 (.fin n m e) (.ofScaled (-k) (-6))).1)

/-- VEXP2 (R276). -/
def exp2Of (x : Num) : Num × BitVec 7 :=
  match x with
  | .nan s => (.qnan, (Num.nan s).nv)
  | .inf n => (if n then .zero else .inf false, 0)
  | .fin n m e =>
    if !(x.lt (.fin false 128 0)) then (.inf false, 0)
    else if x.lt (.fin true 150 0) then (.zero, 0)
    else
      let (k, f) := floor64 n m e
      let t := tableTE (k % 64).toNat
      let p := fmaR constC3 f constC2
      let p := fmaR p f constC1
      let p := mulR p f
      let y := fmaR t p t
      (rne (y.shift (k / 64)), 0)

/-- VLOG2 (R277). -/
def log2Of (x : Num) : Num × BitVec 7 :=
  match x with
  | .nan s => (.qnan, (Num.nan s).nv)
  | .inf n => if n then (.qnan, FFlag.nv) else (.inf false, 0)
  | .fin n m0 e0 =>
    if m0 = 0 then (.inf true, FFlag.dz)
    else if n then (.qnan, FFlag.nv)
    else
      let (e, sg) := splitF32 m0 e0
      let j := sg / 2 ^ 16 % 128
      let u := fmaR (.fin false sg (-23)) (tableTR2 j) one.negate
      let p := fmaR constD3 u constD2
      let p := fmaR p u constD1
      let p := mulR p u
      let y := addR (f32 (tableTL.getD j 0)) p
      (addR (.ofInt e) y, 0)

/-- VTANH (R278). -/
def tanhOf (x : Num) : Num × BitVec 7 :=
  match x with
  | .nan s => (.qnan, (Num.nan s).nv)
  | _ =>
    let a := x.magnitude
    let y :=
      if !(a.lt (.fin false 9 0)) then one
      else if a.lt (.fin false 1 (-2)) then
        let s := mulR a a
        let p := fmaR s constG5 constG3
        let p := mulR p s
        fmaR p a a
      else
        let w := (exp2Of ((mulR constL2E a).negate.shift 1)).1
        mulR (subR one w) (rcpOf (addR one w)).1
    (if x.sign then y.negate else y, 0)

/-- VSIGM (R278). -/
def sigmOf (x : Num) : Num × BitVec 7 :=
  match x with
  | .nan s => (.qnan, (Num.nan s).nv)
  | _ =>
    let w := (exp2Of (mulR constL2E x).negate).1
    ((rcpOf (addR one w)).1, 0)

end Sys2Proof.Machine
end

