-- ==== Sys2Proof/Machine/Vector.lean ====
section
/-! DEFINITION. The V column beside the automaton tables: lanes, arithmetic, compares, conversions, reductions, moves, VHASH and VSAMPLE
(spec 14 R340 to R361, R368 to R370). -/

namespace Sys2Proof.Machine

/-! ### Lanes (R340, R341) -/

/-- Lanes of a fold. -/
def laneCount (f : BitVec 2) : Nat := 8 * foldBeats f
/-- All lanes of a fold. -/
def foldMask (f : BitVec 2) : Word := BitVec.allOnes 64 >>> (64 - laneCount f)
/-- The active lanes. -/
def State.active (s : State) (f : BitVec 2) (k : KReg) : Word := s.k k &&& foldMask f
def lane (x : VReg) (i : Fin 64) : BitVec 32 := x[i]
/-- Indices of the active lanes, rising. -/
def lanesOf (mask : Word) : List (Fin 64) := (List.finRange 64).filter fun i => mask.getLsbD i.val

/-- Flags of the active lanes. -/
def orFlags (l : List (BitVec 7)) : BitVec 7 := l.foldl (· ||| ·) 0

/-- A result in the active lanes, written with its flags `n` cycles after entry. -/
def State.laterLanes (s : State) (n : Nat) (vd : Reg) (mask : Word) (f : Fin 64 → BitVec 32 × BitVec 7) : State :=
  let r : Vector (BitVec 32 × BitVec 7) 64 := Vector.ofFn fun i => if mask.getLsbD i.val then f i else (0, 0)
  (s.later n (.v vd mask (r.map (·.1)))).laterFlags n (orFlags (r.toList.map (·.2)))

/-- Lanes without flags. -/
def State.laterMove (s : State) (n : Nat) (vd : Reg) (mask : Word) (f : Fin 64 → BitVec 32) : State :=
  s.laterLanes n vd mask fun i => (f i, 0)

/-- The second source of a lane: a register's element or sext(IMM13) (R345). -/
def State.vsrc (s : State) (b : VSrc) : Fin 64 → BitVec 32 :=
  match b with
  | .reg r => let x := s.v r; fun i => lane x i
  | .imm x => fun _ => x.signExtend 32

/-! ### Modes and draws -/

def State.rnd (s : State) : BitVec 3 := s.me.cvmode.extractLsb' 0 3
def State.cvSat (s : State) : Bool := s.me.cvmode.getLsbD 3
/-- WCOUNT of a draw into registers (R270). -/
def State.vcycLow (s : State) : BitVec 32 := (s.vcycOf s.actor).extractLsb' 0 32

/-- The draw of an element of a register (R270). -/
def State.regDraw (s : State) (row col : Nat) : Nat :=
  drawOf row col s.me.srkey 0 s.vcycLow

/-- An exact FP32 result rounded once with CVMODE.RND (R346). -/
def State.roundLane (s : State) (vd : Reg) (i : Fin 64) (x : Num × BitVec 7) : BitVec 32 × BitVec 7 :=
  let y := toF32 s.rnd false (s.regDraw vd.toNat i.val) x.1
  (y.1, y.2 ||| x.2)

/-- The integer format of a lane type. -/
def tyFmt : VTy → IntFmt
  | .u => u32
  | _ => i32
/-- A lane as an integer of its type (R347). -/
def tyValue (ty : VTy) (x : BitVec 32) : Int := (tyFmt ty).value x.toNat
/-- An exact integer result in a lane (R347). -/
def tyPut (ty : VTy) (sat : Bool) (x : Int) : BitVec 32 × BitVec 7 :=
  let y := (tyFmt ty).narrow sat x
  (BitVec.ofNat 32 y.1, y.2)

/-! ### Arithmetic (R348) -/

/-- Cycles to the write of an arithmetic operation (R342). -/
def arithDue (ty : VTy) (f : BitVec 2) : Nat := foldBeats f + (if ty = .f then 3 else 1)

/-- A two-operand arithmetic instruction. -/
def arith2 (i : Instr) (s : State) (ty : VTy) (sat : Bool) (f : BitVec 2) (vd va : Reg) (b : VSrc) (k : KReg)
    (fp : BitVec 3 → Num → Num → Num × BitVec 7) (int : Int → Int → Int) : Result :=
  guarded i s fun s =>
    let x := s.v va
    let y := s.vsrc b
    s.laterLanes (arithDue ty f) vd (s.active f k) fun j =>
      if ty = .f then s.roundLane vd j (fp s.rnd (f32 (lane x j)) (f32 (y j)))
      else tyPut ty sat (int (tyValue ty (lane x j)) (tyValue ty (y j)))

/-- A multiply-add: vA × vB + c, c the lane of vC or its negative. -/
def arith3 (i : Instr) (s : State) (ty : VTy) (sat : Bool) (f : BitVec 2) (vd va vb vc : Reg) (k : KReg) (minus : Bool) : Result :=
  guarded i s fun s =>
    let x := s.v va
    let y := s.v vb
    let z := s.v vc
    s.laterLanes (arithDue ty f) vd (s.active f k) fun j =>
      if ty = .f then
        let c := f32 (lane z j)
        s.roundLane vd j ((f32 (lane x j)).fma s.rnd (f32 (lane y j)) (if minus then c.negate else c))
      else
        let c := tyValue ty (lane z j)
        tyPut ty sat (tyValue ty (lane x j) * tyValue ty (lane y j) + (if minus then -c else c))

/-- VADD (R348). -/
def execVadd (ty : VTy) (sat : Bool) (fold : BitVec 2) (vd va : Reg) (b : VSrc) (k : KReg) (s : State) : Result :=
  arith2 (.vadd ty sat fold vd va b k) s ty sat fold vd va b k (fun r x y => x.add r y) (· + ·)
/-- VSUB (R348). -/
def execVsub (ty : VTy) (sat : Bool) (fold : BitVec 2) (vd va : Reg) (b : VSrc) (k : KReg) (s : State) : Result :=
  arith2 (.vsub ty sat fold vd va b k) s ty sat fold vd va b k (fun r x y => x.add r y.negate) (· - ·)
/-- VMUL (R348). -/
def execVmul (ty : VTy) (sat : Bool) (fold : BitVec 2) (vd va : Reg) (b : VSrc) (k : KReg) (s : State) : Result :=
  arith2 (.vmul ty sat fold vd va b k) s ty sat fold vd va b k (fun _ x y => x.mul y) (· * ·)
/-- VFMA (R348). -/
def execVfma (ty : VTy) (sat : Bool) (fold : BitVec 2) (vd va vb vc : Reg) (k : KReg) (s : State) : Result :=
  arith3 (.vfma ty sat fold vd va vb vc k) s ty sat fold vd va vb vc k false
/-- VFMS (R348). -/
def execVfms (ty : VTy) (sat : Bool) (fold : BitVec 2) (vd va vb vc : Reg) (k : KReg) (s : State) : Result :=
  arith3 (.vfms ty sat fold vd va vb vc k) s ty sat fold vd va vb vc k true
/-- VMIN (R348). -/
def execVmin (ty : VTy) (fold : BitVec 2) (vd va : Reg) (b : VSrc) (k : KReg) (s : State) : Result :=
  arith2 (.vmin ty fold vd va b k) s ty false fold vd va b k (fun _ x y => x.minNum y) min
/-- VMAX (R348). -/
def execVmax (ty : VTy) (fold : BitVec 2) (vd va : Reg) (b : VSrc) (k : KReg) (s : State) : Result :=
  arith2 (.vmax ty fold vd va b k) s ty false fold vd va b k (fun _ x y => x.maxNum y) max

/-- VABS: .f clears bit 31 (R348). -/
def execVabs (ty : VTy) (sat : Bool) (fold : BitVec 2) (vd va : Reg) (k : KReg) (s : State) : Result :=
  guarded (.vabs ty sat fold vd va k) s fun s =>
    let x := s.v va
    s.laterLanes (foldBeats fold + 1) vd (s.active fold k) fun j =>
      if ty = .f then (lane x j &&& 0x7FFFFFFF, 0) else tyPut ty sat ((tyValue ty (lane x j)).natAbs : Int)
/-- VNEG: .f inverts bit 31 (R348). -/
def execVneg (ty : VTy) (sat : Bool) (fold : BitVec 2) (vd va : Reg) (k : KReg) (s : State) : Result :=
  guarded (.vneg ty sat fold vd va k) s fun s =>
    let x := s.v va
    s.laterLanes (foldBeats fold + 1) vd (s.active fold k) fun j =>
      if ty = .f then (lane x j ^^^ 0x80000000, 0) else tyPut ty sat (-(tyValue ty (lane x j)))

/-! ### Logic and shifts (R349) -/

/-- A logic or shift instruction. -/
def logic2 (i : Instr) (s : State) (f : BitVec 2) (vd va : Reg) (b : VSrc) (k : KReg) (g : BitVec 32 → BitVec 32 → BitVec 32) : Result :=
  guarded i s fun s =>
    let x := s.v va
    let y := s.vsrc b
    s.laterMove (foldBeats f + 1) vd (s.active f k) fun j => g (lane x j) (y j)

/-- Bits 4:0 of a shift amount. -/
def low5 (b : BitVec 32) : Nat := (b.extractLsb' 0 5).toNat

/-- VAND (R349). -/
def execVand (fold : BitVec 2) (vd va : Reg) (b : VSrc) (k : KReg) (s : State) : Result :=
  logic2 (.vand fold vd va b k) s fold vd va b k (· &&& ·)
/-- VOR (R349). -/
def execVor (fold : BitVec 2) (vd va : Reg) (b : VSrc) (k : KReg) (s : State) : Result :=
  logic2 (.vor fold vd va b k) s fold vd va b k (· ||| ·)
/-- VXOR (R349). -/
def execVxor (fold : BitVec 2) (vd va : Reg) (b : VSrc) (k : KReg) (s : State) : Result :=
  logic2 (.vxor fold vd va b k) s fold vd va b k (· ^^^ ·)
/-- VSHL (R349). -/
def execVshl (fold : BitVec 2) (vd va : Reg) (b : VSrc) (k : KReg) (s : State) : Result :=
  logic2 (.vshl fold vd va b k) s fold vd va b k fun x y => x <<< low5 y
/-- VSHR (R349). -/
def execVshr (fold : BitVec 2) (vd va : Reg) (b : VSrc) (k : KReg) (s : State) : Result :=
  logic2 (.vshr fold vd va b k) s fold vd va b k fun x y => x >>> low5 y
/-- VSHA (R349). -/
def execVsha (fold : BitVec 2) (vd va : Reg) (b : VSrc) (k : KReg) (s : State) : Result :=
  logic2 (.vsha fold vd va b k) s fold vd va b k fun x y => x.sshiftRight (low5 y)

/-! ### Compares and selects (R350, R351) -/

/-- A condition, from less and equal. -/
def condHolds (c : VCond) (lt eq gt : Bool) : Bool :=
  match c with
  | .eq => eq
  | .ne => !eq
  | .lt => lt
  | .le => lt || eq
  | .gt => gt
  | .ge => gt || eq

/-- A compared lane; the compares of .f are quiet. -/
def compareLane (c : VCond) (ty : VTy) (a b : BitVec 32) : Bool × BitVec 7 :=
  if ty = .f then
    let x := f32 a
    let y := f32 b
    (condHolds c (x.lt y) (x.eq y) (y.lt x), x.nv ||| y.nv)
  else
    let x := tyValue ty a
    let y := tyValue ty b
    (condHolds c (decide (x < y)) (x == y) (decide (y < x)), 0)

/-- A word whose bit i is f i. -/
def bitsOf (f : Fin 64 → Bool) : Word :=
  BitVec.ofNat 64 ((List.finRange 64).foldl (fun n i => if f i then n + 2 ^ i.val else n) 0)

/-- VCMP (R350). -/
def execVcmp (c : VCond) (ty : VTy) (fold : BitVec 2) (kd : KReg) (va : Reg) (b : VSrc) (k : KReg) (s : State) : Result :=
  guarded (.vcmp c ty fold kd va b k) s fun s =>
    let x := s.v va
    let y := s.vsrc b
    let mask := s.active fold k
    let n := foldBeats fold + 1
    (s.later n (.k kd mask (bitsOf fun j => mask.getLsbD j.val && (compareLane c ty (lane x j) (y j)).1))).laterFlags n
      (orFlags ((lanesOf mask).map fun j => (compareLane c ty (lane x j) (y j)).2))

/-- VSEL: K selects (R351). -/
def execVsel (fold : BitVec 2) (vd va vb : Reg) (k : KReg) (s : State) : Result :=
  guarded (.vsel fold vd va vb k) s fun s =>
    let x := s.v va
    let y := s.v vb
    let sel := s.k k
    s.laterMove (foldBeats fold + 1) vd (foldMask fold) fun j => if sel.getLsbD j.val then lane x j else lane y j

/-! ### Conversions (R352, R353) -/

/-- The number format of a VCVT type. -/
def cvtFmt : CvtTy → NumFmt
  | .fp32 => .ieee fp32
  | .i32 => .int i32
  | .u32 => .int u32
  | .bf16 => .ieee bf16
  | .fp16 => .ieee fp16
  | .dm8 => .dm8
  | .i8 => .int i8
  | .u8 => .int u8
  | .i16 => .int i16

/-- Bits of an element format in a 32-bit lane: signed integers sign-extended, all others zero-extended (R211, R352). -/
def NumFmt.toLane (f : NumFmt) (b : Nat) : BitVec 32 :=
  match f with
  | .int g => BitVec.ofInt 32 (g.value b)
  | _ => BitVec.ofNat 32 b

/-- The format's own bits of a lane. -/
def NumFmt.ofLane (f : NumFmt) (x : BitVec 32) : Nat :=
  match f with
  | .ieee g => x.toNat % (2 * g.signEnc)
  | .int _ => x.toNat
  | .dm8 => x.toNat % 256

/-- VCVT (R353). -/
def execVcvt (dst src : CvtTy) (fold : BitVec 2) (vd va : Reg) (k : KReg) (s : State) : Result :=
  guarded (.vcvt dst src fold vd va k) s fun s =>
    let x := s.v va
    s.laterLanes (foldBeats fold + 3) vd (s.active fold k) fun j =>
      let y := (cvtFmt dst).encode s.rnd s.cvSat false (s.regDraw vd.toNat j.val) ((cvtFmt src).decode ((cvtFmt src).ofLane (lane x j)))
      ((cvtFmt dst).toLane y.1, y.2)

/-! ### Special functions (R354) -/

/-- A special function in every active lane: NV and DZ alone. -/
def special (i : Instr) (s : State) (f : BitVec 2) (vd va : Reg) (k : KReg) (g : Num → Num × BitVec 7) : Result :=
  guarded i s fun s =>
    let x := s.v va
    s.laterLanes (foldBeats f + 5) vd (s.active f k) fun j =>
      let y := g (f32 (lane x j))
      ((rneF32 y.1).1, y.2)

/-- VRCP (R274, R354). -/
def execVrcp (fold : BitVec 2) (vd va : Reg) (k : KReg) (s : State) : Result := special (.vrcp fold vd va k) s fold vd va k rcpOf
/-- VRSQ (R275, R354). -/
def execVrsq (fold : BitVec 2) (vd va : Reg) (k : KReg) (s : State) : Result := special (.vrsq fold vd va k) s fold vd va k rsqOf
/-- VSQRT (R275, R354). -/
def execVsqrt (fold : BitVec 2) (vd va : Reg) (k : KReg) (s : State) : Result := special (.vsqrt fold vd va k) s fold vd va k sqrtOf
/-- VEXP2 (R276, R354). -/
def execVexp2 (fold : BitVec 2) (vd va : Reg) (k : KReg) (s : State) : Result := special (.vexp2 fold vd va k) s fold vd va k exp2Of
/-- VLOG2 (R277, R354). -/
def execVlog2 (fold : BitVec 2) (vd va : Reg) (k : KReg) (s : State) : Result := special (.vlog2 fold vd va k) s fold vd va k log2Of
/-- VTANH (R278, R354). -/
def execVtanh (fold : BitVec 2) (vd va : Reg) (k : KReg) (s : State) : Result := special (.vtanh fold vd va k) s fold vd va k tanhOf
/-- VSIGM (R278, R354). -/
def execVsigm (fold : BitVec 2) (vd va : Reg) (k : KReg) (s : State) : Result := special (.vsigm fold vd va k) s fold vd va k sigmOf

/-! ### Reductions and scans (R281, R355, R356) -/

/-- One op on FP32 values, rounded once; flags gathered. -/
abbrev FpOp := Num → Num → Num × BitVec 7

/-- RND of reductions: stochastic is applied as nearest-even (R355). -/
def State.redRnd (s : State) : BitVec 3 := if s.rnd = 4 then 0 else s.rnd

/-- FP32 addition rounded to a lane. -/
def addRound (rnd : BitVec 3) : FpOp := fun x y =>
  let a := x.add rnd y
  let b := toF32 rnd false 0 a.1
  (f32 b.1, a.2 ||| b.2)

/-- Combine neighbours: an absent element gives the other one. -/
def pairUp (op : FpOp) : List (Option Num) → List (Option Num) × BitVec 7
  | x :: y :: r =>
    let (l, fl) := pairUp op r
    match x, y with
    | none, y => (y :: l, fl)
    | x, none => (x :: l, fl)
    | some x, some y => let z := op x y; (some z.1 :: l, fl ||| z.2)
  | l => (l, 0)

/-- The pairwise tree of R281, `n` levels. -/
def tree (op : FpOp) : Nat → List (Option Num) → Option Num × BitVec 7
  | 0, l => (l.headD none, 0)
  | n + 1, l =>
    let a := pairUp op l
    let b := tree op n a.1
    (b.1, a.2 ||| b.2)

/-- The values of a reduction or scan with no active lane. -/
def emptyLane (op : ScanOp) (ty : VTy) : BitVec 32 :=
  match op, ty with
  | .add, _ => 0
  | .max, .f => 0xFF800000
  | .max, .i => 0x80000000
  | .max, .u => 0
  | .min, .f => 0x7F800000
  | .min, .i => 0x7FFFFFFF
  | .min, .u => 0xFFFFFFFF

/-- The FP32 op of a reduction or scan. -/
def fpOp (op : ScanOp) (rnd : BitVec 3) : FpOp :=
  match op with
  | .add => addRound rnd
  | .max => Num.maxNum
  | .min => Num.minNum
/-- The integer op, exact. -/
def intOp (op : ScanOp) : Int → Int → Int :=
  match op with
  | .add => (· + ·)
  | .max => max
  | .min => min

/-- Combined value of a list, none when it is empty. -/
def foldSome {α : Type} (op : α → α → α) : Option α → List α → Option α
  | y, [] => y
  | none, x :: r => foldSome op (some x) r
  | some y, x :: r => foldSome op (some (op y x)) r

/-- The reduction of a register's active lanes. -/
def reduceLanes (op : ScanOp) (ty : VTy) (sat : Bool) (rnd : BitVec 3) (n : Nat) (mask : Word) (x : VReg) : BitVec 32 × BitVec 7 :=
  if ty = .f then
    let l := ((List.finRange 64).take n).map fun j => if mask.getLsbD j.val then some (f32 (lane x j)) else none
    match tree (fpOp op rnd) (Nat.log2 n) l with
    | (none, fl) => (emptyLane op ty, fl)
    | (some y, fl) => let z := rneF32 y; (z.1, fl ||| z.2)
  else
    match foldSome (intOp op) none ((lanesOf mask).map fun j => tyValue ty (lane x j)) with
    | none => (emptyLane op ty, 0)
    | some y => tyPut ty sat y

/-- A reduction writes lane 0 (R355). -/
def reduction (i : Instr) (s : State) (op : ScanOp) (ty : VTy) (sat : Bool) (f : BitVec 2) (vd va : Reg) (k : KReg) : Result :=
  guarded i s fun s =>
    let y := reduceLanes op ty sat s.redRnd (laneCount f) (s.active f k) (s.v va)
    s.laterLanes (foldBeats f + 7) vd 1 fun _ => y

/-- VREDADD (R355). -/
def execVredadd (ty : VTy) (sat : Bool) (fold : BitVec 2) (vd va : Reg) (k : KReg) (s : State) : Result :=
  reduction (.vredadd ty sat fold vd va k) s .add ty sat fold vd va k
/-- VREDMAX (R355). -/
def execVredmax (ty : VTy) (fold : BitVec 2) (vd va : Reg) (k : KReg) (s : State) : Result :=
  reduction (.vredmax ty fold vd va k) s .max ty false fold vd va k
/-- VREDMIN (R355). -/
def execVredmin (ty : VTy) (fold : BitVec 2) (vd va : Reg) (k : KReg) (s : State) : Result :=
  reduction (.vredmin ty fold vd va k) s .min ty false fold vd va k

/-- FP32 lanes of a scan: an inactive lane passes the value so far on (R356). -/
def scanFp (op : FpOp) (empty : BitVec 32) : Option Num → List (Bool × BitVec 32) → List (BitVec 32 × BitVec 7)
  | _, [] => []
  | y, (on, x) :: r =>
    let z : Option Num × BitVec 7 :=
      if on then match y with
        | none => (some (f32 x), 0)
        | some y => let w := op y (f32 x); (some w.1, w.2)
      else (y, 0)
    let out : BitVec 32 × BitVec 7 := match z.1 with
      | none => (empty, 0)
      | some w => rneF32 w
    (out.1, out.2 ||| z.2) :: scanFp op empty (z.1.map fun w => if w.isNan then .qnan else w) r

/-- Integer lanes of a scan: sums exact, each written value wrapped or clamped. -/
def scanInt (op : Int → Int → Int) (ty : VTy) (sat : Bool) (empty : BitVec 32) : Option Int → List (Bool × BitVec 32) →
    List (BitVec 32 × BitVec 7)
  | _, [] => []
  | y, (on, x) :: r =>
    let z := if on then some (match y with | none => tyValue ty x | some y => op y (tyValue ty x)) else y
    (match z with | none => (empty, 0) | some w => tyPut ty sat w) :: scanInt op ty sat empty z r

/-- VSCAN (R356). -/
def execVscan (op : ScanOp) (ty : VTy) (sat : Bool) (fold : BitVec 2) (vd va : Reg) (k : KReg) (s : State) : Result :=
  guarded (.vscan op ty sat fold vd va k) s fun s =>
    let x := s.v va
    let mask := s.active fold k
    let l := (List.finRange 64).map fun j => (mask.getLsbD j.val, lane x j)
    let r := if ty = .f then scanFp (fpOp op s.redRnd) (emptyLane op ty) none (l.take (laneCount fold))
             else scanInt (intOp op) ty sat (emptyLane op ty) none (l.take (laneCount fold))
    s.laterLanes (foldBeats fold + 7) vd (foldMask fold) fun j => r.getD j.val (0, 0)

/-! ### VARGMAX (R357) -/

/-- Order of FP32 values with −0 below +0. -/
def f32Key (x : BitVec 32) : Int :=
  let m : Int := (x.toNat % 2 ^ 31 : Nat)
  if x.getLsbD 31 then -m - 1 else m

/-- Key of a lane by type; none for a NaN. -/
def argKey (ty : VTy) (x : BitVec 32) : Option Int :=
  if ty = .f then (if (f32 x).isNan then none else some (f32Key x)) else some (tyValue ty x)

/-- The lane of greatest key, the lowest index on a tie. -/
def greatest (key : Fin 64 → Option Int) : Option (Fin 64 × Int) → List (Fin 64) → Option (Fin 64)
  | b, [] => b.map (·.1)
  | b, j :: r =>
    match key j, b with
    | none, _ => greatest key b r
    | some v, none => greatest key (some (j, v)) r
    | some v, some (i, m) => greatest key (some (if m < v then (j, v) else (i, m))) r

/-- VARGMAX: index in lane 0, value in lane 1. -/
def execVargmax (ty : VTy) (fold : BitVec 2) (vd va : Reg) (k : KReg) (s : State) : Result :=
  guarded (.vargmax ty fold vd va k) s fun s =>
    let x := s.v va
    let on := lanesOf (s.active fold k)
    let fl := if ty = .f then orFlags (on.map fun j => (f32 (lane x j)).nv) else 0
    let out : BitVec 32 × BitVec 32 := match greatest (fun j => argKey ty (lane x j)) none on with
      | some j => (BitVec.ofNat 32 j.val, lane x j)
      | none => (0xFFFFFFFF, if ty = .f then 0xFF800000 else 0)
    s.laterLanes (foldBeats fold + 5) vd 3 fun j => (if j.val = 0 then out.1 else out.2, fl)

/-! ### Moves and permutes (R358 to R360) -/

/-- Element number within 64. -/
def elem (x : VReg) (n : Nat) : BitVec 32 := x[Fin.ofNat 64 n]

/-- A move into the active lanes. -/
def move (i : Instr) (s : State) (f : BitVec 2) (vd : Reg) (k : KReg) (g : State → Fin 64 → BitVec 32) : Result :=
  guarded i s fun s => s.laterMove (foldBeats f + 1) vd (s.active f k) (g s)

/-- VPERM (R358). -/
def execVperm (fold : BitVec 2) (vd va vb : Reg) (k : KReg) (s : State) : Result :=
  move (.vperm fold vd va vb k) s fold vd k fun s => let x := s.v va; let y := s.v vb; fun j => elem x ((lane y j).toNat % 64)
/-- VBCAST (R358). -/
def execVbcast (fold : BitVec 2) (vd va : Reg) (e : BitVec 6) (k : KReg) (s : State) : Result :=
  move (.vbcast fold vd va e k) s fold vd k fun s => let x := elem (s.v va) e.toNat; fun _ => x
/-- VSPLAT of a g register (R358). -/
def execVsplatG (fold : BitVec 2) (vd ga : Reg) (k : KReg) (s : State) : Result :=
  move (.vsplatG fold vd ga k) s fold vd k fun s => let x := (s.g ga).extractLsb' 0 32; fun _ => x
/-- VSPLAT of an immediate (R358). -/
def execVsplatImm (fold : BitVec 2) (vd : Reg) (imm : BitVec 13) (k : KReg) (s : State) : Result :=
  move (.vsplatImm fold vd imm k) s fold vd k fun _ _ => imm.signExtend 32
/-- VIOTA (R358). -/
def execViota (fold : BitVec 2) (vd : Reg) (imm : BitVec 13) (k : KReg) (s : State) : Result :=
  move (.viota fold vd imm k) s fold vd k fun _ j => imm.signExtend 32 + BitVec.ofNat 32 j.val
/-- VMOV (R358). -/
def execVmov (fold : BitVec 2) (vd va : Reg) (k : KReg) (s : State) : Result :=
  move (.vmov fold vd va k) s fold vd k fun s => let x := s.v va; lane x
/-- VMOV.g: g[VD] := sext(element e) (R358). -/
def execVmovG (gd va : Reg) (e : BitVec 6) (s : State) : Result :=
  guarded (.vmovG gd va e) s fun s => s.laterG 2 gd ((elem (s.v va) e.toNat).signExtend 64)
/-- VMOV.e: one element := g[VA][31:0] (R358). -/
def execVmovE (vd ga : Reg) (e : BitVec 6) (s : State) : Result :=
  guarded (.vmovE vd ga e) s fun s => s.laterMove 2 vd (1 <<< e.toNat) fun _ => (s.g ga).extractLsb' 0 32

/-- VCOMP (R359). -/
def execVcomp (fold : BitVec 2) (vd : Reg) (kd : KReg) (va : Reg) (k : KReg) (s : State) : Result :=
  guarded (.vcomp fold vd kd va k) s fun s =>
    let x := s.v va
    let l := (lanesOf (s.active fold k)).map (lane x)
    let n := foldBeats fold + 2
    (s.laterMove n vd (foldMask fold) fun j => l.getD j.val 0).later n
      (.k kd (foldMask fold) (bitsOf fun j => j.val < l.length))

/-- VLUT: the table as it stands at E (R360). -/
def execVlut (fold : BitVec 2) (vd va : Reg) (k : KReg) (s : State) : Result :=
  move (.vlut fold vd va k) s fold vd k fun s =>
    let x := s.v va
    let t := s.me.lt
    fun j => (t[Fin.ofNat 16 (lane x j).toNat]).signExtend 32

/-- The hash of R361. -/
def hashLane (a b seed : BitVec 32) : BitVec 32 :=
  let h := a ^^^ (b * 0x6A09E667) ^^^ seed
  let h := h ^^^ (h >>> 15)
  let h := h * 0xBB67AE85
  let h := h ^^^ (h >>> 13)
  let h := h * 0xA54FF53B
  h ^^^ (h >>> 16)

/-- VHASH (R361). -/
def execVhash (fold : BitVec 2) (vd va vb : Reg) (seed : BitVec 13) (k : KReg) (s : State) : Result :=
  guarded (.vhash fold vd va vb seed k) s fun s =>
    let x := s.v va
    let y := s.v vb
    s.laterMove (foldBeats fold + 2) vd (s.active fold k) fun j => hashLane (lane x j) (lane y j) (seed.zeroExtend 32)

/-! ### VSAMPLE (R368 to R370) -/

/-- Insert an index so that y falls, lowest index first on ties. -/
def insertTop (y : Fin 64 → Num) (j : Fin 64) : List (Fin 64) → List (Fin 64)
  | [] => [j]
  | i :: r => if (y i).lt (y j) then j :: i :: r else i :: insertTop y j r

/-- The k members with greatest y, in index order; all of them when k is 0. -/
def topK (y : Fin 64 → Num) (k : Nat) (l : List (Fin 64)) : List (Fin 64) :=
  if k = 0 then l
  else
    let best := (l.foldl (fun acc j => insertTop y j acc) []).take k
    l.filter best.contains

/-- The weight of a member below the maximum m (R369). -/
def weightOf (m y : Num) : Nat :=
  match m with
  | .inf _ => if m.eq y then 2 ^ 24 else 0
  | _ =>
    let d := subR m y
    match (exp2Of (mulR constL2E d).negate).1 with
    | .fin _ w e => (roundInt 1 0 false w (e + 24)).1.toNat
    | _ => 0

/-- The first member whose cumulative weight exceeds t. -/
def pickAt (t : Nat) : Nat → List (Fin 64 × Nat) → Option (Fin 64)
  | _, [] => none
  | sum, (j, w) :: r => if t < sum + w then some j else pickAt t (sum + w) r

/-- The draw word u of R369. -/
def sampleU (srkey : Word) (wcount srkw : BitVec 32) : Nat :=
  let x : Word := ((wcount ^^^ srkw) ++ (0 : BitVec 32)) ^^^ srkey
  let x := x * 0x9E3779B97F4A7C15
  let x := x ^^^ (x >>> 32)
  let x := x * 0x0001000000010001
  (x >>> 32).toNat

/-- The pick with its S and t (R369); none when no lane is legal. -/
def sample (srkey : Word) (a c : VReg) (topk : Nat) (legal : List (Fin 64)) : Option (Fin 64 × Nat × Nat) :=
  let l := legal.filter fun j => let x := f32 (lane a j); !x.isNan && x != .inf true
  if l.isEmpty then none
  else
    let temp := f32 (elem c 0)
    if temp = .inf false then (greatest (fun j => some (if (f32 (lane a j)).isZero then 0 else f32Key (lane a j))) none l).map fun j => (j, 0, 0)
    else
      let y (j : Fin 64) : Num := let p := rne (((f32 (lane a j)).mul temp).1); if p.isNan then .inf true else p
      let l := topK y topk l
      let m := l.foldl (fun m j => if m.lt (y j) then y j else m) (.inf true)
      let ws := l.map fun j => (j, weightOf m (y j))
      let total := (ws.map (·.2)).foldl (· + ·) 0
      let t := sampleU srkey (elem c 1) (elem c 2) * total / 2 ^ 32
      (pickAt t 0 ws).map fun j => (j, total, t)

/-- VSAMPLE (R368 to R370). -/
def execVsample (fold : BitVec 2) (vd va vb vc : Reg) (topk : BitVec 13) (k : KReg) (s : State) : Result :=
  guarded (.vsample fold vd va vb vc topk k) s fun s =>
    let b := s.v vb
    let n := foldBeats fold + 23
    match sample s.me.srkey (s.v va) (s.v vc) topk.toNat (lanesOf (s.active fold k)) with
    | some (j, total, t) =>
      s.laterMove n vd (foldMask fold) fun i =>
        if i.val = 0 then lane b j else if i.val = 1 then BitVec.ofNat 32 j.val
        else if i.val = 2 then BitVec.ofNat 32 total else if i.val = 3 then BitVec.ofNat 32 t else 0
    | none =>
      (s.laterMove n vd (foldMask fold) fun i => if i.val ≤ 1 then 0xFFFFFFFF else 0).laterFlags n FFlag.nolegal

end Sys2Proof.Machine
end

