-- ==== Sys2Proof/Machine/VecMem.lean ====
section
/-! DEFINITION. Vector loads and stores: VLD, VST, VLDS, VGATH, VSCAT (spec 13 R328 to R330; 11 R258, R261, R270; 08 R196). -/

namespace Sys2Proof.Machine

/-! ### Elements of a window (R196, R328, R329) -/

/-- The number format of a window's FMT code; raw bytes, INT64 and LUT4 have none here (R129, R194). -/
def windowFmt (f : BitVec 4) : Option NumFmt :=
  match f.toNat with
  | 1 => some (.ieee bf16)
  | 2 => some (.ieee fp16)
  | 3 => some (.ieee fp32)
  | 4 => some (.int i8)
  | 5 => some (.int u8)
  | 6 => some .dm8
  | 8 => some (.int i16)
  | 9 => some (.int i32)
  | _ => none

/-- A loaded element in its lane (R329). -/
def widen (lt : Vector (BitVec 8) 16) (f : BitVec 4) (raw : Nat) : BitVec 32 × BitVec 7 :=
  if f = 7 then ((lt[Fin.ofNat 16 raw]).signExtend 32, 0)
  else match windowFmt f with
    | some (.int g) => (BitVec.ofInt 32 (g.value raw), 0)
    | some (.ieee g) => if g = fp32 then (BitVec.ofNat 32 raw, 0) else rneF32 (g.decode raw)
    | some .dm8 => rneF32 (dm8Decode raw)
    | none => (BitVec.ofNat 32 raw, 0)

/-- A lane as a stored element (R329). -/
def narrow (rnd : BitVec 3) (sat : Bool) (r : Nat) (f : BitVec 4) (x : BitVec 32) : Nat × BitVec 7 :=
  if f = 7 then lut4.narrow sat x.toInt
  else match windowFmt f with
    | some (.int g) => if g = i32 then (x.toNat, 0) else g.narrow sat x.toInt
    | some (.ieee g) => if g = fp32 then (x.toNat, 0) else g.encode rnd false r (f32 x)
    | some .dm8 => dm8Encode rnd false r (f32 x)
    | none => (x.toNat, 0)

/-- Logical row and column of element i of a window (R196). -/
def WinDesc.rowCol (d : WinDesc) (i : Nat) : Nat × Nat :=
  if d.blk = 1 then
    let b := i / 256
    let m := i % 256
    let nb := d.rowel / 16
    (16 * (b / nb) + m / 16, 16 * (b % nb) + m % 16)
  else (i / d.rowel, i % d.rowel)

/-- The draw of the element at a byte address (and half byte) of a window (R270). -/
def windowDraw (srkey : Word) (d : WinDesc) (half : Nat) : Nat :=
  let (row, col) := d.rowCol ((half - 2 * d.base) / fmtHalves d.fmt)
  drawOf row col srkey d.srkw d.wcount

/-- Element i of bytes in elements of e half bytes. -/
def element (e : Nat) (bs : List Byte) (i : Nat) : Nat :=
  if e = 1 then (bs.getD (i / 2) 0).toNat / 16 ^ (i % 2) % 16 else leNat ((bs.drop (i * e / 2)).take (e / 2))

/-- An element's bytes with the bits it writes; `hi`: the high half of its byte. -/
def elementBytes (e : Nat) (hi : Bool) (v : Nat) : List (Byte × Byte) :=
  if e = 1 then (if hi then [(BitVec.ofNat 8 (v % 16 * 16), 0xF0)] else [(BitVec.ofNat 8 (v % 16), 0x0F)])
  else allBits (leBytes (e / 2) v)

/-- Two half-byte writes of one byte. -/
def joinHalves (a b : Byte × Byte) : Byte × Byte := ((a.1 &&& a.2) ||| (b.1 &&& b.2), a.2 ||| b.2)

/-- The bytes of n elements of which some are written. -/
def packElements (e n : Nat) (val : Nat → Option Nat) : List (Byte × Byte) :=
  if e = 1 then
    (List.range (n / 2)).map fun i =>
      let part (j : Nat) (hi : Bool) : Byte × Byte := match val j with
        | some v => (elementBytes 1 hi v).headD (0, 0)
        | none => (0, 0)
      joinHalves (part (2 * i) false) (part (2 * i + 1) true)
  else
    (List.range n).flatMap fun i => match val i with
      | some v => elementBytes e false v
      | none => List.replicate (e / 2) (0, 0)

/-! ### Loads -/

/-- Lanes loaded from a step or an access. (log 34, DEDUCED) -/
def State.loadLanes (s : State) (t : Reg) (mask : Word) (fmt : BitVec 4) (raw : Nat → Nat) : State :=
  let lt := s.me.lt
  s.laterLanes 4 t mask fun j => widen lt fmt (raw j.val)

/-- The window that gives an access its element size. -/
def State.elementWindow (s : State) (a : Int) : Option WinDesc :=
  if a < 0 then none else (s.windowAt s.actor a.toNat).map (·.2)

/-- Byte addresses of the elements an access reads or writes. -/
def elementAddrs (addrs : List Nat) (e : Nat) (mask : Word) : List Nat :=
  (lanesOf mask).flatMap fun j => (List.range (max 1 (e / 2))).map fun b => addrs.getD (j.val * e / 2 + b) 0

/-- VLD (R328). -/
def execVld (fold : BitVec 2) (t : Reg) (m : MemOp) (k : KReg) (s : State) : Result :=
  guarded (.vld fold t m k) s fun s =>
    let mask := s.active fold k
    match m with
    | .port p =>
      let x := s.me.port p
      let fmt := (s.window s.actor x.win).fmt
      if fmt = 10 then s.raise Cause.window (addrWord (s.stepAddr s.actor x x.pos))
      else s.takeStep (.vld fold t m k) p fun bs s => s.loadLanes t mask fmt (element (fmtHalves fmt) bs)
    | .addr base idx off =>
      let a := s.ea base idx off
      match s.elementWindow a with
      | none => s.raise Cause.window (addrWord a)
      | some d =>
        let e := fmtHalves d.fmt
        let n := laneCount fold * e / 2
        let addrs := layout a.toNat n
        if d.fmt = 10 then s.raise Cause.window (addrWord a)
        else s.withAccess (.vld fold t m k) (s.check s.actor { align := n } a addrs) addrs fun s =>
          match s.poisonedAt s.actor (elementAddrs addrs e mask) with
          | some g => s.raise Cause.eccConsumed (BitVec.ofNat 64 (g / 8 * 8))
          | none => s.loadLanes t mask d.fmt (element e (s.readLocal s.actor addrs))

/-! ### Stores -/

/-- The lanes of a store as elements of a format; `half`: the address in half bytes of lane j's element, `win`: its window. (log 34, DEDUCED) -/
def State.storeLanes (s : State) (x : VReg) (mask : Word) (fmt : BitVec 4) (half : Nat → Nat) (win : Nat → WinDesc) : List (Nat × Nat × BitVec 7) :=
  (lanesOf mask).map fun j =>
    (j.val, narrow s.rnd s.cvSat (windowDraw s.me.srkey (win j.val) (half j.val)) fmt (lane x j))

/-- The value of a lane, if it is stored. -/
def laneValue (l : List (Nat × Nat × BitVec 7)) (i : Nat) : Option Nat := (l.find? (·.1 == i)).map (·.2.1)

/-- VST (R328). -/
def execVst (fold : BitVec 2) (t : Reg) (m : MemOp) (k : KReg) (s : State) : Result :=
  guarded (.vst fold t m k) s fun s =>
    let mask := s.active fold k
    let n := laneCount fold
    match m with
    | .port p =>
      let x := s.me.port p
      let d := s.window s.actor x.win
      let e := fmtHalves d.fmt
      let a := s.stepAddr s.actor x x.pos
      if d.fmt = 10 then s.raise Cause.window (addrWord a)
      else
        let l := s.storeLanes (s.v t) mask d.fmt (fun i => 2 * a.toNat + i * e) fun _ => d
        s.writeStep (.vst fold t m k) p (packElements e n (laneValue l)) fun s => s.laterFlags 2 (orFlags (l.map (·.2.2)))
    | .addr base idx off =>
      let a := s.ea base idx off
      match s.elementWindow a with
      | none => s.raise Cause.window (addrWord a)
      | some d =>
        let e := fmtHalves d.fmt
        let bytes := n * e / 2
        let addrs := layout a.toNat bytes
        if d.fmt = 10 then s.raise Cause.window (addrWord a)
        else s.withAccess (.vst fold t m k) (s.check s.actor { store := true, align := bytes } a addrs) addrs fun s =>
          let l := s.storeLanes (s.v t) mask d.fmt (fun i => 2 * addrs.getD (i * e / 2) 0 + i * e % 2) fun _ => d
          let bs := s.mergeBits s.actor (addrs.zip (packElements e n (laneValue l)))
          ((s.store s.actor bs).markDirty s.actor a.toNat).laterFlags 2 (orFlags (l.map (·.2.2)))

/-! ### Strided and indexed elements (R330) -/

/-- Addresses in half bytes of the active elements, by lane. -/
def State.strided (s : State) (a : Int) (st : Reg) (mask : Word) : List (Fin 64 × Int) :=
  (lanesOf mask).map fun j => (j, 2 * (a + j.val * (s.g st).toInt))
def State.indexed (s : State) (a : Int) (e : Nat) (vi : Reg) (mask : Word) : List (Fin 64 × Int) :=
  let x := s.v vi
  (lanesOf mask).map fun j => (j, 2 * a + (lane x j).toInt * e)

/-- Bytes of the element at an address in half bytes. (log 34, DEDUCED) -/
def halfAddrs (e : Nat) (h : Int) : List Nat := (List.range (max 1 (e / 2))).map fun i => (h / 2).toNat + i

/-- The checks of R330: each element by R197 without the wheel, in lane order; then one agent's banks; then the wheel of all. -/
def State.checkElements (s : State) (store : Bool) (e : Nat) (l : List (Fin 64 × Int)) : Access :=
  let one (x : Fin 64 × Int) : Option Access :=
    let addrs := halfAddrs e x.2
    match s.check s.actor { store := store, align := max 1 (e / 2) } (x.2 / 2) addrs with
    | .fault cause f => if cause = Cause.wheel then none else some (.fault cause f)
    | _ => none
  match l.findSome? one with
  | some f => f
  | none =>
    match l with
    | [] => .ok
    | h :: _ =>
      let bank (x : Fin 64 × Int) : Nat := bankOf (x.2 / 2).toNat % 4
      match l.find? fun x => bank x != bank h with
      | some x => .fault Cause.align (addrWord (x.2 / 2))
      | none => s.wheel s.actor (h.2 / 2) (l.flatMap fun x => halfAddrs e x.2)

/-- A strided or indexed load. -/
def State.gather (s : State) (i : Instr) (t : Reg) (mask : Word) (a : Int) (els : Nat → List (Fin 64 × Int)) : State :=
  match s.elementWindow a with
  | none => s.raise Cause.window (addrWord a)
  | some d =>
    let e := fmtHalves d.fmt
    let l := els e
    let addrs := l.flatMap fun x => halfAddrs e x.2
    if d.fmt = 10 then s.raise Cause.window (addrWord a)
    else s.withRead i (s.checkElements false e l) addrs fun _ s =>
      let raw (n : Nat) : Nat := match l.find? (·.1.val == n) with
        | some x => element e (s.readLocal s.actor (halfAddrs e x.2)) (if e = 1 then (x.2 % 2).toNat else 0)
        | none => 0
      s.loadLanes t mask d.fmt raw

/-- VLDS (R330). -/
def execVlds (fold : BitVec 2) (t base : Reg) (off : BitVec 19) (st : Reg) (k : KReg) (s : State) : Result :=
  guarded (.vlds fold t base off st k) s fun s =>
    let a := s.ea base 0 off
    let mask := s.active fold k
    s.gather (.vlds fold t base off st k) t mask a fun _ => s.strided a st mask

/-- VGATH (R330). -/
def execVgath (fold : BitVec 2) (t base : Reg) (off : BitVec 19) (vi : Reg) (k : KReg) (s : State) : Result :=
  guarded (.vgath fold t base off vi k) s fun s =>
    let a := s.ea base 0 off
    let mask := s.active fold k
    s.gather (.vgath fold t base off vi k) t mask a fun e => s.indexed a e vi mask

/-- VSCAT: of two elements of one address the higher-indexed is written (R330). -/
def execVscat (fold : BitVec 2) (t base : Reg) (off : BitVec 19) (vi : Reg) (k : KReg) (s : State) : Result :=
  guarded (.vscat fold t base off vi k) s fun s =>
    let a := s.ea base 0 off
    let mask := s.active fold k
    match s.elementWindow a with
    | none => s.raise Cause.window (addrWord a)
    | some d =>
      let e := fmtHalves d.fmt
      let l := s.indexed a e vi mask
      let addrs := l.flatMap fun x => halfAddrs e x.2
      if d.fmt = 10 then s.raise Cause.window (addrWord a)
      else s.withAccess (.vscat fold t base off vi k) (s.checkElements true e l) addrs fun s =>
        let half (i : Nat) : Nat := match l.find? (·.1.val == i) with | some x => x.2.toNat | none => 0
        let win (i : Nat) : WinDesc := match s.windowAt s.actor (half i / 2) with | some (_, w) => w | none => d
        let vals := s.storeLanes (s.v t) mask d.fmt half win
        let put (s : State) (x : Nat × Nat × BitVec 7) : State :=
          let h := half x.1
          let bs := (halfAddrs e (Int.ofNat h)).zip (elementBytes e (h % 2 == 1) x.2.1)
          (s.store s.actor (s.mergeBits s.actor bs)).markDirty s.actor (h / 2)
        (vals.foldl put s).laterFlags 2 (orFlags (vals.map (·.2.2)))

end Sys2Proof.Machine
end

