-- ==== Sys2Proof/Machine/Weights.lean ====
section
/-! DEFINITION. The weight store: pages and their homes, page berths, lines and the undo log (spec 02 R50 to R53; 09 R215 to R218; 10 R243,
R252, R253; 15 R390). Physical weight-store pages are numbered stack by stack (log 14, DEDUCED). -/

namespace Sys2Proof.Machine

/-! ### Global addresses (R50) -/

def gMod (a : Word) : BitVec 13 := a.extractLsb' 51 13
def gSpace (a : Word) : BitVec 3 := a.extractLsb' 48 3
def gOff (a : Word) : Nat := (a.extractLsb' 0 21).toNat
/-- MOD, SPACE and VPN together. -/
def gPage (a : Word) : Nat := a.toNat / 2 ^ 21

/-- The page table's entry for an address in an address space. -/
def State.pageOf (s : State) (asid : BitVec 16) (a : Word) : Option PageMap :=
  s.lh.pages.find? fun p => p.asid == asid && p.page == gPage a

/-- Pages of a stack (R217). -/
def stackPages : Nat := 24576
/-- A physical weight-store page: its feeder, and its number in that stack. -/
def pageHome (p : PageMap) : Nat := p.phys.toNat / stackPages
def pageInStack (p : PageMap) : Nat := p.phys.toNat % stackPages

/-- The weight-store page of an address that R384 admits at feeder f: of this module, mapped for the crew, homed here. -/
def State.feederPage (s : State) (f : Nat) (asid : BitVec 16) (a : Word) : Option PageMap :=
  if gMod a ≠ s.modNum || gSpace a ≠ 1 then none
  else match s.pageOf asid a with
    | some p => if pageHome p = f then some p else none
    | none => none

/-- Key of the byte at offset `off` of a page. -/
def pageKey (p : PageMap) (off : Nat) : Nat := Config.weightKey (pageHome p) (pageInStack p * 2 ^ 21 + off)
/-- Line number within the stack of the byte at an offset of a page. -/
def pageLine (p : PageMap) (off : Nat) : Nat := (pageInStack p * 2 ^ 21 + off) / 128

/-! ### Page berths (R217) -/

def Feeder.berth? (x : Feeder) (page : Nat) : Option PageBerth := x.berths.find? (·.page == page)
def Feeder.setBerth (x : Feeder) (b : PageBerth) : Feeder :=
  { x with berths := x.berths.filter (fun c => c.page != b.page) ++ (if b.holder.isNone && b.passage.isNone && b.views.isEmpty then [] else [b]) }

/-- A core as a remote holder. -/
def State.asHolder (s : State) (r : CoreRef) : Holder :=
  match r with
  | .tile id w => { modl := s.modNum, kind := if w then 1 else 0, num := BitVec.ofNat 16 id, core := 0, asid := s.asidOf r }
  | .feeder f c => { modl := s.modNum, kind := 5, num := BitVec.ofNat 16 f, core := BitVec.ofNat 2 c, asid := s.asidOf r }

/-- A page rests with its home feeder. -/
def State.pageRests (s : State) (p : PageMap) : Bool :=
  match (s.feeder (pageHome p)).berth? (pageInStack p) with
  | none => true
  | some b => b.holder.isNone && b.passage.isNone

/-- A holder may store to a page: it holds the berth, or the page rests and it is a core of the home feeder in the page's ASID. (log 46, DEDUCED) -/
def State.mayStorePage (s : State) (h : Holder) (p : PageMap) : Bool :=
  if s.pageRests p then h.modl == s.modNum && h.kind == 5 && h.num.toNat == pageHome p && h.asid == p.asid
  else match (s.feeder (pageHome p)).berth? (pageInStack p) with
    | some b => b.passage.isNone && b.holder == some h
    | none => false

/-! ### Lines -/

/-- The writes of a stack's lines not yet visible, as bytes by key, oldest first. -/
def Feeder.pendingBytes (x : Feeder) : List (Nat × Byte) := x.lineWrites.flatMap (·.bytes)

/-- A byte of the weight store as the last write left it, visible or not. -/
def State.latestWeight (s : State) (f k : Nat) : Byte :=
  (s.feeder f).pendingBytes.foldl (fun b x => if x.1 = k then x.2 else b) (readCell s.mem k)

/-- Poison marks of the weight store lie on sectors of 16 bytes. -/
def State.poisonedSector (s : State) (k n : Nat) : Option Nat :=
  (List.range ((k % 16 + n + 15) / 16)).findSome? fun i => let q := k / 16 * 16 + 16 * i; if s.poison.contains q then some q else none

/-- A sector written whole loses its poison mark (R253). -/
def State.healSectors (s : State) (bytes : List (Nat × Byte)) : State :=
  let sectors := (bytes.map fun b => b.1 / 16 * 16).eraseDups
  let whole := sectors.filter fun q => (List.range 16).all fun i => bytes.any (·.1 == q + i)
  { s with poison := s.poison.filter fun k => !whole.contains k }

/-- A line that a core's pipeline writes at a feeder now: visible two cycles later (R390). -/
def State.writeLine (s : State) (f : Nat) (c : Fin 4) (bytes : List (Nat × Byte)) : State :=
  (s.modFeeder f fun x => { x with lineWrites := x.lineWrites ++ [⟨2, c, bytes⟩] }).healSectors bytes

/-- One cycle of the lines on their way. -/
def State.tickLines (s : State) (f : Nat) : State :=
  let ws := (s.feeder f).lineWrites.map fun w => { w with due := w.due - 1 }
  let now := ws.filter (·.due == 0)
  if ws.isEmpty then s
  else
    let s := s.modFeeder f fun x => { x with lineWrites := ws.filter (·.due != 0) }
    { s with mem := now.foldl (fun m w => writeCells m w.bytes) s.mem }

/-! ### The undo log (R243) -/

/-- Entries of a crew's log at a feeder. -/
def Slot.undoCount (x : Slot) (f : Nat) : Nat :=
  (x.undo.filter fun u => Config.weightKey f 0 ≤ u.1 && u.1 < Config.weightKey (f + 1) 0).length

/-- Entries a log holds, and the count past 32 MiB. -/
def undoMax : Nat := 493447
def undoHalf : Nat := 246723

/-- Before the first store to a line after a mark its old contents go to the crew's log; a log that passes 32 MiB asks for a mark, one that
is full is a DRAW crew fault. -/
def State.undoNote (s : State) (slot : Option Nat) (f key : Nat) : State :=
  let line := key / 128 * 128
  match slot with
  | none => s
  | some n =>
    let x := s.slot n
    if x.undo.any (·.1 == line) then s
    else if undoMax ≤ x.undoCount f then (s.modRun n fun r => { r with fatal := true }).unitFault (some n) 1 f (65536 + f) Cause.draw 0
    else
      let old := (List.range 128).map fun i => s.latestWeight f (line + i)
      let marks := s.poison.filter fun k => line ≤ k && k < line + 128
      let s := s.modSlot n fun x => { x with undo := (line, old, marks) :: x.undo }
      if x.undoCount f = undoHalf then s.wishMark n else s

/-- The crew whose slot owns the ASID's page holder: the slot of a storing core. -/
def State.slotOfAsidHolder (s : State) (h : Holder) : Option Nat :=
  if h.modl ≠ s.modNum then (s.lh.slots.find? fun x => x.2.rec_.asid == h.asid).map (·.1)
  else if h.kind = 5 then (s.feeder h.num.toNat).slot
  else if h.kind.toNat ≤ 1 then (s.tile h.num.toNat).slot
  else none

end Sys2Proof.Machine
end

