-- ==== Sys2Proof/Machine/FeederIsa.lean ====
section
/-! DEFINITION. The F column: FINJ, FPREF, FUPD, FRED, FGRP (spec 15 R383 to R391; 06 R128 to R136), and the update pipelines (R390). -/

namespace Sys2Proof.Machine

/-! ### Group entries (R128, R130, R132, R136) -/

abbrev GroupEntry := BitVec 2048
def GroupEntry.valid (e : GroupEntry) : Bool := e.getLsbD 1619
def GroupEntry.deal (e : GroupEntry) : Bool := e.getLsbD 1618
def GroupEntry.fmt (e : GroupEntry) : Nat := (e.extractLsb' 1614 4).toNat
def GroupEntry.size (e : GroupEntry) : Nat := ((e.extractLsb' 1611 3).toNat + 1) * 512
def GroupEntry.width (e : GroupEntry) : Nat := (e.extractLsb' 1608 3).toNat + 1
def GroupEntry.lam0 (e : GroupEntry) : Nat := (e.extractLsb' 1604 4).toNat
def GroupEntry.guides (e : GroupEntry) : BitVec 16 := e.extractLsb' 1588 16
def GroupEntry.patLen (e : GroupEntry) : Nat := (e.extractLsb' 1584 4).toNat + 1
def GroupEntry.pat (e : GroupEntry) (i : Nat) : Nat := (e.extractLsb' (1536 + 3 * (i % e.patLen)) 3).toNat
/-- Beats of a block on each wavelength (R135). -/
def GroupEntry.beats (e : GroupEntry) : Nat := (e.size + 8 * e.width - 1) / (8 * e.width)

/-- A rung in use. -/
structure Rung where
  set  : Nat
  code : Nat
  wg   : Nat
  row  : Nat
  deriving DecidableEq, Repr

def GroupEntry.rungBits (e : GroupEntry) (k : Nat) : BitVec 24 := e.extractLsb' (24 * k) 24
/-- The rungs with V set. -/
def GroupEntry.rungs (e : GroupEntry) : List Rung :=
  (List.range 64).filterMap fun k =>
    let b := e.rungBits k
    if b.getLsbD 21 then some { set := (b.extractLsb' 18 3).toNat, code := (b.extractLsb' 12 6).toNat, wg := (b.extractLsb' 8 4).toNat,
                                row := (b.extractLsb' 0 8).toNat }
    else none

/-- Insert by light order: rising rows from the north, falling from the south. -/
def insertRung (north : Bool) (r : Rung) : List Rung → List Rung
  | [] => [r]
  | x :: l => if (if north then r.row ≤ x.row else x.row ≤ r.row) then r :: x :: l else x :: insertRung north r l

/-- The ladder of a waveguide and a set, in light order (R131). -/
def ladder (north : Bool) (rs : List Rung) (wg set : Nat) : List Rung :=
  (rs.filter fun r => r.wg == wg && r.set == set).foldl (fun l r => insertRung north r l) []

/-- The light floor: every non-zero code receives at least 1/64; `num`/`den` is the fraction that arrives (R132). -/
def floorOk : Nat → Nat → List Rung → Bool
  | _, _, [] => true
  | num, den, r :: l =>
    if r.code = 0 then floorOk num den l
    else den * r.code ≤ 64 * num && floorOk (num * (r.code - 1)) (den * r.code) l

/-- Two rungs in use share WG, ROW and SET. -/
def rungsClash : List Rung → Bool
  | [] => false
  | r :: l => l.any (fun q => q.wg == r.wg && q.row == r.row && q.set == r.set) || rungsClash l

/-- The tile a rung's ring lies at. -/
def State.rungTile (s : State) (f : Nat) (r : Rung) : Option Nat := s.logicalAt (s.guideCol f r.wg) r.row

/-- Entries of a feeder's table for an injection at count t: the last write in force for it (R130, R391). -/
def Feeder.entryFor (x : Feeder) (g : BitVec 8) (t : BitVec 48) : GroupEntry :=
  (x.grpNew.filter fun w => w.group == g && (w.from_ == t || passed w.from_ t)).foldl (fun _ w => w.entry) (lookupD x.grptab g.toNat 0)

/-- Entries as the writes accepted so far leave them. -/
def Feeder.lastEntry (x : Feeder) (g : Nat) : GroupEntry :=
  (x.grpNew.filter fun w => w.group.toNat == g).foldl (fun _ w => w.entry) (lookupD x.grptab g 0)

/-- Sum of the block sizes of a feeder's valid groups, with group g's entry replaced (R136). -/
def Feeder.replayLoad (x : Feeder) (g : Nat) (e : GroupEntry) : Nat :=
  ((List.range 256).map fun i => let d := if i = g then e else x.lastEntry i; if d.valid then d.size else 0).foldl (· + ·) 0

/-- The rectangle of a slot's crew on this module, by logical tile. -/
def State.inRect (s : State) (x : Slot) (id : Nat) : Bool :=
  x.rec_.x0.toNat ≤ s.xOf id && s.xOf id < x.rec_.x0.toNat + x.width && x.rec_.y0.toNat ≤ s.yOf id && s.yOf id < x.rec_.y0.toNat + x.height

/-- A VALID entry that R130 refuses at feeder f of a crew's slot. -/
def State.entryRefused (s : State) (f : Nat) (slot : Option Nat) (g : Nat) (e : GroupEntry) : Bool :=
  let rs := e.rungs
  e.valid && (
    7 < e.fmt || 15 < e.lam0 + e.width - 1 || e.guides == 0
    || e.extractLsb' 1620 428 ≠ 0 || (List.range 64).any (fun k => (e.rungBits k).extractLsb' 22 2 ≠ 0)
    || rs.any (fun r => !(e.guides.getLsbD r.wg) || 191 < r.row)
    || rungsClash rs || (!e.deal && rs.any (·.set ≠ 0))
    || (List.range 16).any (fun w => (List.range 8).any fun k => !floorOk 1 1 (ladder (f < 32) rs w k))
    || 192 * 1024 < (s.feeder f).replayLoad g e
    || rs.any (fun r => match s.rungTile f r with
        | none => true
        | some id => s.dead id || (match slot with | some n => !s.inRect (s.slot n) id | none => true)))

/-- An entry becomes the group's: for injections at `from_` or later; replay blocks go (R391). -/
def Feeder.writeGroup (x : Feeder) (g : BitVec 8) (from_ : BitVec 48) (e : GroupEntry) : Feeder :=
  { x with grpNew := x.grpNew ++ [⟨g, from_, e⟩], replay := x.replay.filter fun r => r.group != g }

/-- Writes in force at count t move into the table, and restart their groups' DEAL counts at 0. -/
def Feeder.foldGroups (x : Feeder) (t : BitVec 48) : Feeder :=
  let now := x.grpNew.filter fun w => w.from_ == t || passed w.from_ t
  { x with grpNew := x.grpNew.filter fun w => !(w.from_ == t || passed w.from_ t)
           grptab := now.foldl (fun m w => insert m w.group.toNat w.entry) x.grptab
           deal := now.foldl (fun m w => insert m w.group.toNat 0) x.deal }

/-- FGRP (R391). -/
def execFgrp (a : Reg) (g : BitVec 8) (s : State) : Result :=
  guarded (.fgrp a g) s fun s =>
    match s.actor with
    | .tile _ _ => s
    | .feeder f _ =>
      let v := s.g a
      let bad (cause : BitVec 8) (w : Word) : State := s.lateFault s.actor cause w
      match s.windowAt s.actor v.toNat with
      | none => bad Cause.window v
      | some (_, d) =>
        if !d.has (v.toNat + 255) then bad Cause.window v
        else if v.toNat % 256 ≠ 0 then bad Cause.align v
        else
          let addrs := (List.range 256).map (v.toNat + ·)
          match s.poisonedAt s.actor addrs with
          | some p => bad Cause.eccConsumed (BitVec.ofNat 64 (p / 8 * 8))
          | none =>
            let e : GroupEntry := BitVec.ofNat 2048 (leNat (s.readLocal s.actor addrs))
            if s.entryRefused f (s.slotOf s.actor) g.toNat e then bad Cause.illegal (BitVec.ofNat 64 s.wordAt)
            else s.modFeeder f fun x => x.writeGroup g (s.vcycOf s.actor + 2) e

/-! ### FINJ and FPREF (R386, R387) -/

/-- Two blocks meet on a (waveguide, wavelength) pair in some count (R135). -/
def injectClash (guides : BitVec 16) (lam0 width : Nat) (t : BitVec 48) (beats : Nat) (b : Inject) : Bool :=
  (guides &&& b.wgmask) ≠ 0 && lam0 < b.lam0 + b.width && b.lam0 < lam0 + width
    && ((t - b.t).toNat < b.beats || (b.t - t).toNat < beats)

/-- Queued blocks leave in order of t, equal t in order of entry. -/
def insertInject (b : Inject) : List Inject → List Inject
  | [] => [b]
  | x :: r => if passed b.t x.t then b :: x :: r else x :: insertInject b r

/-- FINJ (R386). -/
def execFinj (a t : Reg) (g : BitVec 8) (s : State) : Result :=
  guarded (.finj a t g) s fun s =>
    match s.actor, s.slotOf s.actor with
    | .feeder f _, some n =>
      let v := s.g a
      let at_ := (s.g t).extractLsb' 0 48
      let now := s.vcycOf s.actor
      let x := s.feeder f
      let e := x.entryFor g at_
      let bad (cause : BitVec 8) (w : Word) : State := s.lateFault s.actor cause w
      if !e.valid then bad Cause.illegal (BitVec.ofNat 64 s.wordAt)
      else if (s.feederPage f (s.asidOf s.actor) v).isNone then bad Cause.remoteFault v
      else if v.toNat % 512 ≠ 0 then bad Cause.align v
      else if 2 ^ 21 < gOff v + e.size then bad Cause.window v
      else if passed at_ (now + 4) then bad Cause.late (at_.zeroExtend 64)
      else if 64 ≤ x.queue.length || (x.queue ++ x.flying).any (injectClash e.guides e.lam0 e.width at_ e.beats) then bad Cause.collide 0
      else
        let b : Inject := { id := x.nextId, group := g, gaddr := v, t := at_, slot := n, lam0 := e.lam0, width := e.width,
                            wgmask := e.guides, beats := e.beats, copied := none }
        let s := s.modFeeder f fun x => { x with queue := insertInject b x.queue, nextId := x.nextId + 1 }
        let s := if at_ = now + 4 then s.soon (.finjCopy f b.id) else s.atCount n (at_ - 4) (.finjCopy f b.id)
        s.atCount n at_ (.injectionModulate f b.id)
    | _, _ => s

/-- A line's read leaves for the stack, and its data comes after a time that is not stated. -/
def State.readLine (s : State) (f n line : Nat) : State :=
  (s.modFeeder f fun x =>
    { x with reads := x.reads ++ [{ line := line, issued := (s.slot n).run.vcyc, slot := n, retried := false, held := false }] }).afterFree
      (.weightReadData f line)

/-- A weight read issues for an injection; it is retried 512 counts later (R74). -/
def State.readWeightLine (s : State) (f n line : Nat) : State :=
  let x := s.feeder f
  if x.present.contains line || x.reads.any (·.line == line) then s
  else (s.readLine f n line).atCount n ((s.slot n).run.vcyc + 512) (.weightReadRetry f line)

/-- Lines of 128 B that the 64 MiB of last-level cache of a feeder's slice holds (R3). -/
def sliceLines : Nat := 524288

/-- A line comes into the slice; a full slice gives up one that `pick` names (log 36, DESIGN CHOICE). -/
def Feeder.keepLine (x : Feeder) (line pick : Nat) : Feeder :=
  if x.present.contains line then x
  else { x with present := line :: (if x.present.length < sliceLines then x.present else x.present.eraseIdx (pick % sliceLines)) }

/-- FPREF (R387). -/
def execFpref (a l : Reg) (s : State) : Result :=
  guarded (.fpref a l) s fun s =>
    match s.actor, s.slotOf s.actor with
    | .feeder f _, some n =>
      let v := s.g a
      let len := (s.g l).toNat
      match s.feederPage f (s.asidOf s.actor) v with
      | none => s.lateFault s.actor Cause.remoteFault v
      | some p =>
        if len = 0 || 2 ^ 21 < gOff v + len then s.lateFault s.actor Cause.window v
        else
          let lo := pageLine p (gOff v)
          let hi := pageLine p (gOff v + len - 1)
          (List.range (hi + 1 - lo)).foldl (fun s i => s.readWeightLine f n (lo + i)) s
    | _, _ => s

/-! ### FUPD and FRED (R388, R389) -/

/-- Element formats of X4 (R385). -/
def ffmtIeee : FFmt → Ieee
  | .bf16 => bf16
  | .fp16 => fp16
  | .fp32 => fp32
def ffmtSize (f : FFmt) : Nat := match f with | .fp32 => 4 | _ => 2

/-- n elements of `size` bytes lie in one page. -/
def inPage (a : Word) (n size : Nat) : Bool := gOff a + n * size ≤ 2 ^ 21

/-- An operation joins its core's pipeline; its first line is processed at E + 8 or one cycle after the one before it (R390). -/
def State.pushPipe (s : State) (f c : Nat) (k : PipeKind) (fmt : FFmt) (a : Word) (n : Nat) : State :=
  let op : PipeOp := { seq := s.seq, kind := k, fmt := fmt, gaddr := a, n := n, done := 0, due := 8, mode := s.me.cvmode, key := s.me.srkey,
                       flags := 0, acc := [], asid := s.asidOf s.actor }
  s.modFeeder f fun x => { x with pipes := x.pipes.set (feederCore c) (x.pipes[feederCore c] ++ [op]) }

/-- FUPD (R388). -/
def execFupd (op : FupdOp) (fmt : FFmt) (w sr c : Reg) (nM1 : BitVec 16) (s : State) : Result :=
  guarded (.fupd op fmt w sr c nM1) s fun s =>
    match s.actor with
    | .tile _ _ => s
    | .feeder f k =>
      let wa := s.g w
      let sa := s.g sr
      let n := nM1.toNat + 1
      let bad (cause : BitVec 8) (a : Word) : State := s.lateFault s.actor cause a
      match s.feederPage f (s.asidOf s.actor) wa, s.feederPage f (s.asidOf s.actor) sa with
      | none, _ => bad Cause.remoteFault wa
      | _, none => bad Cause.remoteFault sa
      | some p, some _ =>
        if !p.write then bad Cause.remoteFault wa
        else if wa.toNat % ffmtSize fmt ≠ 0 then bad Cause.align wa
        else if sa.toNat % 4 ≠ 0 then bad Cause.align sa
        else if !inPage wa n (ffmtSize fmt) then bad Cause.window wa
        else if !inPage sa n 4 then bad Cause.window sa
        else if !s.mayStorePage (s.asHolder s.actor) p then bad Cause.berth wa
        else s.pushPipe f k (.upd op sa ((s.g c).extractLsb' 0 32) s.vcycLow) fmt wa n

/-- FRED (R389). -/
def execFred (op : FredOp) (fmt : FFmt) (d a : Reg) (nM1 : BitVec 16) (s : State) : Result :=
  guarded (.fred op fmt d a nM1) s fun s =>
    match s.actor with
    | .tile _ _ => s
    | .feeder f k =>
      let v := s.g a
      let n := nM1.toNat + 1
      let e := ffmtSize fmt
      match s.feederPage f (s.asidOf s.actor) v with
      | none => s.lateFault s.actor Cause.remoteFault v
      | some p =>
        if v.toNat % e ≠ 0 then s.lateFault s.actor Cause.align v
        else if !inPage v n e then s.lateFault s.actor Cause.window v
        else s.pushPipe f k (.red op d (pageLine p (gOff v + n * e - 1) + 1 - pageLine p (gOff v))) fmt v n

/-- One element of an update, exactly (R388). -/
def updElem (op : FupdOp) (rnd : BitVec 3) (c w x : Num) : Num × BitVec 7 :=
  let both (a b : Num × BitVec 7) : Num × BitVec 7 := (a.1, a.2 ||| b.2)
  match op with
  | .add => w.add rnd x
  | .axpy => c.fma rnd x w
  | .scal => c.mul w
  | .copy => (x, x.nv)
  | .lerp =>
    let d := w.add rnd x.negate
    let p := c.mul d.1
    both (both (x.add rnd p.1) p) d
  | .sqlerp =>
    let q := x.mul x
    let d := w.add rnd q.1.negate
    let p := c.mul d.1
    both (both (both (q.1.add rnd p.1) p) d) q

/-- The value of a reduction over elements (R389). -/
def redValue (op : FredOp) (l : List Num) : Num × BitVec 7 :=
  let nv := orFlags (l.map (·.nv))
  let sum (l : List (Num × BitVec 7)) : Num × BitVec 7 :=
    let fl := orFlags (l.map (·.2)) ||| nv
    let infs := l.filterMap fun x => match x.1 with | .inf n => some n | _ => none
    if l.any (·.1.isNan) then (.qnan, fl)
    else match infs with
      | n :: r => if r.all (· == n) then (.inf n, fl) else (.qnan, fl ||| FFlag.nv)
      | [] =>
        let fins := l.filterMap fun x => match x.1 with | .fin n m e => some (n, m, e) | _ => none
        let (t, e) := exactSum fins
        (if t = 0 then .fin (fins.all (·.1)) 0 0 else .ofScaled t e, fl)
  let fold (f : Num → Num → Num × BitVec 7) (l : List Num) : Num × BitVec 7 :=
    match l with
    | [] => (.zero, 0)
    | x :: r => r.foldl (fun y z => let w := f y.1 z; (w.1, y.2 ||| w.2)) (x, nv)
  match op with
  | .sum => sum (l.map fun x => (x, 0))
  | .sumsq => sum (l.map fun x => x.mul x)
  | .max => fold Num.maxNum l
  | .min => fold Num.minNum l
  | .amax => fold Num.maxNum (l.map Num.magnitude)

/-- Elements of an operation that lie in its current line. -/
def PipeOp.inLine (o : PipeOp) : Nat :=
  let e := ffmtSize o.fmt
  min (o.n - o.done) ((128 - (gOff o.gaddr + o.done * e) % 128) / e)

/-- A byte of the weight store as a core's pipeline reads it: a reduction sees the visible lines, an update also the lines its own pipeline
wrote, in order (R390). -/
def State.pipeByte (s : State) (f c : Nat) (o : PipeOp) (k : Nat) : Byte :=
  match o.kind with
  | .red _ _ _ => readCell s.mem k
  | .upd _ _ _ _ => (((s.feeder f).lineWrites.filter (·.pipe == feederCore c)).flatMap (·.bytes)).foldl (fun b x => if x.1 = k then x.2 else b) (readCell s.mem k)

/-- The element of `size` bytes at a key, as a core's pipeline reads it. -/
def State.weightElem (s : State) (f c : Nat) (o : PipeOp) (k size : Nat) : Nat := leNat ((List.range size).map fun i => s.pipeByte f c o (k + i))

/-- An update reads W, unless it copies S over it (R388); a reduction reads its elements. -/
def PipeOp.readsW (o : PipeOp) : Bool :=
  match o.kind with
  | .upd .copy _ _ _ => false
  | _ => true

/-- Replace the head of a core's pipeline, or remove it. -/
def State.setPipe (s : State) (f c : Nat) (o : Option PipeOp) : State :=
  s.modFeeder f fun x =>
    let rest := x.pipes[feederCore c].drop 1
    { x with pipes := x.pipes.set (feederCore c) (match o with | some o => o :: rest | none => rest) }

/-- A pipeline meets a line that is not in the slice: LATE in a timed core; a free core's pipeline reads it itself and waits (R390). -/
def State.pipeAbsent (s : State) (r : CoreRef) (f c line : Nat) : State :=
  if (s.core r).timed then (s.setPipe f c none).lateFault r Cause.late ((s.vcycOf r).zeroExtend 64)
  else match s.slotOf r with
    | some n => if (s.feeder f).reads.any (·.line == line) then s else s.readLine f n line
    | none => s

/-- The operation ends with a fault found at one of its lines. -/
def State.pipeStop (s : State) (f c : Nat) (cause : BitVec 8) (a : Word) : State := (s.setPipe f c none).lateFault (.feeder f c) cause a

/-- Offset in its region of the next element of a sequence of the operation's format. -/
def PipeOp.offset (o : PipeOp) (a : Word) : Nat := gOff a + o.done * ffmtSize o.fmt

/-- The elements of the operation's next line. -/
def State.lineElems (s : State) (f c k : Nat) (o : PipeOp) : List Num :=
  (List.range o.inLine).map fun i => (ffmtIeee o.fmt).decode (s.weightElem f c o (k + i * ffmtSize o.fmt) (ffmtSize o.fmt))

/-- A line of a reduction: its elements join those read; after the last line the result is written. -/
def State.redLine (s : State) (f c : Nat) (o : PipeOp) (op : FredOp) (d : Reg) (elems : List Num) : State :=
  let acc := o.acc ++ elems.map fun x => (rneF32 x).1
  let o := { o with done := o.done + o.inLine, acc := acc, flags := o.flags ||| orFlags (elems.map (·.nv)) }
  if o.done ≠ o.n then s.setPipe f c (some o)
  else
    let y := redValue op (acc.map f32)
    let z := rneF32 y.1
    let s := (s.setPipe f c none).writeAt (.feeder f c) o.seq 9 (.g d (z.1.zeroExtend 64))
    let fl := o.flags ||| y.2 ||| z.2
    if fl = 0 then s else s.writeAt (.feeder f c) o.seq 9 (.flags fl)

/-- The new values and flags of a line of an update. -/
def State.updElems (s : State) (f c sk : Nat) (o : PipeOp) (op : FupdOp) (c32 vc : BitVec 32) (elems : List Num) : List (Nat × BitVec 7) :=
  let rnd : BitVec 3 := o.mode.extractLsb' 0 3
  (List.range o.inLine).map fun i =>
    let x := f32 (BitVec.ofNat 32 (s.weightElem f c o (sk + 4 * i) 4))
    let y := updElem op rnd (f32 c32) (elems.getD i .zero) x
    let draw := drawOf ((o.done + i) % 2 ^ 20) 0 o.key (o.gaddr.extractLsb' 0 32) vc
    let z := (ffmtIeee o.fmt).encode rnd false draw y.1
    (z.1, z.2 ||| y.2)

/-- A line of an update is written. -/
def State.updLine (s : State) (f c : Nat) (o : PipeOp) (k : Nat) (outs : List (Nat × BitVec 7)) : State :=
  let bytes := keyed k (outs.flatMap fun z => leBytes (ffmtSize o.fmt) z.1)
  let fl := o.flags ||| orFlags (outs.map (·.2))
  let s := (s.undoNote (s.slotOf (.feeder f c)) f k).writeLine f (feederCore c) bytes
  if o.done + o.inLine ≠ o.n then s.setPipe f c (some { o with done := o.done + o.inLine, flags := fl })
  else
    let s := s.setPipe f c none
    if fl = 0 then s else s.writeAt (.feeder f c) o.seq 1 (.flags fl)

/-- One line of an update: the state elements lie at key `sk`. -/
def State.updAt (s : State) (f c : Nat) (o : PipeOp) (k sk : Nat) (op : FupdOp) (sa : Word) (c32 vc : BitVec 32) (elems : List Num) : State :=
  match if op = .scal then none else s.poisonedSector sk (o.inLine * 4) with
  | some _ => s.pipeStop f c Cause.eccConsumed (sa + BitVec.ofNat 64 (o.done * 4))
  | none => s.updLine f c o k (s.updElems f c sk o op c32 vc elems)

/-- One line of an operation whose elements lie at key `k`, in the line of the given number. -/
def State.pipeAt (s : State) (f c : Nat) (o : PipeOp) (k line : Nat) : State :=
  if !(s.feeder f).present.contains line then s.pipeAbsent (.feeder f c) f c line
  else match if o.readsW then s.poisonedSector k (o.inLine * ffmtSize o.fmt) else none, o.kind with
    | some _, _ => s.pipeStop f c Cause.eccConsumed (o.gaddr + BitVec.ofNat 64 (o.done * ffmtSize o.fmt))
    | none, .red op d _ => s.redLine f c o op d (s.lineElems f c k o)
    | none, .upd op sa c32 vc =>
      match s.pageOf o.asid sa with
      | none => s.pipeStop f c Cause.remoteFault sa
      | some q => s.updAt f c o k (pageKey q (gOff sa + o.done * 4)) op sa c32 vc (s.lineElems f c k o)

/-- One line of the operation at the head of a core's pipeline (R390). -/
def State.pipeLine (s : State) (f c : Nat) : State :=
  match (s.feeder f).pipes[feederCore c] with
  | [] => s
  | o :: _ =>
    if o.due ≠ 0 then s
    else match s.pageOf o.asid o.gaddr with
      | none => s.pipeStop f c Cause.remoteFault o.gaddr
      | some p => s.pipeAt f c o (pageKey p (o.offset o.gaddr)) (pageLine p (o.offset o.gaddr))

/-- A cycle of a core's pipeline. -/
def State.pipeCycle (s : State) (f c : Nat) : State :=
  let s := s.pipeLine f c
  s.modFeeder f fun x =>
    { x with pipes := x.pipes.set (feederCore c) (x.pipes[feederCore c].map fun o => { o with due := o.due - 1 }) }

end Sys2Proof.Machine
end

