-- ==== Sys2Proof/Machine/Holds.lean ====
section
/-! DEFINITION. Counters and holds (spec 03 R54 to R75; 16 R404, R405): the checks of TIME and VCYC, drift, announcements, releases, and
what a crew does at its next count. -/

namespace Sys2Proof.Machine

/-! ### Running a count -/

/-- The start of a block at a tile, by the arrival maps it begins a delivery for; one that none matches is listed last (R143). -/
def State.byMap (s : State) (i : Instr) : List (Nat × Instr) :=
  match i with
  | .deliveryStart tile lane lams tag f t light _ =>
    match (s.tile tile).startMaps lane lams tag with
    | [] => [(8, i)]
    | ms => ms.map fun k => (k, .deliveryStart tile lane lams tag f t light (some (BitVec.ofNat 3 k)))
  | _ => []

/-- The events due at the count that a crew now runs; deliveries that start in one count go by their arrival maps (R143). -/
def State.dueAt (s : State) (n : Nat) : List Instr × State :=
  let c := (s.slot n).run.vcyc
  let hit (d : Due) : Bool := d.at_ == .count n c
  let evs := (s.agenda.filter hit).map (·.ev)
  let starts := evs.flatMap s.byMap
  let sorted := (List.range 9).flatMap fun k => (starts.filter (·.1 == k)).map (·.2)
  (sorted ++ evs.filter fun e => (s.byMap e).isEmpty, { s with agenda := s.agenda.filter fun d => !hit d })

/-- The crew's machinery runs its count: the sequencer broadcasts it, and what is due at it happens (R54, R60). -/
def State.goLive (s : State) (n : Nat) : State :=
  let s := s.modRun n fun r => { r with live := true, holdCount := 0 }
  let (evs, s) := s.dueAt n
  let crew := (s.slot n).rec_.crew
  { s with work := ((Instr.vcycBroadcast crew :: evs).map Work.ev) ++ s.work }

/-- The count just run is over (R54, R56, R63, R156). -/
def CrewRun.nextCount (r : CrewRun) : CrewRun :=
  { r with vcyc := r.vcyc + 1, row := r.row + 1, since := if r.since = 0xFFFFFF then r.since else r.since + 1, live := false }

/-- A pause of R64 begins before the count that now stands next. -/
def CrewRun.driftDue (r : CrewRun) : Bool :=
  match r.drift with
  | some (e, _) => r.vcyc == e + 65
  | none => false

/-- A crew at the start of a TIME cycle: a pause, the draw-off count, a hold, or the next count, with the sequencer's broadcast in each
(R54, R60, R64, R70, R72); a mark that a log has asked for is requested at its boundary (R243). -/
def State.crewGo (s : State) (n : Nat) : State :=
  let x := s.slot n
  let r := x.run
  let crew := x.rec_.crew
  let sent (s : State) : State := s.soon (.vcycBroadcast crew)
  let s := if x.markDue then (s.modRun n fun r => { r with markWish := false }).drawCrew n .mark else s
  if !(x.rec_.state == .running || x.rec_.state == .drawing || x.rec_.state == .killing) then s
  else if r.stopped then sent s
  else if r.pause ≠ 0 then sent (s.modRun n fun r => { r with pause := r.pause - 1 })
  else if r.draw.any (fun d => d.v == r.vcyc) then sent (s.soon (.drawOff crew))
  else match r.holds.find? fun h => h.h == r.vcyc with
    | none => s.goLive n
    | some h =>
      if r.holdCount = 0 then sent (s.soon (.holdStart crew))
      else if h.opens = 0 && h.len ≤ r.holdCount then s.soon (.holdEnd crew)
      else sent (s.modRun n fun r => { r with holdCount := r.holdCount + 1 })

/-! ### Announcements and releases (R69, R71, R72) -/

/-- One announcement of a hold merged with those of the same start; a length of zero is an open hold (R69, R72). -/
def mergeHold (l : List HoldAnn) (m : HoldMsg) : List HoldAnn :=
  let n := if m.len = 0 then 1 else 0
  if l.any (·.h == m.h) then
    l.map fun x => if x.h = m.h then { x with len := max x.len m.len, whys := x.whys ++ [m.why], opens := x.opens + n } else x
  else l ++ [{ h := m.h, len := m.len, whys := [m.why], opens := n }]

/-- A hold announced by a member or the anchor: it reaches the members of this module within 32 cycles, and leaves for the crew's other
modules (R69, log 5, DESIGN CHOICE). -/
def State.announceAt (s : State) (n : Nat) (a : BitVec 48) (m : HoldMsg) : State :=
  let x := s.slot n
  let (d, s) := s.freeBelow 32
  (s.afterTime (d + 1) (.holdAnnounce x.rec_.crew a m none)).tellAll x (.hold x.rec_.crew a m)

/-- The announcement of a hold that starts HORIZON after the crew's present count. -/
def Slot.holdNow (x : Slot) (len : Nat) (why : HoldWhy) : HoldMsg :=
  { h := x.run.vcyc + x.rec_.horizon.zeroExtend 48, len := len, why := why }
def State.announceHold (s : State) (n len : Nat) (why : HoldWhy) : State := s.announceAt n (s.slot n).run.vcyc ((s.slot n).holdNow len why)

/-- The lockhouse announces an open hold through the anchor (R69). -/
def State.lockHold (s : State) (n : Nat) (why : HoldWhy) : State :=
  let x := s.slot n
  if x.modIdx = 0 then s.announceHold n 0 why else s.tellAnchor x (.askHold x.rec_.crew x.modIdx why)

/-- The announcer's release at hold count m (R71). -/
def State.sendRelease (s : State) (n : Nat) (h : BitVec 48) (m : Nat) : State :=
  let x := s.slot n
  let len := m + x.rec_.horizon.toNat
  let (d, s) := s.freeBelow 32
  (s.afterTime (d + 1) (.holdRelease x.rec_.crew ⟨h, len⟩ none)).tellAll x (.release x.rec_.crew h len)

/-- The announcer of an open hold lets it go: at once when the hold is in force, else when its count reaches 1. -/
def State.releaseHold (s : State) (n : Nat) (h : BitVec 48) : State :=
  let r := (s.slot n).run
  if r.vcyc = h && r.holdCount ≠ 0 then s.sendRelease n h r.holdCount
  else s.modRun n fun r => { r with rels := r.rels ++ [h] }

/-- The lockhouse lets an open hold of its own go: the anchor's releases it. -/
def State.lockRelease (s : State) (n : Nat) (why : HoldWhy) (h : BitVec 48) : State :=
  let x := s.slot n
  if x.modIdx = 0 then s.releaseHold n h else s.tellAnchor x (.endHold x.rec_.crew x.modIdx why)

/-- An open hold for a limit, which the lockhouse keeps for its release (R122). -/
def State.limitOne (s : State) (n : Nat) : State :=
  if s.lh.limitHeld.any (·.1 == n) then s
  else
    let s := { s with lh := { s.lh with limitHeld := s.lh.limitHeld ++ [(n, ((s.slot n).holdNow 0 .limit).h)] } }
    s.lockHold n .limit

/-- What a late announcement or release logs: the number of the towline it came by, if any (R69). -/
def lateVia (via : Option Nat) : Word := BitVec.ofNat 64 (via.getD 0)

/-- HOLD_ANNOUNCE: an announcement reaches the members, from this module or by a towline; one for a count that has been run is LATE (R69). -/
def execHoldAnnounce (crew : BitVec 16) (_a : BitVec 48) (m : HoldMsg) (via : Option Nat) (s : State) : Result :=
  done <|
    match s.slotOfCrew crew with
    | none => s
    | some n =>
      let r := (s.slot n).run
      let late : Bool := passed m.h r.vcyc || (m.h == r.vcyc && r.live)
      if late then s.seqFault n Cause.late (lateVia via)
      else (s.modRun n fun r => { r with holds := mergeHold r.holds m }).wakeAll (s.slot n).cores true

/-- HOLD_RELEASE: a release fixes L; one that arrives when the hold count has reached L is LATE (R71). -/
def execHoldRelease (crew : BitVec 16) (y : HoldSpan) (via : Option Nat) (s : State) : Result :=
  done <|
    match s.slotOfCrew crew with
    | none => s
    | some n =>
      let r := (s.slot n).run
      if !(r.holds.any fun x => x.h == y.h && x.opens ≠ 0) then s
      else if r.vcyc = y.h && y.len ≤ r.holdCount then s.seqFault n Cause.late (lateVia via)
      else s.modRun n fun r =>
        { r with holds := r.holds.map fun x => if x.h = y.h then { x with len := max x.len y.len, opens := x.opens - 1 } else x }

/-- HOLD_START: the machinery stands at count h and the hold count is 1; releases that waited for it leave (R70, R71). -/
def execHoldStart (crew : BitVec 16) (s : State) : Result :=
  done <|
    match s.slotOfCrew crew with
    | none => s
    | some n =>
      let r := (s.slot n).run
      let k := r.rels.countP (· == r.vcyc)
      let s := s.modRun n fun r => { r with live := false, holdCount := 1, rels := r.rels.filter (· != r.vcyc) }
      (List.range k).foldl (fun s _ => s.sendRelease n r.vcyc 1) s

/-- HOLD_END: the hold count has reached L, and the crew runs count h (R70). -/
def execHoldEnd (crew : BitVec 16) (s : State) : Result :=
  done <|
    match s.slotOfCrew crew with
    | none => s
    | some n => (s.modRun n fun r => { r with holds := r.holds.filter fun x => x.h != r.vcyc }).goLive n

/-- HOLDRQ (R405). -/
def execHoldrq (l : BitVec 16) (s : State) : Result :=
  guarded (.holdrq l) s fun s =>
    match s.slotOf s.actor with
    | some n => s.announceHold n l.toNat .program
    | none => s

/-! ### Drift (R62 to R65, R404) -/

/-- DRIFT: no effect while an earlier one of the crew on this module is pending (R64). -/
def execDrift (s : State) : Result :=
  guarded .drift s fun s =>
    match s.slotOf s.actor with
    | none => s
    | some n =>
      let r := (s.slot n).run
      if r.drift.isSome then s
      else
        let acc := s.driftAcc r
        let (p, dc, adj) : Nat × Int × BitVec 8 :=
          if 128 ≤ acc then (2, 1, 0x01) else if acc < -128 then (0, -1, 0xFF) else (1, 0, 0x00)
        s.modRun n fun r => { r with drift := some (r.vcyc, p), driftC := r.driftC + dc, lastAdj := adj, since := 0 }

/-- DRIFT_PAUSE: the machinery stands for P TIME cycles, VCYC reading E + 65 (R64). -/
def execDriftPause (crew : BitVec 16) (s : State) : Result :=
  done <|
    match s.slotOfCrew crew with
    | none => s
    | some n => s.modRun n fun r => match r.drift with
        | some (_, p) => { r with pause := p, drift := none }
        | none => r

/-! ### Counter checks (R60, R61) -/

/-- TIME_CHECK_PULSE: a unit whose TIME differs loads the corrected value and is recorded with its coordinates. -/
def execTimeCheckPulse (s : State) : Result :=
  done <|
    let badT := s.tiles.filter fun x => x.2.timeSkew ≠ 0
    let badF := s.feeders.filter fun x => x.2.timeSkew ≠ 0
    let s := { s with tiles := mapVals (fun _ t => { t with timeSkew := 0 }) s.tiles
                      feeders := mapVals (fun _ f => { f with timeSkew := 0 }) s.feeders }
    let s := badT.foldl (fun (s : State) x =>
      s.mcheck (BitVec.ofNat 64 (s.xOf x.1 * 256 + s.yOf x.1)) x.2.asid x.2.crew 0 x.1 0x02 (Config.noCause 0x02)) s
    let s := badF.foldl (fun (s : State) x => s.mcheck (BitVec.ofNat 64 x.1) x.2.asid x.2.crew 1 x.1 0x02 (Config.noCause 0x02)) s
    s.atTime (s.time + 2 ^ 20) .timeCheckPulse

/-- The cores of a member stop (R60, R74). -/
def State.stopCores (s : State) (rs : List CoreRef) : State :=
  rs.foldl (fun s r => s.modCore r fun c => if c.run = .running then { c with run := .stopped, waits := [] } else c) s

/-- VCYC_BROADCAST: a member whose VCYC[15:0] differs stops, and the crew takes PHASE_SKEW (R60). -/
def execVcycBroadcast (crew : BitVec 16) (s : State) : Result :=
  done <|
    match s.slotOfCrew crew with
    | none => s
    | some n =>
      let x := s.slot n
      let off (v : BitVec 48) : Bool := v.extractLsb' 0 16 ≠ 0
      let s := (x.tiles.filter fun t => off (s.tile t).vcycSkew && ((s.tile t).stager.run == .running || (s.tile t).worker.run == .running)).foldl
        (fun s t => (s.stopCores [.tile t true, .tile t false]).unitFault (some n) 0 t t Cause.phaseSkew (BitVec.ofNat 64 t)) s
      (x.feeders.filter fun f => off (s.feeder f).vcycSkew && (s.feeder f).cores.toList.any (·.run == .running)).foldl
        (fun s f => (s.stopCores ((List.range 4).map (.feeder f ·))).unitFault (some n) 1 f (65536 + f) Cause.phaseSkew (Config.feederMember f)) s

/-- A crew that runs counts, or soon will. -/
def SlotState.placed (st : SlotState) : Bool := st == .starting || st == .running || st == .drawing || st == .killing

/-- REFERENCE_LOSS: recorded, and every crew that spans this module and others takes DRIFT_LIMIT (R61). -/
def execReferenceLoss (s : State) : Result :=
  done <|
    let s := { s with pwr := { s.pwr with refLost := true } }.mcheck 0 0 0 3 0 0x06 (Config.noCause 0x06)
    (s.lh.slots.filter fun x => 1 < x.2.modules && x.2.rec_.state.placed).foldl (fun (s : State) x => s.seqFault x.1 Cause.driftLimit 0) s

/-! ### TIME words (R403) -/

/-- TIME.t -/
def execTimeT (d : Reg) (s : State) : Result := guarded (.timeT d) s fun s => s.laterG 1 d (s.timeAt s.actor)
/-- TIME.v -/
def execTimeV (d : Reg) (s : State) : Result := guarded (.timeV d) s fun s => s.laterG 1 d ((s.vcycOf s.actor).zeroExtend 64)
/-- TIME.off -/
def execTimeOff (d : Reg) (s : State) : Result :=
  guarded (.timeOff d) s fun s => s.laterG 1 d (s.timeAt s.actor - (s.vcycOf s.actor).zeroExtend 64)

end Sys2Proof.Machine
end

