-- ==== Sys2Proof/Machine/Automaton.lean ====
section
/-! DEFINITION. VPDA and VTMASK: the automaton vector, the table and its timed reads (spec 14 R343, R362 to R367). -/

namespace Sys2Proof.Machine

/-! ### The automaton vector (R363) -/

def autoErr (x : VReg) : Bool := (elem x 0).getLsbD 31
def autoState (x : VReg) : Nat := ((elem x 0).extractLsb' 0 16).toNat
def autoDepth (x : VReg) : Nat := (elem x 1).toNat
/-- TOP; 0 for the empty stack. -/
def autoTop (x : VReg) : Nat := if autoDepth x = 0 then 0 else ((elem x (1 + autoDepth x)).extractLsb' 0 16).toNat
def setElem (x : VReg) (n : Nat) (v : BitVec 32) : VReg := x.set (Fin.ofNat 64 n) v

/-- Every reserved field written as 0. -/
def autoClean (x : VReg) : VReg :=
  Vector.ofFn fun j =>
    if j.val = 0 then lane x j &&& 0xC000FFFF else if j.val = 1 then lane x j else (lane x j).extractLsb' 0 16 |>.zeroExtend 32

/-- Rejection: ERR set, ACC clear, the rest kept. -/
def autoReject (x : VReg) : VReg := autoClean (setElem x 0 ((elem x 0 ||| 0x80000000) &&& 0xBFFFFFFF))

/-- The configuration reached: STATE and ACC of the transition. -/
def autoReach (x : VReg) (tr : Word) : VReg :=
  autoClean (setElem x 0 ((tr.extractLsb' 0 16).zeroExtend 32 ||| (if tr.getLsbD 35 then 0x40000000 else 0)))

/-- One transition (R365, R366). -/
def autoStep (x : VReg) (tr : Word) : VReg :=
  let d := autoDepth x
  let sym : BitVec 32 := (tr.extractLsb' 16 16).zeroExtend 32
  match (tr.extractLsb' 32 3).toNat with
  | 0 => autoReach x tr
  | 1 => if d = 62 then autoReject x else autoReach (setElem (setElem x 1 (BitVec.ofNat 32 (d + 1))) (2 + d) sym) tr
  | 2 => if d = 0 then autoReject x else autoReach (setElem (setElem x (1 + d) 0) 1 (BitVec.ofNat 32 (d - 1))) tr
  | 3 => if d = 0 then autoReject x else autoReach (setElem x (1 + d) sym) tr
  | _ => autoReject x

/-! ### Table reads (R362, R364) -/

/-- n bytes at an offset of a window through the fetch path, or the fault of the read. -/
def State.tableRead (s : State) (r : CoreRef) (w : BitVec 4) (off n : Nat) : Except (BitVec 8 × Word) (List Byte × State) :=
  let d := s.window r w
  let a := d.base + off
  if !d.valid || (!(s.core r).keeper && !d.ur) then .error (Cause.window, w.zeroExtend 64)
  else match (List.range n).find? fun i => !(d.has (a + i)) with
    | some i => .error (Cause.window, BitVec.ofNat 64 (a + i))
    | none =>
      match s.poisonedAt r ((List.range n).map (a + ·)) with
      | some g => .error (Cause.eccConsumed, BitVec.ofNat 64 (g / 8 * 8))
      | none => .ok (s.fetchBytes r a n)

def TabHdr.ofBytes (b : List Byte) : TabHdr :=
  let f (o n : Nat) : Nat := leNat ((b.drop o).take n)
  { nstate := f 0 2, nsym := f 2 2, nclass := f 4 2, ntok := f 8 4, cmap := f 12 4, tran := f 16 4, mask := f 20 4 }

/-- A header that breaks a limit of R364. -/
def headerBad (b : List Byte) : Bool :=
  let h := TabHdr.ofBytes b
  h.nstate == 0 || h.nsym == 0 || h.nclass == 0 || leNat ((b.drop 6).take 2) ≠ 0 || h.ntok == 0 || 2 ^ 24 < h.ntok
    || h.cmap % 8 ≠ 0 || h.tran % 8 ≠ 0 || h.mask % 8 ≠ 0 || leNat (b.drop 24) ≠ 0

/-- The header of window w. -/
def State.tableHeader (s : State) (r : CoreRef) (w : BitVec 4) : Except (BitVec 8 × Word) (TabHdr × State) :=
  match s.tableRead r w 0 32 with
  | .error e => .error e
  | .ok (b, s) => if headerBad b then .error (Cause.window, BitVec.ofNat 64 (s.window r w).base) else .ok (TabHdr.ofBytes b, s)

/-- Bytes of a mask row. -/
def TabHdr.mrow (h : TabHdr) : Nat := 8 * ((h.ntok + 63) / 64)

/-! ### VPDA and VTMASK -/

/-- A read still to make in `due` cycles. -/
def State.autoLater (s : State) (a : Auto) : State := s.modMe fun c => { c with autos := c.autos ++ [a] }

/-- VPDA: the header at E; the class and the transition follow at E + 4 and E + 8 (R366). -/
def execVpda (vd va vb : Reg) (w : BitVec 4) (s : State) : Result :=
  guarded (.vpda vd va vb w) s fun s =>
    let x := s.v va
    let t := elem (s.v vb) 0
    let write (s : State) (y : VReg) : State := s.later 23 (.v vd (BitVec.allOnes 64) y)
    if autoErr x then write s (autoClean x)
    else match s.tableHeader s.actor w with
      | .error (cause, addr) => s.opFault cause addr
      | .ok (h, s) =>
        if h.nstate ≤ autoState x || h.nsym ≤ autoTop x || 62 < autoDepth x || h.ntok ≤ t.toNat then write s (autoReject x)
        else s.autoLater { seq := s.seq, due := 4, left := 23, read := .cls, hdr := h, win := w, a := x, t := t, vd := vd, kd := 0,
                           lanes := 64 }

/-- VTMASK: the header at E, the mask word at E + 4 when it is needed (R367). -/
def execVtmask (fold : BitVec 2) (kd : KReg) (va vb : Reg) (w : BitVec 4) (s : State) : Result :=
  guarded (.vtmask fold kd va vb w) s fun s =>
    let x := s.v va
    let c := elem (s.v vb) 0
    let n := foldBeats fold + 11
    let zero (s : State) : State := s.later n (.k kd (foldMask fold) 0)
    if autoErr x then zero s
    else match s.tableHeader s.actor w with
      | .error (cause, addr) => s.opFault cause addr
      | .ok (h, s) =>
        if 62 < autoDepth x || h.nstate ≤ autoState x || h.nsym ≤ autoTop x || h.mrow ≤ 8 * c.toNat then zero s
        else
          let off := h.mask + (autoState x * h.nsym + autoTop x) * h.mrow + 8 * c.toNat
          s.autoLater { seq := s.seq, due := 4, left := n, read := .mask off, hdr := h, win := w, a := x, t := c, vd := 0, kd := kd,
                        lanes := laneCount fold }

/-- A read that is due now: the next one, the result, or the fault of R343, which leaves the operation without effect. -/
def State.autoRead (s : State) (r : CoreRef) (a : Auto) : State :=
  let h := a.hdr
  let vec (s : State) (y : VReg) : State := s.writeAt r a.seq a.left (.v a.vd (BitVec.allOnes 64) y)
  let (off, n) : Nat × Nat := match a.read with
    | .cls => (h.cmap + 2 * a.t.toNat, 2)
    | .tran cls => (h.tran + 8 * ((autoState a.a * h.nsym + autoTop a.a) * h.nclass + cls), 8)
    | .mask off => (off, 8)
  match s.tableRead r a.win off n with
  | .error (cause, addr) => s.lateFault r cause addr
  | .ok (b, s) =>
    let v := leNat b
    match a.read with
    | .cls =>
      if h.nclass ≤ v then vec s (autoReject a.a)
      else s.modCore r fun c => { c with autos := c.autos ++ [{ a with due := 4, read := .tran v }] }
    | .tran _ => vec s (autoStep a.a (BitVec.ofNat 64 v))
    | .mask _ =>
      let legal (j : Nat) : Bool := 64 * a.t.toNat + j < h.ntok
      s.writeAt r a.seq a.left (.k a.kd (BitVec.allOnes 64 >>> (64 - a.lanes))
        (bitsOf fun j => v / 2 ^ j.val % 2 == 1 && legal j.val))

/-- Make the reads of a core that are due in this cycle, after its bundle has issued (R343). -/
def State.autoReads (s : State) (r : CoreRef) : State :=
  let due := (s.core r).autos.filter (·.due == 0)
  let s := s.modCore r fun c => { c with autos := c.autos.filter (·.due != 0) }
  due.foldl (fun s a => s.autoRead r a) s

/-- One cycle nearer. -/
def Core.tickAutos (c : Core) : Core := { c with autos := c.autos.map fun a => { a with due := a.due - 1, left := a.left - 1 } }

end Sys2Proof.Machine
end

