-- ==== Sys2Proof/Machine/Matrix.lean ====
section
/-! DEFINITION. The M column: products, accumulator moves, arms, releases, the drain and its configuration (spec 15 R371 to R382; 08 R208 to
R213; 06 R142 to R146), and what array and drain do in each cycle of the worker. -/

namespace Sys2Proof.Machine

/-! ### Blocks of a chamber slot (R143, R144) -/

/-- The chamber code of R374. -/
def chamberCode (slot : BitVec 4) (off : Nat) : Word := (1 <<< 62) ||| BitVec.ofNat 64 (off % 4096 * 2 ^ 16 + slot.toNat)

/-- Where a block lies in a tile. -/
def Tile.blockLoc (t : Tile) (id : Nat) (b : Block) : BlockLoc :=
  match b.place with
  | some k =>
    let w : WinDesc := t.windesc[t.weirWin.toNat]'(by omega)
    let a := w.base + 4096 * k
    { key := Config.tileKey id a, weir := some a, slot := b.slot }
  | none => { key := Config.chamberKey id b.slot.toNat 0, weir := none, slot := b.slot }

/-- The front of a slot's queue: blocks are listed in delivery order. -/
def Tile.front (t : Tile) (slot : BitVec 4) : Option Block := t.blocks.find? fun b => b.slot == slot && !b.lost

/-! ### Arms (R142, R378) -/

/-- K-groups of a product. -/
def groupsOf : Instr → Nat
  | .mmul _ _ _ _ n => n.toNat + 1
  | .mmulw _ _ _ _ _ n => n.toNat + 1
  | _ => 1

/-- The armed word's entry and occupancy become fixed, `n` cycles from now: of two operations whose occupancies overlap, the one issued later
is discarded with COLLIDE. -/
def State.bindArm (s : State) (id : Nat) (a : Arm) (block n : Nat) : State :=
  let r : CoreRef := .tile id true
  let g := groupsOf a.instr
  let c := s.core r
  let clash := c.holds.filter fun h => h.col == .m && !h.drain && h.lo < n + g && n < h.hi
  if clash.any (fun h => h.seq ≤ a.seq) then
    (s.modTile id fun t => { t with arms := t.arms.filter (·.slot != a.slot) }).lateFault r Cause.collide 0
  else
    let gone (q : Nat) : Bool := clash.any (·.seq == q)
    let s := s.modTile id fun t =>
      { t with arms := t.arms.map fun x => if x.slot = a.slot then { x with block := some block } else x
               matOps := t.matOps.filter fun m => !gone m.seq }
    let s := s.modCore r fun c =>
      { c with ops := (c.ops.filter fun o => !(gone o.seq && column o.instr == some .m)) ++
                 [{ due := n, seq := a.seq, addr := a.addr, instr := a.instr, block := some block }]
               holds := (c.holds.filter fun h => !(gone h.seq && h.col == .m)) ++
                 [{ col := .m, lo := n, hi := n + g, seq := a.seq, drain := false }] }
    if clash.isEmpty then s else s.lateFault r Cause.collide 0

/-- A delivery that has begun fires an arm, `n` cycles from now; a free worker's word, whose cycles run in holds too, is bound as the delivery
completes (R142). -/
def State.fireArm (s : State) (id : Nat) (a : Arm) (block n : Nat) : State :=
  if (s.tile id).worker.timed then s.bindArm id a block n
  else s.modTile id fun t => { t with arms := t.arms.map fun x => if x.slot = a.slot then { x with block := some block } else x }

/-- MARM: from its entry the slot is armed; the first delivery to the slot that has not completed, if one is under way, fires it (R142). -/
def execMarm (ch : BitVec 4) (s : State) : Result :=
  guarded (.marm ch) s fun s =>
    match s.actor, s.partner with
    | .tile id _, some (i, d, addr) =>
      let t := s.tile id
      if t.arms.any (·.slot == ch) then s.lateFault s.actor Cause.collide 0
      else
        let a : Arm := { slot := ch, instr := i, d := d, seq := s.seq, addr := addr, block := none }
        let s := s.modTile id fun t => { t with arms := t.arms ++ [a] }
        match t.blocks.find? fun b => b.slot == ch && !b.full && !b.lost with
        | some b => s.fireArm id a b.id (b.beats + 1 - b.age + d)
        | none => s
    | _, _ => s

/-- MDISARM (R379). -/
def execMdisarm (ch : BitVec 4) (s : State) : Result :=
  guarded (.mdisarm ch) s fun s =>
    let armed (o : Op) : Bool := o.block.isSome && (match o.instr with
      | .mmul _ _ c _ _ => c == ch
      | .mmulw _ _ c _ _ _ => c == ch
      | _ => false)
    let seqs := (s.me.ops.filter armed).map (·.seq)
    (s.modMe fun c => { c with ops := c.ops.filter fun o => !armed o
                               holds := c.holds.filter fun h => !(h.col == .m && 0 < h.lo && seqs.contains h.seq) }).modMyTile fun t =>
      { t with arms := t.arms.filter (·.slot != ch) }

/-- The poison marks of a block's bytes go (R147). -/
def State.clearPoison (s : State) (key n : Nat) : State := { s with poison := s.poison.filter fun k => !(key ≤ k && k < key + n) }

/-- MREL: releases the front block; its place is free for deliveries that start in a later cycle (R144, R379). -/
def execMrel (ch : BitVec 4) (s : State) : Result :=
  guarded (.mrel ch) s fun s =>
    match s.actor with
    | .feeder _ _ => s
    | .tile id _ =>
      let t := s.tile id
      match t.front ch with
      | none => s.lateFault s.actor Cause.window (chamberCode ch 0)
      | some b =>
        if !b.full then s.lateFault s.actor Cause.window (chamberCode ch 0)
        else
          (s.modTile id fun t => { t with blocks := t.blocks.filter fun (x : Block) => x.id != b.id, released := t.released ++ [(b.slot, b.place)] }).clearPoison
            (t.blockLoc id b).key 4096

/-! ### Products: entry (R372 to R375) -/

/-- X of a class (R372). -/
def entryLatency (kg : KGroup) : Nat := if kg = .k16 then 4 else 3

/-- Accumulation in INT32 (R372). -/
def accInt (kg : KGroup) (fa fb : BitVec 4) : Bool :=
  match kg with
  | .k4 => false
  | .k8 => true
  | .k16 => fa == 7 && fb == 7

/-- The array takes a port for `n` cycles from now (R373). -/
def Port.takenBy (x : Port) (n : Nat) : Port := { x with array := max x.array n, partLines := [], partFault := none, partWide := none }

/-- A product enters: the operand formats are known, and B is a block or a port. (log 21, DEDUCED) -/
def State.startProduct (s : State) (id : Nat) (kg : KGroup) (z : Bool) (pa : PReg) (pb : Option PReg) (loc : Option BlockLoc)
    (fa fb : BitVec 4) (g : Nat) : State :=
  let isInt := accInt kg fa fb
  let t := s.tile id
  let n := entryLatency kg + g
  if t.msums.isSome && !isInt then
    (s.modTile id fun t => { t with msums := none }).lateFault s.actor Cause.illegal (BitVec.ofNat 64 s.wordAt)
  else
    let m : MatOp := { seq := s.seq, z := z, kg := kg, groups := g, lat := entryLatency kg, age := 0, pa := pa, pb := pb, block := loc,
                       fmtA := fa, fmtB := fb, isInt := isInt, addr := s.wordAt, aSl := [], bSl := [], msums := t.msums }
    let s := s.modTile id fun t => { t.setKind z isInt with matOps := t.matOps ++ [m], msums := none }
    s.modMe fun c =>
      let c := c.modPort pa (·.takenBy n)
      match pb with
      | some p => c.modPort p (·.takenBy n)
      | none => c

/-- The format of the window a port walks. -/
def State.portFmt (s : State) (p : PReg) : BitVec 4 := (s.window s.actor (s.me.port p).win).fmt
/-- Address of a port's next step, for FAULTADDR. (log 19, DEDUCED) -/
def State.nextStep (s : State) (p : PReg) : Word := let x := s.me.port p; addrWord (s.stepAddr s.actor x x.pos)

/-- MMUL: B is the front block of the slot's queue, or the block that fired the armed word (R374). -/
def execMmul (kg : KGroup) (z : Bool) (ch : BitVec 4) (pa : PReg) (gm1 : BitVec 8) (s : State) : Result :=
  guarded (.mmul kg z ch pa gm1) s fun s =>
    match s.actor with
    | .feeder _ _ => s
    | .tile id _ =>
      let t := s.tile id
      let g := gm1.toNat + 1
      let fa := s.portFmt pa
      let bad (cause : BitVec 8) (a : Word) : State := s.lateFault s.actor cause a
      if !s.matPort s.actor kg pa then bad Cause.illegal (BitVec.ofNat 64 s.wordAt)
      else if !kgAllows kg fa then bad Cause.window (s.nextStep pa)
      else
        let blk := match s.fired with
          | some n => t.blocks.find? fun (b : Block) => b.id == n
          | none => t.front ch
        match blk with
        | none => bad Cause.window (chamberCode ch 0)
        | some b =>
          if !b.full || !kgAllows kg b.fmt || (b.bsz.toNat + 1) * 512 < g * sliceBytes kg b.fmt then bad Cause.window (chamberCode ch 0)
          else s.startProduct id kg z pa none (some (t.blockLoc id b)) fa b.fmt g

/-- MMULW: B comes from a port (R375). -/
def execMmulw (kg : KGroup) (z : Bool) (ch : BitVec 4) (pa pb : PReg) (gm1 : BitVec 8) (s : State) : Result :=
  guarded (.mmulw kg z ch pa pb gm1) s fun s =>
    match s.actor with
    | .feeder _ _ => s
    | .tile id _ =>
      let fa := s.portFmt pa
      let fb := s.portFmt pb
      if !s.matPort s.actor kg pa || !s.matPort s.actor kg pb then s.lateFault s.actor Cause.illegal (BitVec.ofNat 64 s.wordAt)
      else if !kgAllows kg fa then s.lateFault s.actor Cause.window (s.nextStep pa)
      else if !kgAllows kg fb then s.lateFault s.actor Cause.window (s.nextStep pb)
      else s.startProduct id kg z pa (some pb) none fa fb (gm1.toNat + 1)

/-! ### Products: intake (R373, R374) -/

/-- Element codes of a slice in bytes (R258, R372). -/
def sliceElems (f : BitVec 4) (bs : List Byte) : List Nat :=
  if f = 7 then bs.flatMap fun b => [b.toNat % 16, b.toNat / 16]
  else if f = 1 || f = 2 then (List.range (bs.length / 2)).map fun i => leNat ((bs.drop (2 * i)).take 2)
  else bs.map (·.toNat)

/-- Codes as elements: those of LUT4 through the worker's table, to INT8 (R261). -/
def decodeElems (lt : Vector (BitVec 8) 16) (f : BitVec 4) (l : List Nat) : List Nat :=
  if f = 7 then l.map fun c => (lt[Fin.ofNat 16 c]).toNat else l

/-- A slice from a port, in the four-line layout: a step already fetched, or read by the array itself; or its fault, checked now (R373). -/
def State.intakePort (s : State) (r : CoreRef) (seq : Nat) (p : PReg) (n : Nat) : Except (BitVec 8 × Word) (List Byte × State) :=
  let x := (s.core r).port p
  let stepOn (s : State) (x : Port) : State :=
    (s.modCore r fun c => c.setPort p { x with pos := (x.pos + 1) % x.period }).writeAt r seq 1 (.portFlags p (walkFlags 0 x.dims x.pos))
  let a := s.stepAddr r x x.pos
  let addrs := layout a.toNat n
  let d := s.window r x.win
  if a < 0 || !(addrs.all d.has) || (!(s.core r).keeper && !d.ur) then .error (Cause.window, addrWord a)
  else if a.toNat % 64 ≠ 0 then .error (Cause.align, addrWord a)
  else match x.fetched with
    | st :: rest =>
      match (if n ≤ 64 then st.fault else st.fault.or st.wideFault) with
      | some f => .error f
      | none => .ok (if n ≤ 64 then st.data else st.wide, stepOn s { x with fetched := rest })
    | [] => match s.wheel r a addrs with
      | .fault cause f => .error (cause, f)
      | _ =>
        match s.poisonFault r addrs with
        | some f => .error f
        | none =>
          let (bs, s) := s.readRacing r addrs
          .ok (bs, stepOn s { x with fpos := (x.pos + 1) % x.period })

/-- A granule of a block as it stands now: one that landed in this cycle or the one before is read old or new. -/
def State.blockGranule (s : State) (id key : Nat) : List Byte × State :=
  let t := Config.tileKey id 0
  let now := if t ≤ key && key < t + Config.storeSize then (List.range 8).map fun i => s.latest (.tile id true) (key - t + i)
    else readCells s.mem key 8
  match (s.tile id).landed.find? fun x => x.2.1 == key with
  | none => (now, s)
  | some x => let (b, s) := s.takeBool; (if b then now else x.2.2, s)

/-- n granules of a block from a key up. -/
def State.blockBytes (s : State) (id key : Nat) : Nat → List Byte × State
  | 0 => ([], s)
  | n + 1 =>
    let (b, s) := s.blockGranule id key
    let (bs, s) := s.blockBytes id (key + 8) n
    (b ++ bs, s)

/-- A slice from a block. -/
def State.intakeBlock (s : State) (id : Nat) (b : BlockLoc) (off n : Nat) : Except (BitVec 8 × Word) (List Byte × State) :=
  match (List.range (n / 8)).find? fun i => s.poison.contains (b.key + off + 8 * i) with
  | some i =>
    .error (Cause.eccConsumed, match b.weir with
      | some a => BitVec.ofNat 64 (a + off + 8 * i)
      | none => chamberCode b.slot (off + 8 * i))
  | none => .ok (s.blockBytes id (b.key + off) (n / 8))

/-- Replace a product. -/
def Tile.setMat (t : Tile) (m : MatOp) : Tile := { t with matOps := t.matOps.map fun x => if x.seq = m.seq then m else x }

/-- Elements of a K-group. -/
def kSize : KGroup → Nat
  | .k4 => 4
  | .k8 => 8
  | .k16 => 16

/-- An element as an integer. -/
def elemInt (f : BitVec 4) (x : Nat) : Int := if f = 5 then u8.value x else i8.value x

/-- Sums of 16 rows or columns with a slice's elements added (R377). -/
def addSums (k : Nat) (f : BitVec 4) (sums : List Int) (l : List Nat) : List Int :=
  (List.range 16).map fun i => sums.getD i 0 + (((l.drop (k * i)).take k).map (elemInt f)).foldl (· + ·) 0

/-- A product with one more slice of each operand; the sum unit decodes as they come in (R377). -/
def MatOp.takeSlices (m : MatOp) (a b : List Nat) (lt : Vector (BitVec 8) 16) : MatOp :=
  let k := kSize m.kg
  { m with aSl := m.aSl ++ [a], bSl := m.bSl ++ [b]
           rows := addSums k m.fmtA m.rows (decodeElems lt m.fmtA a), cols := addSums k m.fmtB m.cols (decodeElems lt m.fmtB b) }

/-- The intake of a product in its cycle; a fault ends the product. -/
def State.intake (s : State) (id : Nat) (m : MatOp) : State :=
  let r : CoreRef := .tile id true
  if m.age < m.lat || m.lat + m.groups ≤ m.age then s
  else
    let fail (e : BitVec 8 × Word) : State :=
      (s.modTile id fun t => { t with matOps := t.matOps.filter (·.seq != m.seq) }).lateFault r e.1 e.2
    let lt := (s.core r).lt
    match s.intakePort r m.seq m.pa (sliceBytes m.kg m.fmtA) with
    | .error e => fail e
    | .ok (a, s') =>
      let nb := sliceBytes m.kg m.fmtB
      let b := match m.block, m.pb with
        | some loc, _ => s'.intakeBlock id loc ((m.age - m.lat) * nb) nb
        | none, some p => s'.intakePort r m.seq p nb
        | none, none => .ok ([], s')
      match b with
      | .error e => fail e
      | .ok (b, s') =>
        s'.modTile id fun t => t.setMat (m.takeSlices (sliceElems m.fmtA a) (sliceElems m.fmtB b) lt)

/-- Cycles a free worker stands before this one because a step the array reads in it lies in banks of another agent (R373). -/
def State.arrayStand (s : State) (id : Nat) : Nat :=
  let r : CoreRef := .tile id true
  let t := s.tile id
  let wait (m : MatOp) (p : PReg) (f : BitVec 4) : Nat :=
    let x := (s.core r).port p
    let a := s.stepAddr r x x.pos
    if !x.fetched.isEmpty || a < 0 then 0
    else wheelWait 0 (s.wheelPhase id) ((layout a.toNat (sliceBytes m.kg f)).map bankOf).eraseDups
  (t.matOps.map fun m =>
    if m.lat ≤ m.age && m.age < m.lat + m.groups then
      max (wait m m.pa m.fmtA) (match m.pb with | some p => wait m p m.fmtB | none => 0)
    else 0).foldl max 0

/-! ### Products: updates (R208, R209, R279) -/

/-- An element as a number. -/
def elemNum (f : BitVec 4) (x : Nat) : Num :=
  match f.toNat with
  | 1 => bf16.decode x
  | 2 => fp16.decode x
  | 5 => .ofInt (u8.value x)
  | 6 => dm8Decode x
  | _ => .ofInt (i8.value x)
/-- A sum of numbers with one nearest-even rounding: NV for a NaN operand or ∞ − ∞, OF for an overflow (R279). -/
def sumRound (l : List (Num × Bool)) : BitVec 32 × BitVec 7 :=
  if l.any fun x => x.2 || x.1.isNan then (0x7FC00000, FFlag.nv)
  else
    let infs := l.filterMap fun x => match x.1 with | .inf n => some n | _ => none
    match infs with
    | n :: rest => if rest.all (· == n) then ((rneF32 (.inf n)).1, 0) else (0x7FC00000, FFlag.nv)
    | [] =>
      let fins := l.filterMap fun x => match x.1 with | .fin n m e => some (n, m, e) | _ => none
      let (t, e) := exactSum fins
      let y := rneF32 (if t = 0 then .fin (fins.all (·.1)) 0 0 else .ofScaled t e)
      (y.1, y.2 &&& FFlag.of)

/-- One PE's update by a group. -/
def MatOp.update (m : MatOp) (iacc : Bool) (acc : BitVec 32) (a b : List Nat) : BitVec 32 × BitVec 7 :=
  if m.isInt then
    let p := (a.zip b).map fun x => elemInt m.fmtA x.1 * elemInt m.fmtB x.2
    let y := i32.narrow iacc (acc.toInt + p.foldl (· + ·) 0)
    (BitVec.ofNat 32 y.1, y.2)
  else
    let p := (a.zip b).map fun x =>
      let u := elemNum m.fmtA x.1
      let v := elemNum m.fmtB x.2
      let w := u.mul v
      (w.1, u.isNan || v.isNan || w.1.isNan)
    sumRound ((f32 acc, false) :: p)

/-- The groups a PE takes in the present cycle of a product. -/
def MatOp.groupAt (m : MatOp) (i j : Nat) : Option Nat :=
  if m.lat + i + j ≤ m.age && m.age - m.lat - i - j < m.groups then some (m.age - m.lat - i - j) else none

/-- Every PE's update by one product in one cycle, LUT4 codes through the worker's table as it is now: the set after it and the flags
(R208, R338). -/
def MatOp.updates (m : MatOp) (lt : Vector (BitVec 8) 16) (iacc : Bool) (z : ZSet) : ZSet × BitVec 7 :=
  let k := kSize m.kg
  let r : Vector (BitVec 32 × BitVec 7) 256 := Vector.ofFn fun e =>
    let i := e.val / 16
    let j := e.val % 16
    match m.groupAt i j with
    | none => (z[e], 0)
    | some g =>
      let a := ((m.aSl.getD g []).drop (k * i)).take k
      let b := ((m.bSl.getD g []).drop (k * j)).take k
      m.update iacc z[e] (decodeElems lt m.fmtA a) (decodeElems lt m.fmtB b)
  (r.map (·.1), orFlags (r.toList.map (·.2)))

/-- Row sums of A and column sums of B (R377). -/
def MatOp.sums (m : MatOp) : VReg :=
  Vector.ofFn fun e =>
    if e.val < 16 then BitVec.ofInt 32 (m.rows.getD e.val 0) else if e.val < 32 then BitVec.ofInt 32 (m.cols.getD (e.val - 16) 0) else 0

/-- The updates of a product in its cycle, its sums when they are due, and its next cycle. -/
def State.stepProduct (s : State) (id seq : Nat) : State :=
  let r : CoreRef := .tile id true
  match (s.tile id).matOps.find? (·.seq == seq) with
  | none => s
  | some m =>
    let s := s.intake id m
    match (s.tile id).matOps.find? (·.seq == seq) with
    | none => s
    | some m =>
      let (z, fl) := m.updates (s.core r).lt ((s.core r).cvmode.getLsbD 4) ((s.tile id).readZ m.z)
      let s := s.modTile id fun t => t.writeZ m.z z
      let s := if fl = 0 then s else s.writeAt r m.seq 1 (.flags fl)
      let s := match m.msums with
        | some (acc, vd) =>
          if m.age = m.lat + m.groups + 15 then
            s.writeAt r m.seq 1 (if acc then .vAcc vd 0xFFFFFFFF m.sums else .v vd 0xFFFFFFFF m.sums)
          else s
        | none => s
      if m.lat + m.groups + 29 ≤ m.age then s.modTile id fun t => { t with matOps := t.matOps.filter (·.seq != seq) }
      else s.modTile id fun t => t.setMat { m with age := m.age + 1 }

/-! ### MZERO, MLDZ, MSTZ, MSUMS (R376, R377) -/

/-- MZERO: at the end of E, over the cycle's updates. -/
def execMzero (z : Bool) (s : State) : Result :=
  guarded (.mzero z) s fun s => s.modMyTile fun t => { t with zwrites := t.zwrites ++ [⟨0, z, Vector.replicate 256 0⟩] }

/-- Row i of a set: elements 16 (i mod 4) on of register i div 4. -/
def zOfRegs (x : Nat → VReg) : ZSet := Vector.ofFn fun e => elem (x (e.val / 64)) (e.val % 64)
def regOfZ (z : ZSet) (q : Nat) : VReg := Vector.ofFn fun j => z[Fin.ofNat 256 (64 * q + j.val)]

/-- MLDZ: at the end of E + 1. -/
def execMldz (z : Bool) (vs : Reg) (s : State) : Result :=
  guarded (.mldz z vs) s fun s =>
    let x := zOfRegs fun q => s.v (vs + BitVec.ofNat 5 q)
    s.modMyTile fun t => { t with zwrites := t.zwrites ++ [⟨1, z, x⟩] }

/-- MSTZ: the set as the updates up to E − 1 leave it, at E + 2. -/
def execMstz (vd : Reg) (z : Bool) (s : State) : Result :=
  guarded (.mstz vd z) s fun s =>
    let x := s.myTile.readZ z
    (List.range 4).foldl (fun s q => s.later 2 (.v (vd + BitVec.ofNat 5 q) (BitVec.allOnes 64) (regOfZ x q))) s

/-- MSUMS: attaches to the next product that enters. -/
def execMsums (acc : Bool) (vd : Reg) (s : State) : Result :=
  guarded (.msums acc vd) s fun s => s.modMyTile fun t => { t with msums := some (acc, vd) }

/-! ### The drain (R210 to R213, R380, R381) -/

def cfgMode (c : Word) : BitVec 3 := c.extractLsb' 61 3
def cfgOfmt (c : Word) : BitVec 4 := c.extractLsb' 57 4
def cfgRnd (c : Word) : BitVec 3 := c.extractLsb' 54 3
def cfgSat (c : Word) : Bool := c.getLsbD 53
def cfgZp (c : Word) : Int := (c.extractLsb' 32 16).toInt
def cfgPtab (c : Word) : Nat := (c.extractLsb' 13 19).toNat
def cfgPwin (c : Word) : BitVec 4 := c.extractLsb' 9 4
def cfgDwin (c : Word) : BitVec 4 := c.extractLsb' 5 4
/-- A reserved value (R210). -/
def cfgReserved (c : Word) : Bool := 1 < (cfgMode c).toNat || 4 < (cfgRnd c).toNat || 10 < (cfgOfmt c).toNat || cfgPtab c % 256 ≠ 0

/-- A waiting token sets CUR; the configuration is latched (R212). -/
def Tile.takeToken (t : Tile) : Tile :=
  match t.tokens with
  | c :: r => { t with cur := c, tokens := r }
  | [] => t

/-- MDRAIN begins, its table checked. (log 21, DEDUCED) -/
def State.startDrain (s : State) (id : Nat) (z : Bool) (cfg : Word) (dest : DrainDest) (fmt : BitVec 4) (wcount srkw : BitVec 32)
    (span : List Nat) : State :=
  s.modTile id fun t =>
    { t with drains := t.drains ++ [{ seq := s.seq, age := 0, z := z, isInt := t.kind z, cfg := cfg, dest := dest, fmt := fmt,
                                      wcount := wcount, srkw := srkw, rows := [], lines := [], span := span }] }

/-- The table lies in its window. (log 21, DEDUCED) -/
def State.tableOk (s : State) (cfg : Word) : Bool :=
  let d := s.window s.actor (cfgPwin cfg)
  d.has (cfgPtab cfg) && d.has (cfgPtab cfg + 255)

/-- MDRAIN to a window (R380). -/
def execMdrain (z : Bool) (o : Reg) (s : State) : Result :=
  guarded (.mdrain z o) s fun s =>
    match s.actor with
    | .feeder _ _ => s
    | .tile id _ =>
      let s := s.modTile id Tile.takeToken
      let t := s.tile id
      let cfg := t.dcfg[t.cur.toNat]'(by omega)
      let d := s.window s.actor (cfgDwin cfg)
      let off := (s.g o).toNat
      let a := d.base + off
      let row := 8 * fmtHalves d.fmt
      let bad (cause : BitVec 8) (a : Word) : State := s.lateFault s.actor cause a
      if cfgReserved cfg || (d.valid && d.fmt = 0) then bad Cause.illegal (BitVec.ofNat 64 s.wordAt)
      else if !s.tableOk cfg then bad Cause.window (BitVec.ofNat 64 (cfgPtab cfg))
      else if off % row ≠ 0 then bad Cause.align (BitVec.ofNat 64 a)
      else if !(d.has a && d.has (a + 16 * row - 1)) || d.repl then bad Cause.window (BitVec.ofNat 64 a)
      else if d.holder ≠ 4 then bad Cause.berth (BitVec.ofNat 64 a)
      else ((s.startDrain id z cfg (.window (cfgDwin cfg) a (fmtHalves d.fmt)) d.fmt d.wcount d.srkw
        ((List.range (16 * row)).map (a + ·))).setWindow s.actor (cfgDwin cfg) d.bumpCount).markDirty s.actor a

/-- MDRAIN to vector registers (R380). -/
def execMdrainV (z : Bool) (vd : Reg) (s : State) : Result :=
  guarded (.mdrainV z vd) s fun s =>
    match s.actor with
    | .feeder _ _ => s
    | .tile id _ =>
      let s := s.modTile id Tile.takeToken
      let t := s.tile id
      let cfg := t.dcfg[t.cur.toNat]'(by omega)
      if cfgReserved cfg then s.lateFault s.actor Cause.illegal (BitVec.ofNat 64 s.wordAt)
      else if !s.tableOk cfg then s.lateFault s.actor Cause.window (BitVec.ofNat 64 (cfgPtab cfg))
      else s.startDrain id z cfg (.vec vd) (cfgOfmt cfg) s.vcycLow 0 []

/-- A value in its output format, as the format's bits (R211); `vec`: a lane of a vector destination. -/
def drainEncode (cfg : Word) (fmt : BitVec 4) (vec : Bool) (rnd : BitVec 3) (r : Nat) (x : Num) : Nat × BitVec 7 :=
  let sat := cfgSat cfg
  if fmt = 7 then lut4.encode rnd sat r x
  else if fmt = 10 then (if vec then i32 else i64).encode rnd sat r x
  else match windowFmt fmt with
    | some f => f.encode rnd sat sat r x
    | none => i32.encode rnd sat r x

/-- One element of the drain: its value in the output format and its flags (R211). `m`, `sh`: multiplier and shift of the column; `c`, `q`:
column and row terms; `r`: the draw. (log 33, DEDUCED) -/
def drainElem (cfg : Word) (fmt : BitVec 4) (vec isInt : Bool) (r : Nat) (a m c q : BitVec 32) (sh : Nat) : Nat × BitVec 7 :=
  let rnd := cfgRnd cfg
  let sat := cfgSat cfg
  if cfgMode cfg = 1 then
    let t := i32.narrow sat (a.toInt + q.toInt + c.toInt)
    let v := i32.value t.1 * m.toInt
    let (n, nx) := roundInt rnd r (v < 0) v.natAbs (-(31 + sh : Nat))
    let y := drainEncode cfg fmt vec 0 0 (.ofInt (n + cfgZp cfg))
    (y.1, y.2 ||| t.2 ||| (if nx then FFlag.nx else 0))
  else
    let x := (f32 m).fma 0 (if isInt then .ofInt a.toInt else f32 a) (f32 c)
    let y := rneF32 x.1
    let o : Nat × BitVec 7 := if fmt = 0 then (y.1.toNat, 0) else drainEncode cfg fmt vec rnd r (f32 y.1)
    (o.1, o.2 ||| y.2 ||| x.2)

/-- A signed integer format, whose elements a lane holds sign-extended (R212). -/
def laneOf (fmt : BitVec 4) (b : Nat) : BitVec 32 :=
  match windowFmt fmt with
  | some f => f.toLane b
  | none => BitVec.ofNat 32 b

/-- Row i converted: elements in the output format with their flags. -/
def State.drainRow (s : State) (r : CoreRef) (d : Drain) (i : Nat) (row : List (BitVec 32)) : List (Nat × BitVec 7) :=
  let tab := cfgPtab d.cfg
  let word (o : Nat) : BitVec 32 := BitVec.ofNat 32 (leNat (s.readLocal r ((List.range 4).map (tab + o + ·))))
  let q := word (192 + 4 * i)
  let key := (s.core r).srkey
  (List.range 16).map fun j =>
    let sh := (leNat (s.readLocal r [tab + 8 * j + 4]))
    let draw := match d.dest with
      | .vec _ => drawOf i j key d.srkw d.wcount
      | .window w a h =>
        let (rw, cl) := (s.window r w).rowCol ((2 * (a - (s.window r w).base) + (16 * i + j) * h) / h)
        drawOf rw cl key d.srkw d.wcount
    let vec := match d.dest with | .vec _ => true | _ => false
    drainElem d.cfg d.fmt vec d.isInt draw (row.getD j 0) (word (8 * j)) (word (128 + 4 * j)) q sh

/-- The drain reads row `age` of its set, before the cycle's updates. -/
def State.drainRead (s : State) (id : Nat) (d : Drain) : State :=
  if 16 ≤ d.age then s
  else
    let z := (s.tile id).readZ d.z
    let row := (List.range 16).map fun j => z[Fin.ofNat 256 (16 * d.age + j)]
    s.modTile id fun t => { t with drains := t.drains.map fun x => if x.seq = d.seq then { x with rows := x.rows ++ [row] } else x }

/-- The drain converts row `age` − 4; a vector row and the flags are written two cycles on, the lines of a window row may be from then. A
poisoned granule of the table ends the drain with ECC_CONSUMED. -/
def State.drainConvert (s : State) (id : Nat) (d : Drain) : State :=
  let r : CoreRef := .tile id true
  if d.age < 4 || 20 ≤ d.age then s
  else
    let i := d.age - 4
    match s.poisonedAt r ((List.range 256).map (cfgPtab d.cfg + ·)) with
    | some g =>
      (s.modTile id fun t => { t with drains := t.drains.filter (·.seq != d.seq) }).lateFault r Cause.eccConsumed (BitVec.ofNat 64 (g / 8 * 8))
    | none =>
      let els := s.drainRow r d i (d.rows.getD i [])
      let fl := orFlags (els.map (·.2))
      let s := if fl = 0 then s else s.writeAt r d.seq 2 (.flags fl)
      match d.dest with
      | .vec vd =>
        let x : VReg := Vector.ofFn fun j => laneOf d.fmt (els.getD (j.val % 16) (0, 0)).1
        s.writeAt r d.seq 2 (.v (vd + BitVec.ofNat 5 (i / 4)) (0xFFFF <<< (16 * (i % 4))) x)
      | .window _ a h =>
        let bs := (packElements h 16 fun j => (els[j]?).map (·.1)).map (·.1)
        let row := a + 8 * h * i
        let lines := (List.range ((8 * h + 63) / 64)).map fun l => (row + 64 * l, (bs.drop (64 * l)).take 64, d.age + 2)
        s.modTile id fun t => { t with drains := t.drains.map fun x => if x.seq = d.seq then { x with lines := x.lines ++ lines } else x }

/-- One line of a drain is written if the worker's agent owns its bank, ahead of the ports; visible from E + 30 (R212, R380). -/
def State.drainLine (s : State) (id seq : Nat) (l : Nat × List Byte × Nat) : State :=
  let r : CoreRef := .tile id true
  match (s.tile id).drains.find? (·.seq == seq) with
  | none => s
  | some d =>
    if d.age < l.2.2 || bankAgent (s.wheelPhase id) (bankOf l.1) ≠ 0 then s
    else
      let win := match d.dest with | .window w _ _ => w | .vec _ => 0
      if (s.window r win).holder ≠ 4 then
        (s.modTile id fun t => { t with drains := t.drains.map fun x => if x.seq = seq then { x with lines := [] } else x }).lateFault r
          Cause.berth (BitVec.ofNat 64 l.1)
      else
        let bytes := keyed l.1 l.2.1
        let s := (s.useBanks r [l.1]).storeDue r (30 - d.age) bytes
        s.modTile id fun t =>
          { t with drains := t.drains.map fun x => if x.seq = seq then { x with lines := x.lines.filter (· != l) } else x }

/-- The drain's writes of a cycle (R203 priority 2). -/
def State.drainWrites (s : State) (id : Nat) : State :=
  (s.tile id).drains.foldl (fun s d => d.lines.foldl (fun s l => s.drainLine id d.seq l) s) s

/-- A drain's reads and conversions of a cycle, and its next cycle; gone once its output is visible to all. -/
def State.stepDrain (s : State) (id seq : Nat) : State :=
  match (s.tile id).drains.find? (·.seq == seq) with
  | none => s
  | some d =>
    let s := (s.drainRead id d).drainConvert id d
    s.modTile id fun t =>
      { t with drains := (t.drains.map fun x => if x.seq = seq then { x with age := x.age + 1 } else x).filter fun x => x.age ≤ 31 }

/-! ### MDCFG (R381) -/

/-- MDCFG.set: CUR at the end of E. -/
def execMdcfgSet (c : BitVec 2) (s : State) : Result :=
  guarded (.mdcfgSet c) s fun s => s.modMyTile fun t => { t with setCur := some c }
/-- MDCFG.clr: the queue is emptied at the end of E. -/
def execMdcfgClr (s : State) : Result := guarded .mdcfgClr s fun s => s.modMyTile fun t => { t with clrTokens := true }
/-- MDCFG.tok: a token for drains from the next cycle on. -/
def execMdcfgTok (c : BitVec 2) (s : State) : Result :=
  guarded (.mdcfgTok c) s fun s =>
    if 8 ≤ s.myTile.tokens.length + s.myTile.newTokens.length then s.lateFault s.actor Cause.collide 0
    else s.modMyTile fun t => { t with newTokens := t.newTokens ++ [c] }

/-! ### The end of a worker's cycle -/

/-- Sets written at the end of a cycle, after its updates (R376). -/
def Tile.writeSets (t : Tile) : Tile :=
  let t := t.zwrites.foldl (fun t w => if w.due = 0 then t.writeZ w.z w.val else t) t
  { t with zwrites := (t.zwrites.filter (·.due != 0)).map fun w => { w with due := w.due - 1 } }

/-- A cycle of the drains. -/
def State.drainCycle (s : State) (id : Nat) : State := ((s.tile id).drains.map (·.seq)).foldl (fun s q => s.stepDrain id q) s

/-- Array and drain in one cycle of the worker: rows are read before the cycle's updates, products update in the order of entry. -/
def State.arrayCycle (s : State) (id : Nat) : State :=
  let s := s.drainCycle id
  let s := ((s.tile id).matOps.map (·.seq)).foldl (fun s q => s.stepProduct id q) s
  s.modTile id Tile.writeSets

/-- Configuration tokens at the end of a cycle (R381). (log 22, DEDUCED) -/
def Tile.endTokens (t : Tile) : Tile :=
  { t with cur := t.setCur.getD t.cur, setCur := none
           tokens := if t.clrTokens then [] else t.tokens ++ t.newTokens
           newTokens := [], clrTokens := false }

end Sys2Proof.Machine
end

