-- ==== Sys2Proof/Machine/Aqueduct.lean ====
section
/-! DEFINITION. The aqueduct's own events: copies and modulation at a feeder, weight reads, deliveries at a tile, losses of light (spec 06 R131 to
R151; 03 R74; 15 R386; 10 R252, R253). -/

namespace Sys2Proof.Machine

/-! ### Injection (R131, R135, R136, R386) -/

/-- n bytes of the weight store from a key up, each granule that a line write under way touches old or new (R390). (log 36, DESIGN CHOICE) -/
def State.copyBytes (s : State) (f k : Nat) : Nat → List Byte × State
  | 0 => ([], s)
  | n + 1 =>
    let now := readCells s.mem k 8
    let new := (List.range 8).map fun i => s.latestWeight f (k + i)
    let (b, s) := if now = new then (now, s) else let (c, s) := s.takeBool; (if c then new else now, s)
    let (bs, s) := s.copyBytes f (k + 8) n
    (b ++ bs, s)

/-- A queued block is given up. -/
def State.dropInject (s : State) (f id : Nat) : State :=
  s.modFeeder f fun x => { x with queue := x.queue.filter (·.id != id) }

/-- An injection whose entry is not valid for t (R386). -/
def State.invalidInject (s : State) (f : Nat) (b : Inject) : State :=
  let a : BitVec 40 := b.group ++ b.t.extractLsb' 0 32
  (s.dropInject f b.id).mcheck (a.zeroExtend 64) (s.feeder f).asid (s.feeder f).crew 1 f 0x06 (Config.noCause 0x06)

/-- FINJ_COPY: the block is copied at t - 4, or LATE when it is not wholly in the slice (R74, R386). -/
def execFinjCopy (f id : Nat) (s : State) : Result :=
  onUnit (s.feederOk f) <|
    match (s.feeder f).queue.find? (·.id == id) with
    | none => s
    | some b =>
      let e := (s.feeder f).entryFor b.group b.t
      let fail (cause : BitVec 8) (a : Word) : State :=
        ((s.dropInject f id).stopCores ((List.range 4).map (.feeder f ·))).unitFault (some b.slot) 1 f (65536 + f) cause a
      if !e.valid then s.invalidInject f b
      else match s.feederPage f (s.slot b.slot).rec_.asid b.gaddr with
        | none => fail Cause.remoteFault b.gaddr
        | some p =>
          let k := pageKey p (gOff b.gaddr)
          let lo := pageLine p (gOff b.gaddr)
          let hi := pageLine p (gOff b.gaddr + e.size - 1)
          if !((List.range (hi + 1 - lo)).all fun i => (s.feeder f).present.contains (lo + i)) then
            fail Cause.late (b.t.zeroExtend 64)
          else match s.poisonedSector k e.size with
            | some q => fail Cause.eccConsumed (b.gaddr + BitVec.ofNat 64 (q - k))
            | none =>
              let (bs, s) := s.copyBytes f k (min 4096 (2 ^ 21 - gOff b.gaddr) / 8)
              s.modFeeder f fun x => { x with queue := x.queue.map fun y => if y.id = id then { y with copied := some bs } else y }

/-- The beats of a block: beat i holds 8 bytes of each wavelength in turn; missing bytes are zero (R135). -/
def GroupEntry.beatsOf (e : GroupEntry) (bs : List Byte) : List (List Byte) :=
  let w := 8 * e.width
  let bs := bs.take e.size
  (List.range e.beats).map fun i => (List.range w).map fun j => bs.getD (i * w + j) 0

/-- Wavelengths LAM0 on, `w` of them. -/
def lamsOf (lam0 w : Nat) : BitVec 16 := BitVec.ofNat 16 ((2 ^ w - 1) * 2 ^ lam0)

/-- The replay area keeps the last 64 blocks of each group (R136). -/
def keepReplay (l : List Replay) (r : Replay) : List Replay :=
  let mine := l.filter (·.group == r.group)
  let l := if 64 ≤ mine.length then
      match l.findIdx? (·.group == r.group) with
      | some i => l.eraseIdx i
      | none => l
    else l
  l ++ [r]

/-- The feeder's comb supply is out (R24, R148). Laser module k supplies feeders 16 k on (log 13, DESIGN CHOICE). -/
def State.laserOut (s : State) (f : Nat) : Bool := s.pwr.lasersOut.any fun l => l.1 == f / 16 && s.time.toNat < l.2.toNat

/-- A block of a feeder is lost in a laser failover: CHAMBER_LOSS of its crew, the feeder as address (R148). -/
def State.lightLost (s : State) (f slot : Nat) : State :=
  s.unitFault (some slot) 1 f (65536 + f) Cause.chamberLoss (BitVec.ofNat 64 f)

/-- INJECTION_MODULATE: the block goes out on its waveguides from t; every rung of the block's set that drops light delivers it at t + 40
(R131, R135, R141). From 40 counts before a draw-off nothing is modulated, and the block stays queued (R150). -/
def execInjectionModulate (f id : Nat) (s : State) : Result :=
  onUnit (s.feederOk f) <|
    match (s.feeder f).queue.find? (·.id == id) with
    | none => s
    | some b =>
      let run := (s.slot b.slot).run
      if run.injectStop || run.draw.any (fun d => b.t == d.v - 40) then s
      else match b.copied with
        | none => s
        | some bs =>
          let s := s.modFeeder f (·.foldGroups b.t)
          let e := (s.feeder f).entryFor b.group b.t
          if !e.valid then s.invalidInject f b
          else
            let i := lookupD (s.feeder f).deal b.group.toNat 0
            let set := if e.deal then e.pat i else 0
            let data := e.beatsOf bs
            let active := e.rungs.filter fun r => r.set == set && r.code != 0
            let out := s.laserOut f
            let s := s.modFeeder f fun x =>
              { x with queue := x.queue.filter (·.id != id)
                       flying := x.flying.filter (fun y => !passed (y.t + BitVec.ofNat 48 y.beats) b.t) ++ [{ b with dark := out }]
                       replay := keepReplay x.replay { group := b.group, t := b.t, data := bs.take e.size }
                       deal := insert x.deal b.group.toNat (i + 1) }
            if out then s.lightLost f b.slot
            else active.foldl (fun s r => match s.rungTile f r with
              | some tile => s.atCount b.slot (b.t + 40)
                  (.deliveryStart tile (laneOfGuide f r.wg) (lamsOf e.lam0 e.width) b.group f b.t ⟨data, []⟩ none)
              | none => s) s

/-- DRAW_OFF_INJECT_STOP: from now until the crew starts again its feeders modulate nothing (R150). -/
def execDrawOffInjectStop (crew : BitVec 16) (s : State) : Result :=
  done <|
    match s.slotOfCrew crew with
    | none => s
    | some n => s.modRun n fun r => { r with injectStop := r.draw.isSome }

/-! ### Weight reads (R74, R387) -/

/-- WEIGHT_READ_RETRY: no data 512 counts after issue; the feeder announces an open hold (R74). -/
def execWeightReadRetry (f line : Nat) (s : State) : Result :=
  onUnit (s.feederOk f) <|
    match (s.feeder f).reads.find? (·.line == line) with
    | none => s
    | some r =>
      if r.retried then s
      else
        (s.modFeeder f fun x =>
          { x with reads := x.reads.map fun y => if y.line = line then { y with retried := true, held := true } else y }).announceHold r.slot 0 .weightRead

/-- WEIGHT_READ_DATA: the line is in the slice, and a hold announced for it is released (R71, R74). -/
def execWeightReadData (f line : Nat) (s : State) : Result :=
  onUnit (s.feederOk f) <|
    match (s.feeder f).reads.find? (·.line == line) with
    | none => s
    | some r =>
      let s := s.modFeeder f fun x =>
        { x with reads := x.reads.filter (·.line != line) }.keepLine line (Config.freeNat s.free)
      let s := { s with free := s.free + 1 }
      if r.held then s.releaseHold r.slot (r.issued + 512 + (s.slot r.slot).rec_.horizon.zeroExtend 48) else s

/-! ### Deliveries (R140 to R147) -/

/-- Where a delivery to a slot goes: the chamber slot, else the lowest free weir place; none when there is none (R143 to R145, R222). -/
def Tile.berthFor (t : Tile) (slot : BitVec 4) : Option (Option Nat) :=
  let live := (t.blocks.filter fun b => !b.lost).map fun b => (b.slot, b.place)
  let all := live ++ t.released
  if !(all.any fun x => x.1 == slot) then some none
  else
    let w : WinDesc := t.windesc[t.weirWin.toNat]'(by omega)
    if !t.weirEn || w.holder ≠ 3 then none
    else (((List.range t.nplace).find? fun k => !(all.any fun x => x.2 == some k))).map some

/-- A delivery begins for one map; errors that its taps correct are recorded as their beats land, those of a beat not stored with the group number
(R140, R143, R145, R147, log 13, DESIGN CHOICE). -/
def State.startDelivery (s : State) (tile i : Nat) (lams : BitVec 16) (f : Nat) (tm : BitVec 48) (data : List (List Byte))
    (errs : List (Nat × Nat × StoreErr)) : State :=
  let t := s.tile tile
  let m := t.map i
  let mine := (List.range m.width).map (m.lam0 + ·)
  let whole := mine.all fun l => lams.getLsbD l && t.tuned m.lane l && !(errs.any fun e => e.1 == 0 && e.2.1 == l && e.2.2 == .uncorrectable)
  let s := s.modTile tile fun t => { t with arrmap := t.arrmap.set (Fin.ofNat 8 i) m.advance, nextBlock := t.nextBlock + 1 }
  let lost := (!whole) || (t.berthFor m.next).isNone
  let b : Block := { id := t.nextBlock, slot := m.next, place := (t.berthFor m.next).getD none, group := m.group, feeder := f, t := tm,
                     map := BitVec.ofNat 3 i, fmt := m.fmt, bsz := m.bsz, width := m.width, beats := m.beats, age := 0, full := false,
                     lost := lost, data := data, lams := lams, errs := errs }
  let where_ (e : Nat × Nat × StoreErr) : Word :=
    let off := 8 * (e.1 * m.width + (e.2.1 - m.lam0))
    if lost || m.beats ≤ e.1 || m.size ≤ off then m.group.zeroExtend 64
    else
      let loc := t.blockLoc tile b
      match loc.weir with | some a => BitVec.ofNat 64 (a + off) | none => chamberCode b.slot off
  let first (l : Nat) : Bool := ((List.range 8).find? fun k => (t.map k).matches m.lane m.group l) == some i
  let mended := errs.filter fun e => e.2.2 == .corrected && mine.contains e.2.1 && t.tuned m.lane e.2.1 && first e.2.1
  let s := s.modTile tile fun t => { t with blocks := t.blocks ++ [b], tapErrs := t.tapErrs ++ mended.map fun e => (e.1, where_ e) }
  if lost then
    let a : BitVec 12 := m.group ++ m.next
    s.unitFault t.slot 0 tile tile Cause.chamberLoss (a.zeroExtend 64)
  else match t.arms.find? fun a => a.slot == m.next && a.block.isNone with
    | some a => s.fireArm tile a b.id (b.beats + 2 + a.d)
    | none => s

/-- Start beats that match no enabled map are recorded, and so are the errors corrected in what follows them (R140, R147). -/
def State.strayStart (s : State) (tile : Nat) (lane : BitVec 2) (lams : BitVec 16) (tag : BitVec 8) (errs : List (Nat × Nat × StoreErr)) : State :=
  let x := s.tile tile
  let stray := (List.range 16).filter fun l => lams.getLsbD l && x.tuned lane l && !((List.range 8).any fun i => (x.map i).matches lane tag l)
  let mended := errs.filter fun e => e.2.2 == .corrected && stray.contains e.2.1
  let s := stray.foldl (fun (s : State) _ => s.mcheck (tag.zeroExtend 64) x.asid x.crew 0 tile 0x06 0) s
  if mended.isEmpty then s else s.modTile tile fun t => { t with tapErrs := t.tapErrs ++ mended.map fun e => (e.1, tag.zeroExtend 64) }

/-- DELIVERY_START: start beats of a group land at a tile on some wavelengths of a lane; each enabled map they match begins a delivery, in
the order of the maps; a start beat that matches none is recorded (R140, R143). `only`: the one map this event stands for. Taps without their
rail take nothing (R24). -/
def execDeliveryStart (tile : Nat) (lane : BitVec 2) (lams : BitVec 16) (tag : BitVec 8) (f : Nat) (t : BitVec 48) (light : Light)
    (only : Option (BitVec 3)) (s : State) : Result :=
  onUnit (s.tileOk tile && s.feederOk f) <|
    if !s.transit tile then s
    else
      let maps := (s.tile tile).startMaps lane lams tag
      let s := if only.all fun k => maps.head? == some k.toNat then s.strayStart tile lane lams tag light.errs else s
      (maps.filter fun i => only.all fun k => k.toNat == i).foldl (fun s i => s.startDelivery tile i lams f t light.data light.errs) s

/-- Payload of unit k of beat i of a block: the 8 bytes its map places there (R135, R140). -/
def Block.unit (b : Block) (lam0 i k : Nat) : List Byte :=
  let lam := lam0 + k
  let pos := ((List.range lam).filter fun l => b.lams.getLsbD l).length
  if b.lams.getLsbD lam then (List.range 8).map fun j => (b.data.getD i []).getD (8 * pos + j) 0 else List.replicate 8 0

/-- The beat of a block that lands in this count: its granules are written, poisoned where the beat was uncorrectable (R141, R147). -/
def State.landBeat (s : State) (tile : Nat) (b : Block) : State :=
  let t := s.tile tile
  let m := t.map b.map.toNat
  let loc := t.blockLoc tile b
  let i := b.age
  (List.range b.width).foldl (fun s k =>
    let off := 8 * (i * b.width + k)
    if (b.bsz.toNat + 1) * 512 ≤ off then s
    else
      let bs := b.unit m.lam0 i k
      let key := loc.key + off
      let bad := b.errs.any fun x => x.1 == i && x.2.1 == m.lam0 + k && x.2.2 == .uncorrectable
      match loc.weir with
      | some a =>
        let r : CoreRef := .tile tile true
        let old := (List.range 8).map fun j => s.latest r (a + off + j)
        s.modTile tile fun t =>
          { t with stores := t.stores ++ [{ due := 2, owner := none, bytes := keyed (a + off) bs, bad := if bad then [a + off] else [] }]
                   landed := t.landed ++ [(0, key, old)] }
      | none =>
        let old := readCells s.mem key 8
        let s := { s with mem := writeCells s.mem (keyed key bs)
                          poison := if bad then key :: s.poison.filter (· != key) else s.poison.filter (· != key) }
        s.modTile tile fun t => { t with landed := t.landed ++ [(0, key, old)] }) s

/-- Errors that the taps corrected in this count's beats are recorded (R147). -/
def State.tapRecords (s : State) (tile : Nat) : State :=
  let t := s.tile tile
  if t.tapErrs.isEmpty then s
  else
    (t.tapErrs.filter (·.1 == 0)).foldl (fun (s : State) e => s.mcheck e.2 t.asid t.crew 0 tile 0x02 (Config.noCause 0x02))
      (s.modTile tile fun t => { t with tapErrs := (t.tapErrs.filter (·.1 != 0)).map fun e => (e.1 - 1, e.2) })

/-- A cycle of a tile's deliveries: beats land, and a block whose last beat landed in the cycle before completes (R141). Ages run to the block's
c + 2. -/
def State.landBeats (s : State) (tile : Nat) : State :=
  let s := s.tapRecords tile
  ((s.tile tile).blocks.filter fun b => b.age < b.beats + 2).foldl (fun s b =>
    let s := if b.lost || b.beats ≤ b.age then s else s.landBeat tile b
    let s := s.modTile tile fun t => { t with blocks := t.blocks.map fun x => if x.id = b.id then { x with age := x.age + 1 } else x }
    if b.age = b.beats then s.soon (.deliveryComplete tile b.id) else s) s

/-- DELIVERY_COMPLETE: the slot or place is FULL, the arrival sluice counts it, and the arm that it fired is consumed; a free worker's armed word
enters in the next cycle (R141, R142). -/
def execDeliveryComplete (tile block : Nat) (s : State) : Result :=
  onUnit (s.tileOk tile) <|
    let t := s.tile tile
    match t.blocks.find? (·.id == block) with
    | none => s
    | some b =>
      if b.lost then s.modTile tile fun t => { t with blocks := t.blocks.filter (·.id != block) }
      else
        let m := t.map b.map.toNat
        let s := s.modTile tile fun t =>
          { t with blocks := t.blocks.map fun x => if x.id = block then { x with full := true } else x
                   arms := t.arms.filter fun a => a.block != some block }
        let s := match t.arms.find? fun a => a.block == some block with
          | some a => if t.worker.timed then s else s.bindArm tile a block (1 + a.d)
          | none => s
        if m.slen then s.sluiceAdd (.tile tile true) ⟨m.sluice, 1, none⟩ else s

/-! ### Losses and errors -/

/-- Beats from count c on of the blocks of a feeder are dark (R148). -/
def Block.darken (b : Block) (f : Nat) (c : BitVec 48) : Block :=
  if b.feeder = f && !b.full then { b with data := b.data.take (c - b.t).toNat } else b

/-- The beats that a feeder without light would modulate from the present count on: the blocks in progress go dark, and their crews take
CHAMBER_LOSS (R148). -/
def State.dimFeeder (s : State) (f : Nat) : State :=
  match (s.feeder f).slot with
  | none => s
  | some n =>
    let c := (s.slot n).run.vcyc
    let under (b : Inject) : Bool := !b.dark && (c - b.t).toNat < b.beats
    let now := (s.feeder f).flying.filter under
    if now.isEmpty then s
    else
      let dim (t : Tile) : Tile := if t.slot = some n then { t with blocks := t.blocks.map fun (b : Block) => b.darken f c } else t
      let dark (i : Instr) : Instr := match i with
        | .deliveryStart tile lane lams tag g t light only =>
          if g = f then .deliveryStart tile lane (if c = t then 0 else lams) tag g t { light with data := light.data.take (c - t).toNat } only else i
        | _ => i
      let s : State := { s with tiles := mapVals (fun _ => dim) s.tiles, agenda := s.agenda.map fun d => { d with ev := dark d.ev } }
      now.foldl (fun s b => s.lightLost f b.slot) (s.modFeeder f fun x => { x with flying := x.flying.map fun b => if under b then { b with dark := true } else b })

/-- A feeder's light in a cycle: it modulates only in counts that its crew runs (R148, R149). -/
def State.lightCycle (s : State) (f : Nat) : State := if s.laserOut f && s.crewLive (.feeder f 0) then s.dimFeeder f else s

/-- LASER_FAILOVER: the gap lasts at most 2 ms; blocks that its feeders modulate in it are lost, and their crews take CHAMBER_LOSS (R24, R148). -/
def execLaserFailover (laser : Nat) (s : State) : Result :=
  onUnit (laser < 4) <|
    let (d, s) := s.freeBelow 2500001
    { s with pwr := { s.pwr with lasersOut := (laser, s.time + BitVec.ofNat 64 d) :: s.pwr.lasersOut } }.mcheck
      (BitVec.ofNat 64 laser) 0 0 4 laser 0x05 (Config.noCause 0x05)

/-- SCRUB_READ: a granule is read; an error corrected is recorded, an uncorrectable one poisons it (R252). (log 37, DESIGN CHOICE) -/
def execScrubRead (tile addr : Nat) (found : StoreErr) (s : State) : Result :=
  onUnit (s.tileOk tile && addr < Config.storeSize) <|
    let t := s.tile tile
    let g := addr / 8 * 8
    match found with
    | .none => s
    | .corrected => s.mcheck (BitVec.ofNat 64 g) t.asid t.crew 0 tile 0x02 (Config.noCause 0x02)
    | .uncorrectable => { s with poison := Config.tileKey tile g :: s.poison.filter (· != Config.tileKey tile g) }

/-- A physical line's page, if one is mapped. -/
def State.pageOfLine (s : State) (f line : Nat) : Option PageMap :=
  s.lh.pages.find? fun p => pageHome p == f && pageInStack p == line * 128 / 2 ^ 21

/-- Global address of a line of a mapped page. -/
def lineAddr (p : PageMap) (line : Nat) : Word := BitVec.ofNat 64 (p.page * 2 ^ 21 + line * 128 % 2 ^ 21)

/-- DIRTY_LINE_EVICT: bad sectors take the stack's poison code; recorded, and a fault of the crew whose member holds the page's berth
(R253). (log 36, DESIGN CHOICE) -/
def execDirtyLineEvict (f line : Nat) (badSectors : BitVec 8) (s : State) : Result :=
  onUnit (s.feederOk f) <|
    let k := Config.weightKey f (line * 128)
    let bad := ((List.range 8).filter (badSectors.getLsbD ·)).map (k + 16 * ·)
    let s := { s with poison := bad ++ s.poison.filter fun q => !bad.contains q }
    let s := s.modFeeder f fun x => { x with present := x.present.filter (· != line) }
    if bad.isEmpty then s
    else match s.pageOfLine f line with
    | none => s.mcheck 0 0 0 1 f 0x01 Cause.eccConsumed
    | some p =>
      let a := lineAddr p line
      match ((s.feeder f).berth? (pageInStack p)).bind (·.holder) with
      | none => s.mcheck a p.asid 0 1 f 0x01 Cause.eccConsumed
      | some h =>
        match s.slotOfAsidHolder h with
        | some n => s.unitFault (some n) 1 f (65536 + f) Cause.eccConsumed a
        | none => s.mcheck a p.asid 0 1 f 0x01 Cause.eccConsumed

end Sys2Proof.Machine
end

