-- ==== Sys2Proof/Machine/Local.lean ====
section
/-! DEFINITION. The scalar words of the L column: loads, stores, local atomics, window queries, the LUT table (spec 13 R326, R327,
R335, R337, R338; 09 R231). -/

namespace Sys2Proof.Machine

/-- Bytes of a size code. -/
def sizeBytes (sz : BitVec 2) : Nat := 2 ^ sz.toNat

/-- A loaded value of n bytes, sign- or zero-extended (R327). -/
def extendBytes (uns : Bool) (bs : List Byte) : Word :=
  let n := bs.length
  let w := BitVec.ofNat 64 (leNat bs)
  if uns || 8 ≤ n then w else (w <<< (64 - 8 * n)).sshiftRight (64 - 8 * n)

/-- LD (R327). -/
def execLd (sz : BitVec 2) (uns : Bool) (t : Reg) (m : MemOp) (s : State) : Result :=
  guarded (.ld sz uns t m) s fun s =>
    match m with
    | .port p => s.takeStep (.ld sz uns t m) p fun bs s => s.laterG 4 t (extendBytes uns bs)
    | .addr base idx off =>
      let n := sizeBytes sz
      let a := s.ea base idx off
      let addrs := layout a.toNat n
      s.withRead (.ld sz uns t m) (s.check s.actor { align := n } a addrs) addrs fun bs s => s.laterG 4 t (extendBytes uns bs)

/-- ST (R327). -/
def execSt (sz : BitVec 2) (t : Reg) (m : MemOp) (s : State) : Result :=
  guarded (.st sz t m) s fun s =>
    let n := sizeBytes sz
    let bs := leBytes n (s.g t).toNat
    match m with
    | .port p => s.writeStep (.st sz t m) p (allBits bs) id
    | .addr base idx off =>
      let a := s.ea base idx off
      let addrs := layout a.toNat n
      s.withAccess (.st sz t m) (s.check s.actor { store := true, align := n } a addrs) addrs fun s =>
        (s.store s.actor (addrs.zip bs)).markDirty s.actor a.toNat

/-- The new value of an atomic on sz-byte values; none for a cas that fails (R335). -/
def amoNew (op : AmoOp) (uns : Bool) (n : Nat) (old operand compare : Word) : Option Word :=
  let ext (w : Word) : Word := extendBytes uns (leBytes n w.toNat)
  let o := ext old
  let x := ext operand
  match op with
  | .add => some (old + operand)
  | .min => some (if (if uns then o.ult x else o.slt x) then o else x)
  | .max => some (if (if uns then x.ult o else x.slt o) then o else x)
  | .and => some (old &&& operand)
  | .or => some (old ||| operand)
  | .swap => some operand
  | .cas => if leBytes n old.toNat = leBytes n compare.toNat then some operand else none

/-- AMO: indivisible at the granule's bank unit; the old value returns at E + 4 (R231, R335). A poisoned granule raises ECC_CONSUMED and
nothing is written (R252). -/
def execAmo (op : AmoOp) (uns dword : Bool) (t base : Reg) (off : BitVec 19) (i : Reg) (s : State) : Result :=
  guarded (.amo op uns dword t base off i) s fun s =>
    let n := if dword then 8 else 4
    let a := s.ea base 0 off
    let addrs := layout a.toNat n
    let w := Instr.amo op uns dword t base off i
    s.withRead w (s.check s.actor { store := true, berth := false, atomic := true, align := n } a addrs) addrs fun _ s =>
      let old := addrs.map fun x => s.latest s.actor x
      let ow := BitVec.ofNat 64 (leNat old)
      let s := s.laterG 4 t (extendBytes uns old)
      match amoNew op uns n ow (s.g i) (s.g t) with
      | some v => (s.store s.actor (addrs.zip (leBytes n v.toNat))).markDirty s.actor a.toNat
      | none => s

/-- The word of R337; 0 for no valid window. -/
def winqWord (w : BitVec 4) (d : WinDesc) : Word :=
  if !d.valid then 0
  else (1 : BitVec 1) ++ w ++ d.holder ++ d.fmt ++ d.blk ++ boolBit d.uw ++ boolBit d.ur ++ boolBit d.repl ++ (0 : BitVec 3)
    ++ BitVec.ofNat 20 d.size ++ (0 : BitVec 3) ++ BitVec.ofNat 19 d.base

/-- WINQ by address (R337). -/
def execWinqAddr (d a : Reg) (s : State) : Result :=
  guarded (.winqAddr d a) s fun s =>
    s.laterG 4 d (match s.windowAt s.actor (s.g a).toNat with
      | some (w, _) => winqWord w (s.shownWindow s.actor w.toNat)
      | none => 0)
/-- WINQ by number (R337). -/
def execWinqNum (d : Reg) (w : BitVec 4) (s : State) : Result :=
  guarded (.winqNum d w) s fun s => s.laterG 4 d (winqWord w (s.shownWindow s.actor w.toNat))

/-- LUTLD: byte c of 16 goes into LTc at E + 4 (R338). -/
def execLutld (base idx : Reg) (off : BitVec 19) (s : State) : Result :=
  guarded (.lutld base idx off) s fun s =>
    let a := s.ea base idx off
    let addrs := layout a.toNat 16
    s.withRead (.lutld base idx off) (s.check s.actor { align := 16 } a addrs) addrs fun bs s =>
      s.later 4 (.lt (Vector.ofFn fun i => bs.getD i.val 0))

end Sys2Proof.Machine
end

