-- ==== Sys2Proof/Machine/Packets.lean ====
section
/-! DEFINITION. Dynamic packets and remote requests on their way (spec 02 R49 to R53; 07 R171 to R177; 09 R226; 16 R400, R410): who sends, where
a packet goes, and how an answer comes back. -/

namespace Sys2Proof.Machine

/-- A sender of packets (R171). -/
inductive Site where
  | tile (id : Nat)
  | feeder (f : Nat)
  | towline (t : Nat)
  deriving DecidableEq, Repr

def Site.kindCode : Site → BitVec 2
  | .tile _ => 0
  | .feeder _ => 1
  | .towline _ => 2
def Site.number : Site → BitVec 16
  | .tile id => BitVec.ofNat 16 id
  | .feeder f => BitVec.ofNat 16 f
  | .towline t => BitVec.ofNat 16 t

/-- The tile a sender's heads leave from, and its route table (R154, R176). -/
def State.siteTile (s : State) : Site → Nat
  | .tile id => id
  | .feeder f => s.feederTile f
  | .towline t => s.towlineTile t 1
def State.siteTab (s : State) : Site → Vector (BitVec 128) 256
  | .tile id => s.routeTable (s.tile id).rtab 0 id id
  | .feeder f => s.routeTable (s.feeder f).rtab 1 f (s.feederTile f)
  | .towline t => s.routeTable (s.towline t).rtab 2 t (s.towlineTile t 1)

/-- The unit of a core. -/
def siteOf : CoreRef → Site
  | .tile id _ => .tile id
  | .feeder f _ => .feeder f
/-- The unit of a receiving interface. -/
def ifaceSite : Iface → Site
  | .feeder f => .feeder f
  | .towline t => .towline t

/-- A module's entry in the route table: 0x7F this module, 0x7E unreachable (R49). -/
def State.routeTo (s : State) (m : BitVec 13) : BitVec 8 :=
  if 6144 ≤ m.toNat then 0x7E else lookupD s.lh.routes m.toNat (if m = s.modNum then 0x7F else 0x7E)

/-- Packets for a module number are translated here (R49). -/
def State.isHere (s : State) (m : BitVec 13) : Bool := m == s.modNum || s.routeTo m == 0x7F

/-- The tile a packet's route ends at; none when there is no way (R154, R173). -/
def State.goalTile (s : State) (p : Packet) : Option Nat :=
  if s.isHere p.dstMod then
    match p.dstK.toNat with
    | 0 => if s.tileOk p.dst.toNat then some p.dst.toNat else none
    | 1 => if s.feederOk p.dst.toNat then some (s.feederTile p.dst.toNat) else none
    | 2 => if towlineOk p.dst.toNat then some (s.towlineTile p.dst.toNat 1) else none
    | _ => none
  else
    let e := (s.routeTo p.dstMod).toNat
    if e < 64 then some (s.towlineTile e 1) else none

/-- A packet without contents. -/
def blankPacket : Packet :=
  { addr := 0, asid := 0, srcMod := 0, srcK := 0, src := 0, dstMod := 0, dstK := 0, dst := 0, typ := 0, len := 0, tag := 0, opx := 0,
    hops := 0, itime := 0, resv := false, ch := false, seg := 0, turns := 0, payload := [], req := none, ans := none, offer := none }

/-- The port an edge unit's packets enter and leave by: 0 N, 1 E, 2 S, 3 W (R154). -/
def edgePort : Site → BitVec 3
  | .tile _ => 4
  | .feeder f => if f < 32 then 0 else 2
  | .towline t => if t < 32 then 3 else 1

/-- A packet's flits at an input of a router. -/
def flitsOf (inp : BitVec 3) (due : Nat) (p : Packet) : List DynBuf :=
  { inp := inp, due := due, body := false, pkt := p } :: (if p.len = 0 then [] else [{ inp := inp, due := due + 1, body := true, pkt := p }])

/-- The turn list of R176 and the sender's fields; a packet that arrived on a towline keeps its own. -/
def State.stamped (s : State) (site : Site) (goal : Nat) (p : Packet) : Packet :=
  let p := { p with ch := false, seg := 0, turns := turnList s (s.siteTab site) (s.siteTile site) goal }
  match site with
  | .towline _ => p
  | _ => { p with srcK := site.kindCode, src := site.number, hops := 0, itime := s.time.extractLsb' 0 24 }

/-- A core of this module learns the answer to its request `d` cycles from now. -/
def State.answerIn (s : State) (d : Nat) (q : Req) (a : Ans) : State :=
  if q.srcMod = s.modNum then s.afterTime d (.remoteAnswer q.core q.tag a) else s

/-- What the write of another copy answers goes to the primary copy's interface (R230). -/
def copyAns (q : Req) (a : Ans) : Ans :=
  if q.copy then .copied (match a with | .ack => true | _ => false) else a

/-! ### Requests -/

/-- TYPE of a request (R172; for berth and ticket requests log 12, DEDUCED). -/
def reqType : ReqKind → BitVec 4
  | .load _ _ => 1
  | .store _ _ => 2
  | _ => 3

/-- Bytes a request carries. -/
def reqBytes : ReqKind → List Byte
  | .store n d => leBytes n d.toNat
  | .amo op _ dw x y => leBytes (if dw then 8 else 4) x.toNat ++ (if op = .cas then leBytes (if dw then 8 else 4) y.toNat else [])
  | .berth w => leBytes 8 w.toNat
  | .bview w => leBytes 8 w.toNat
  | .tserve _ k => leBytes 4 k.toNat
  | _ => []

/-- OP of an atomic in SUB (R335). -/
def amoSub : AmoOp → Nat
  | .add => 0
  | .min => 1
  | .max => 2
  | .and => 3
  | .or => 4
  | .swap => 5
  | .cas => 6
/-- Size in SUB. -/
def sizeSub (n : Nat) : Nat := if n = 1 then 0 else if n = 2 then 1 else if n = 4 then 2 else 3
/-- OPX: the instruction's SUB byte (R410); 0 for berth and ticket requests (log 12, DEDUCED). -/
def reqOpx : ReqKind → BitVec 8
  | .load n uns => BitVec.ofNat 8 (sizeSub n + if uns then 4 else 0)
  | .store n _ => BitVec.ofNat 8 (sizeSub n)
  | .amo op uns dw _ _ => BitVec.ofNat 8 (amoSub op + (if dw then 8 else 0) + if uns then 16 else 0)
  | _ => 0

/-- A request as a packet toward a unit. -/
def reqPacket (q : Req) (m : BitVec 13) (k : BitVec 2) (dst : Nat) : Packet :=
  let bs := reqBytes q.kind
  { blankPacket with addr := q.gaddr, asid := q.asid, srcMod := q.srcMod, dstMod := m, dstK := k, dst := BitVec.ofNat 16 dst, typ := reqType q.kind,
                     len := bs.length, tag := q.tag, opx := reqOpx q.kind, payload := bs, req := some q }

/-- TYPE and payload of an answer. -/
def ansType : Ans → BitVec 4
  | .data _ => 4
  | .ack | .asleep | .copied _ => 5
  | .nack => 6
  | .fault _ => 7
def ansBytes : Ans → List Byte
  | .data v => leBytes 8 v.toNat
  | _ => []
/-- Of data and acknowledgements the request's own OPX (R411). -/
def ansOpx (q : Req) : Ans → BitVec 8
  | .fault x => x
  | .nack => 0
  | _ => reqOpx q.kind

/-- The packet that answers a request. -/
def State.ansPacket (s : State) (q : Req) (a : Ans) : Packet :=
  let bs := ansBytes a
  let dest := siteOf q.core
  { blankPacket with addr := q.gaddr, asid := q.asid, srcMod := s.modNum, dstMod := q.srcMod, dstK := dest.kindCode, dst := dest.number,
                     typ := ansType a, len := bs.length, tag := q.tag, opx := ansOpx q a, payload := bs, ans := some (q.core, a) }

/-! ### At a sender (R49, R53, R176) -/

/-- UNIT and INDEX of a sender. -/
def siteUnit : Site → BitVec 4 × Nat
  | .tile id => (0, id)
  | .feeder f => (1, f)
  | .towline t => (2, t)

/-- A packet joins what waits at its sender. -/
def State.enqueue (s : State) (site : Site) (goal : Nat) (p : Packet) : State :=
  match site with
  | .tile id => s.modTile id fun t => { t with outQ := t.outQ ++ [p] }
  | .feeder f => s.modFeeder f fun x => { x with outQ := x.outQ ++ [p] }
  | .towline _ => s.modTile (s.siteTile site) fun t => { t with dyn := t.dyn ++ flitsOf (edgePort site) 1 (s.stamped site goal p) }

/-- A packet that is no request, and has no way, is discarded with a record (R400). -/
def State.sendPlain (s : State) (site : Site) (p : Packet) : State :=
  match s.goalTile p with
  | some goal => s.enqueue site goal p
  | none => s.mcheck p.addr p.asid 0 0 (s.siteTile site) 0x06 (Config.noCause 0x06)

/-- A packet with no way from a sender: a request is recorded and answered REMOTE_NACK, at its own module at once (R49, R53). -/
def State.noWay (s : State) (site : Site) (p : Packet) : State :=
  match p.req with
  | none => s.sendPlain site p
  | some q =>
    let s := s.mcheck q.gaddr q.asid 0 (siteUnit site).1 (siteUnit site).2 0x01 Cause.remoteNack
    let a := copyAns q .nack
    if q.srcMod = s.modNum then s.answerIn 1 q a else s.sendPlain site (s.ansPacket q a)

/-- A packet leaves a unit. -/
def State.launchPacket (s : State) (site : Site) (p : Packet) : State :=
  match s.goalTile p with
  | some goal => s.enqueue site goal p
  | none => s.noWay site p

/-- A unit answers a request: a feeder's own core directly, others by a packet (R53, R411). -/
def State.answer (s : State) (site : Site) (q : Req) (a : Ans) : State :=
  let direct : Bool := match site, q.core with
    | .feeder f, .feeder g _ => f == g && q.srcMod == s.modNum
    | _, _ => false
  let visiting : Bool := q.srcMod == s.modNum && (match site, (s.core q.core).visit with
    | .feeder f, some v => v.feeder == f
    | _, _ => false)
  let a := copyAns q a
  if (direct || visiting) && !q.copy then s.answerIn 1 q a
  else s.launchPacket site (s.ansPacket q a)

/-- The north feeder over a logical tile (R51). -/
def State.entryFeeder (s : State) (id : Nat) : Nat := s.northFeeder (s.physCol id)

/-- The address of the copy of a replicated page on this module, if a load may use it (R230). -/
def State.localCopy (s : State) (asid : BitVec 16) (a : Word) : Word :=
  let b : Word := s.modNum ++ a.extractLsb' 0 51
  if gMod a ≠ s.modNum && (s.pageOf asid b).any (·.repl) then b else a

/-- A request leaves its core for the receiving interface, or the sequencer that holds the dispenser (R51, R234, R251). -/
def State.dispatchRequest (s : State) (r : CoreRef) (q : Req) : State :=
  match q.kind with
  | .tkt _ | .tserve _ _ | .tadv _ =>
    match s.slotOf r with
    | some n => s.launchPacket (siteOf r) (reqPacket q s.modNum 0 (s.anchorTile (s.slot n)))
    | none => s
  | _ =>
    let q := match q.kind with | .load _ _ => { q with gaddr := s.localCopy q.asid q.gaddr } | _ => q
    match (s.core r).visit with
    | some v => s.afterTime 1 (.remoteRequestReceive (.feeder v.feeder) q)
    | none =>
      if gMod q.gaddr ≠ s.modNum then s.launchPacket (siteOf r) (reqPacket q (gMod q.gaddr) 0 0)
      else match r with
        | .feeder f _ => s.afterTime 1 (.remoteRequestReceive (.feeder f) q)
        | .tile id _ => s.launchPacket (.tile id) (reqPacket q s.modNum 1 (s.entryFeeder id))

/-- A core issues a request: it is outstanding, its destination pends, and it is answered NACK after 2^20 TIME cycles (R53, R226, R395). -/
def State.sendRequest (s : State) (r : CoreRef) (g : Word) (kind : ReqKind) (dst : Option Reg) : State :=
  let c := s.core r
  let tag := c.nextTag
  let o : Outstanding := { tag := tag, gaddr := g, kind := kind, dst := dst, sent := s.time, seq := s.seq }
  let s := s.modCore r fun c =>
    { c with nextTag := tag + 1, reqs := c.reqs ++ [o], pending := match dst with | some d => c.pending ++ [(d, tag)] | none => c.pending }
  let s := s.afterTime (2 ^ 20) (.remoteTimeout r tag)
  s.dispatchRequest r { srcMod := s.modNum, core := r, tag := tag, asid := s.asidOf r, gaddr := g, kind := kind }

/-- MOD and SPACE that the issuing core refuses (R50). -/
def badGlobal (g : Word) : Bool := 6144 ≤ (gMod g).toNat || 1 < (gSpace g).toNat

/-- A remote store or atomic whose acknowledgement a release waits for (R227). -/
def isWriteReq : ReqKind → Bool
  | .store _ _ => true
  | .amo _ _ _ _ _ => true
  | _ => false
def Core.writesOut (c : Core) : Bool := c.reqs.any fun o => isWriteReq o.kind

end Sys2Proof.Machine
end

