-- ==== Sys2Proof/Machine/Berths.lean ====
section
/-! DEFINITION. Berths of windows and pages (spec 09 R217 to R222, R225, R227; 16 R406 to R408): takers, passages, views, taking and reclaiming,
the BERTH, BVIEW and BTAKE words, and the ends of their waits. -/

namespace Sys2Proof.Machine

/-! ### Taker words (R406) -/

def tkMod (w : Word) : BitVec 13 := w.extractLsb' 51 13
def tkKind (w : Word) : BitVec 3 := w.extractLsb' 48 3
def tkCore (w : Word) : BitVec 2 := w.extractLsb' 16 2
def tkId (w : Word) : BitVec 16 := w.extractLsb' 0 16

/-- The taker word that names a holder. -/
def Holder.word (h : Holder) : Word := h.modl ++ h.kind ++ (0 : BitVec 30) ++ h.core ++ h.num

/-- A taker word that R406 refuses. -/
def State.takerBad (s : State) (w : Word) : Bool :=
  w.extractLsb' 18 30 ≠ 0 || tkKind w = 7 || (tkKind w ≠ 5 && tkCore w ≠ 0) || 6144 ≤ (tkMod w).toNat
    || ((tkKind w).toNat ≤ 4 && !s.tileOk (tkId w).toNat) || (tkKind w = 5 && !s.feederOk (tkId w).toNat) || (tkKind w = 6 && tkId w ≠ 0)

/-- The core of this module a taker word names. -/
def State.takerCore (s : State) (w : Word) : Option CoreRef :=
  if tkMod w ≠ s.modNum then none
  else match (tkKind w).toNat with
    | 0 => some (.tile (tkId w).toNat false)
    | 1 => some (.tile (tkId w).toNat true)
    | 5 => some (.feeder (tkId w).toNat (tkCore w).toNat)
    | _ => none

/-- Engines and the host interface (R408). -/
def isEngineTaker (w : Word) : Bool := (2 ≤ (tkKind w).toNat && (tkKind w).toNat ≤ 4) || tkKind w = 6

/-- A core taker lies in the berth's ASID and in a crew; of other modules' cores this module knows nothing (R113, R219). -/
def State.takerInside (s : State) (asid : BitVec 16) (w : Word) : Bool :=
  match s.takerCore w with
  | some r => (s.slotOf r).isSome && s.asidOf r == asid && (s.core r).run != .idle
  | none => true

/-- A taker of a region kept at tile `own` (window) or of a page (R408, R219). -/
def State.takerAllowed (s : State) (asid : BitVec 16) (own : Option Nat) (view : Bool) (w : Word) : Bool :=
  !s.takerBad w && s.takerInside asid w &&
    (!isEngineTaker w || (!view && tkMod w == s.modNum &&
      (match own with
       | some id => tkKind w = 6 || (tkId w).toNat == id
       | none => tkKind w = 6)))

/-! ### Windows: who holds (R217) -/

/-- HOLDER code of a holder of tile `id`'s window. -/
def State.holderCode (s : State) (id : Nat) (h : Holder) : BitVec 5 :=
  if h.modl = s.modNum && h.num.toNat = id && h.kind = 0 then 1
  else if h.modl = s.modNum && h.num.toNat = id && h.kind = 1 then 2
  else 7

def Tile.win (t : Tile) (w : BitVec 4) : WinDesc := t.windesc[w.toNat]'(by omega)
def Tile.berth (t : Tile) (w : BitVec 4) : Berth := t.berths[w.toNat]'(by omega)
def Tile.setBerth (t : Tile) (w : BitVec 4) (b : Berth) : Tile := { t with berths := t.berths.set w.toNat b (by omega) }
def Tile.setHolder (t : Tile) (w : BitVec 4) (h : BitVec 5) : Tile :=
  { t with windesc := t.windesc.set w.toNat ((t.win w).setHolder h) (by omega) }

def State.holdsWindow (s : State) (id : Nat) (w : BitVec 4) (h : Holder) : Bool :=
  let t := s.tile id
  let c := s.holderCode id h
  (t.win w).holder == c && (c != 7 || (t.berth w).remote == some h)

/-- A HOLDER from the next cycle on. -/
def Tile.nextHolder (t : Tile) (w : BitVec 4) (h : BitVec 5) : Tile := { t with holderNew := t.holderNew ++ [(w, h)] }

/-- The taker of a window is a core of its own tile: the offer needs no message. -/
def State.atHome (s : State) (id : Nat) (taker : Word) : Bool :=
  match s.takerCore taker with
  | some (.tile j _) => j == id
  | _ => false

/-- The word by which offers and waits name a region: a page's first address; a window's physical page (R216). -/
def regionWord : Region → Word
  | .page g => g &&& ~~~0x1FFFFF
  | .window id w => BitVec.ofNat 64 (id * 65536 + w.toNat)

/-- FAULTADDR of a region: the window's first byte, or the global address. -/
def State.regionAddr (s : State) : Region → Word
  | .page g => g
  | .window id w => BitVec.ofNat 64 ((s.tile id).win w).base

/-- The region a word names is the one a core waits for: a page of its address space may be a window. -/
def State.sameRegion (s : State) (asid : BitVec 16) (reg : Region) (w : Word) : Bool :=
  regionWord reg == w || (match reg with
    | .page g => gSpace g == 0 && gMod g == s.modNum && (s.pageOf asid g).any fun p => p.phys == w
    | .window _ _ => false)

/-- A view or passage is in force for a taker. -/
def offerForce (home : Bool) (due : Nat) (here : Bool) : Bool := due == 0 && (home || here)

/-! ### Handing a window over (R219, R221, R222) -/

/-- An open write port of a core walks the window (R219 step 1). -/
def State.openWriter (s : State) (h : Holder) (id : Nat) (w : BitVec 4) : Bool :=
  h.modl == s.modNum && h.num.toNat == id && h.kind.toNat ≤ 1 &&
    (s.core (.tile id (h.kind == 1))).p.toList.any fun x => x.opened && x.write && x.win == w

/-- Words of a closed write port of the giver that still lie in its buffer, in this window. -/
def State.stillBuffered (s : State) (id : Nat) (w : BitVec 4) (giver : Option Holder) : Bool :=
  match giver with
  | none => false
  | some h =>
    let d := (s.tile id).win w
    h.modl == s.modNum && h.num.toNat == id && h.kind.toNat ≤ 1 &&
      (s.core (.tile id (h.kind == 1))).p.toList.any fun x => x.wbuf.any fun st => st.lines.any fun l => d.has l.1

/-- An offer leaves for a taker elsewhere (R219 step 4, log 12, DEDUCED). -/
def State.sendOffer (s : State) (site : Site) (reg taker : Word) (view : Bool) : State :=
  match s.takerCore taker with
  | some r =>
    let dest := siteOf r
    s.launchPacket site { blankPacket with addr := reg, srcMod := s.modNum, dstMod := s.modNum, dstK := dest.kindCode, dst := dest.number,
                                           typ := 5, offer := some (r, reg, view) }
  | none =>
    let dest : CoreRef := if tkKind taker = 5 then .feeder (tkId taker).toNat (tkCore taker).toNat else .tile (tkId taker).toNat (tkKind taker == 1)
    s.launchPacket site { blankPacket with addr := reg, srcMod := s.modNum, dstMod := tkMod taker, dstK := (siteOf dest).kindCode,
                                           dst := (siteOf dest).number, typ := 5, offer := some (dest, reg, view) }

/-- The giver's cycle counts in this TIME cycle: always for a free core or one elsewhere. -/
def State.giverTicks (s : State) (id : Nat) (giver : Option Holder) : Bool :=
  match giver with
  | some h =>
    if h.modl = s.modNum && h.num.toNat = id && h.kind.toNat ≤ 1 then
      let r : CoreRef := .tile id (h.kind == 1)
      !(s.core r).timed || s.crewLive r
    else true
  | none => true

/-- A core asleep in BTAKE for a region is told that the offer is in force. -/
def State.tellTaker (s : State) (taker reg : Word) (view : Bool) : State :=
  match s.takerCore taker with
  | none => s
  | some r =>
    if (s.core r).waits.any fun x => match x.1 with | .btake g v _ => v == view && s.sameRegion (s.asidOf r) g reg | _ => false
    then s.soon (.berthOfferArrive r reg view) else s

/-- A view dropped before its reader took it: one still asleep hears of it, by the offer on its way or now, and its wait ends in a trap (R221). -/
def State.dropView (s : State) (id : Nat) (w : BitVec 4) (v : View) : State :=
  let reg := regionWord (.window id w)
  if s.atHome id v.taker then s.tellTaker v.taker reg true
  else if v.sent then s else s.sendOffer (.tile id) reg v.taker true

/-- A handover or view of a window by its holder starts; the region's stores of the holder come first (R219, R221). -/
def State.offerWindow (s : State) (id : Nat) (w : BitVec 4) (h : Holder) (taker : Word) (view : Bool) : State :=
  let b := (s.tile id).berth w
  if view then s.modTile id fun t => t.setBerth w { b with views := b.views ++ [{ taker := taker, due := 2, giver := some h }] }
  else
    b.views.foldl (fun s v => s.dropView id w v) (s.modTile id fun t =>
      (t.setBerth w { b with passage := some { taker := taker, due := 2, giver := some h }, views := [], remote := none }).nextHolder w 0)

/-- One passage at the end of a cycle: engines take at E + 2; a local offer comes into force; a remote one leaves (R219, R222). -/
def State.tickPassage (s : State) (id : Nat) (w : BitVec 4) : State :=
  let t := s.tile id
  let b := t.berth w
  match b.passage with
  | none => s
  | some p =>
    if !s.giverTicks id p.giver || p.due = 0 then s
    else if s.stillBuffered id w p.giver then s.modTile id fun t => t.setBerth w { b with passage := some { p with due := 2 } }
    else
      let p := { p with due := p.due - 1 }
      let reg := regionWord (.window id w)
      if p.due ≠ 0 then s.modTile id fun t => t.setBerth w { b with passage := some p }
      else if isEngineTaker p.taker then
        let code : BitVec 5 := if tkKind p.taker = 6 then 6 else (tkKind p.taker).zeroExtend 5 + 1
        s.modTile id fun t => (t.setBerth w { b with passage := none, giver := p.giver.map (·.kind == 1) }).setHolder w code
      else if s.atHome id p.taker then
        (s.modTile id fun t => t.setBerth w { b with passage := some p }).tellTaker p.taker reg false
      else
        let here : Bool := tkMod p.taker != s.modNum
        (s.modTile id fun t => t.setBerth w { b with passage := some { p with sent := true, here := here } }).sendOffer (.tile id) reg p.taker false

/-- One view at the end of a cycle. -/
def State.tickView (s : State) (id : Nat) (w : BitVec 4) (v : View) : State :=
  if v.due = 0 || !s.giverTicks id v.giver then s
  else
    let due := if s.stillBuffered id w v.giver then 2 else v.due - 1
    let reg := regionWord (.window id w)
    let home := s.atHome id v.taker
    let v' := { v with due := due, sent := due == 0 && !home, here := due == 0 && tkMod v.taker != s.modNum }
    let s := s.modTile id fun t =>
      let b := t.berth w
      t.setBerth w { b with views := b.views.map fun x => if x = v then v' else x }
    if due ≠ 0 then s else if home then s.tellTaker v.taker reg true else s.sendOffer (.tile id) reg v.taker true

/-- Berths of a tile at the end of a cycle. -/
def State.endBerths (s : State) (id : Nat) : State :=
  let s := s.modTile id fun t => { t.holderNew.foldl (fun (t : Tile) x => t.setHolder x.1 x.2) t with holderNew := [] }
  ((List.range 16).map (BitVec.ofNat 4)).foldl (fun s w =>
    let s := s.tickPassage id w
    ((s.tile id).berth w).views.foldl (fun s v => s.tickView id w v) s) s

/-! ### Taking (R220 to R222) -/

/-- What a BTAKE finds. -/
inductive Take where
  | taken
  | asleep
  | refused
  deriving DecidableEq, Repr

/-- The holder becomes `h` for accesses of the next cycle on. -/
def State.giveWindow (s : State) (id : Nat) (w : BitVec 4) (h : Holder) : State :=
  let c := s.holderCode id h
  s.modTile id fun t =>
    let b := t.berth w
    (t.setBerth w { b with passage := none, giver := none, remote := if c = 7 then some h else none }).nextHolder w c

/-- A weir place is not FREE (R222). -/
def Tile.weirBusy (t : Tile) : Bool := t.blocks.any fun b => !b.lost && b.place.isSome

/-- BTAKE of a window by a holder: the passage to it, an engine's window it handed on, or a view. -/
def State.takeWindow (s : State) (id : Nat) (w : BitVec 4) (h : Holder) (view : Bool) : Take × State :=
  let t := s.tile id
  let b := t.berth w
  let home := s.holderCode id h ≠ 7
  if view then
    match b.views.find? fun v => v.taker == h.word with
    | none => (.refused, s)
    | some v =>
      if offerForce home v.due v.here then
        (.taken, s.modTile id fun t => t.setBerth w { b with views := b.views.filter (· != v) })
      else (.asleep, s)
  else
    let code := (t.win w).holder.toNat
    if 3 ≤ code && code ≤ 6 then
      if home && b.giver == some (h.kind == 1) && !(code = 3 && t.weirEn && t.weirWin == w && t.weirBusy) then (.taken, s.giveWindow id w h)
      else (.refused, s)
    else match b.passage with
      | none => (.refused, s)
      | some p =>
        if p.taker ≠ h.word then (.refused, s)
        else if offerForce home p.due p.here then (.taken, s.giveWindow id w h)
        else (.asleep, s)

/-! ### Pages (R217) -/

/-- BERTH or BVIEW of a page by a holder at its home feeder; false: the berth is not held, or the taker may not take. (log 46, DEDUCED) -/
def State.offerPage (s : State) (p : PageMap) (h : Holder) (gaddr taker : Word) (view : Bool) : Bool × State :=
  let f := pageHome p
  let n := pageInStack p
  if !s.mayStorePage h p || !s.takerAllowed p.asid none view taker then (false, s)
  else
    let b := ((s.feeder f).berth? n).getD { page := n, holder := none, passage := none, views := [] }
    let here : Bool := tkMod taker != s.modNum
    let reg := gaddr &&& ~~~0x1FFFFF
    if view then
      let v : View := { taker := taker, due := 0, sent := true, here := here, giver := some h }
      (true, (s.modFeeder f fun x => x.setBerth { b with views := b.views ++ [v] }).sendOffer (.feeder f) reg taker true)
    else if tkKind taker = 6 then
      let host : Holder := { modl := s.modNum, kind := 6, num := 0, core := 0, asid := p.asid }
      (true, s.modFeeder f fun x => x.setBerth { b with holder := some host, passage := none, views := [], giver := some h })
    else
      let q : Passage := { taker := taker, due := 0, giver := some h, sent := true, here := here }
      (true, (s.modFeeder f fun x => x.setBerth { b with holder := none, passage := some q, views := [] }).sendOffer (.feeder f) reg taker false)

/-- BTAKE of a page: one not in passage to the core is waited for, since its offer may be on its way (litmus test 4 of 09, log 15, DEDUCED); not by
a core that asks because its offer arrived (`told`): the view was dropped, or the page came to rest (R220, R221). -/
def State.takePage (s : State) (p : PageMap) (h : Holder) (view told : Bool) : Take × State :=
  let f := pageHome p
  let n := pageInStack p
  let wait : Take := if told then .refused else .asleep
  match (s.feeder f).berth? n with
  | none => (if s.mayStorePage h p then .refused else wait, s)
  | some b =>
    if view then
      match b.views.find? fun v => v.taker == h.word with
      | some v => if v.here then (.taken, s.modFeeder f fun x => x.setBerth { b with views := b.views.filter (· != v) }) else (.asleep, s)
      | none => (wait, s)
    else if b.holder = some h then (.refused, s)
    else if b.holder.any (·.kind == 6) && b.giver = some h then
      (.taken, s.modFeeder f fun x => x.setBerth { b with holder := some h, giver := none })
    else match b.passage with
      | some q =>
        if q.taker = h.word && q.here then (.taken, s.modFeeder f fun x => x.setBerth { b with holder := some h, passage := none })
        else if q.taker = h.word then (.asleep, s) else (wait, s)
      | none => (wait, s)

/-- The keeper in this module learns that an offer has reached its taker: it is in force. -/
def State.offerArrived (s : State) (r : CoreRef) (reg : Word) (view : Bool) : State :=
  let me := (s.asHolder r).word
  let seeV (v : View) : View := if v.taker = me && view && v.sent then { v with here := true } else v
  let seeP (p : Passage) : Passage := if p.taker = me && !view && p.sent then { p with here := true } else p
  if gSpace reg = 1 then
    match s.pageOf (s.asidOf r) reg with
    | none => s
    | some p => s.modFeeder (pageHome p) fun x =>
        { x with berths := x.berths.map fun b => if b.page = pageInStack p then { b with passage := b.passage.map seeP, views := b.views.map seeV } else b }
  else
    let id := (reg.extractLsb' 16 16).toNat
    let w : BitVec 4 := reg.extractLsb' 0 4
    s.modTile id fun t => let b := t.berth w; t.setBerth w { b with passage := b.passage.map seeP, views := b.views.map seeV }

/-! ### The words (R405 to R408) -/

/-- A handover or view leaves: at once for a window of the core's tile, as a request for a region kept elsewhere. -/
def State.release (s : State) (r : CoreRef) (x : Release) : State :=
  match x.region with
  | .window id w => s.offerWindow id w (s.asHolder r) x.taker x.view
  | .page g => s.sendRequest r g (if x.view then .bview x.taker else .berth x.taker) none

/-- A remote store or atomic, as a word. -/
def storesAway : Instr → Bool
  | .rst _ _ _ _ | .ramo _ _ _ _ _ _ _ _ => true
  | _ => false

/-- Updates of a page that a feeder core has entered and that its pipeline has still to write (R219 step 1). -/
def State.updating (s : State) (r : CoreRef) : Region → Bool
  | .window _ _ => false
  | .page g => match r with
    | .tile _ _ => false
    | .feeder f c => (s.feeder f).pipes[feederCore c].any fun o => gPage o.gaddr == gPage g && (match o.kind with | .upd _ _ _ _ => true | .red _ _ _ => false)

/-- A release waits for the acknowledgements of the remote stores and atomics issued before it, and for the core's updates of the page
(R219 step 1, R221, R227). -/
def State.releaseHeld (s : State) (r : CoreRef) (x : Release) : Bool :=
  (s.core r).writesOut || ((s.core r).ops.any fun o => o.seq < x.seq && storesAway o.instr) || s.updating r x.region

/-- A release leaves, or is waited with. -/
def State.releaseSoon (s : State) (region : Region) (taker : Word) (view : Bool) : State :=
  let x : Release := { region := region, taker := taker, view := view, seq := s.seq }
  if s.releaseHeld s.actor x then s.await (.release x) else s.release s.actor x

/-- BERTH or BVIEW of a window of the core's tile. -/
def State.handWindow (s : State) (w : BitVec 4) (taker : Word) (view : Bool) : State :=
  match s.actor with
  | .feeder _ _ => s
  | .tile id _ =>
    let d := (s.tile id).win w
    let a := BitVec.ofNat 64 d.base
    let h := s.asHolder s.actor
    if !d.valid then s.raise Cause.window (w.zeroExtend 64)
    else if !s.holdsWindow id w h || !s.takerAllowed (s.asidOf s.actor) (some id) view taker || (!view && s.openWriter h id w) then
      s.raise Cause.berth a
    else s.releaseSoon (.window id w) taker view

/-- BERTH or BVIEW of a page by its global address. -/
def State.handPage (s : State) (i : Instr) (g taker : Word) (view : Bool) : State :=
  if badGlobal g then s.raise Cause.remoteFault g
  else if s.takerBad taker || (isEngineTaker taker && (view || tkKind taker ≠ 6 || gSpace g ≠ 1)) then s.raise Cause.berth g
  else if 32 ≤ s.me.reqs.length then s.standOp 1 i
  else s.releaseSoon (.page g) taker view

/-- BERTH wN (R407). -/
def execBerthW (w : BitVec 4) (b : Reg) (s : State) : Result := guarded (.berthW w b) s fun s => s.handWindow w (s.g b) false
/-- BERTH.g (R407). -/
def execBerthG (a b : Reg) (s : State) : Result := guarded (.berthG a b) s fun s => s.handPage (.berthG a b) (s.g a) (s.g b) false
/-- BVIEW wN (R407). -/
def execBviewW (w : BitVec 4) (b : Reg) (s : State) : Result := guarded (.bviewW w b) s fun s => s.handWindow w (s.g b) true
/-- BVIEW.g (R407). -/
def execBviewG (a b : Reg) (s : State) : Result := guarded (.bviewG a b) s fun s => s.handPage (.bviewG a b) (s.g a) (s.g b) true

/-- A free core sleeps in BTAKE, at most 2^20 TIME cycles (R220). -/
def State.sleepTake (s : State) (reg : Region) (view : Bool) : State :=
  (s.await (.btake reg view s.time)).afterTime (2 ^ 20) (.btakeTimeout s.actor)

/-- BTAKE of a window of the core's tile (R220, R222). -/
def State.btakeWindow (s : State) (w : BitVec 4) (view : Bool) : State :=
  match s.actor with
  | .feeder _ _ => s
  | .tile id _ =>
    let d := (s.tile id).win w
    if !d.valid then s.raise Cause.window (w.zeroExtend 64)
    else match s.takeWindow id w (s.asHolder s.actor) view with
      | (.taken, s) => s
      | (.refused, s) => s.raise Cause.berth (BitVec.ofNat 64 d.base)
      | (.asleep, s) => if s.me.timed then s.raise Cause.berth (BitVec.ofNat 64 d.base) else s.sleepTake (.window id w) view

/-- BTAKE of a page: a request to its keeper, whose answer ends the sleep. -/
def State.btakePage (s : State) (i : Instr) (g : Word) (view : Bool) : State :=
  if badGlobal g then s.raise Cause.remoteFault g
  else if 32 ≤ s.me.reqs.length then s.standOp 1 i
  else (s.sleepTake (.page g) view).sendRequest s.actor g (if view then .btakeView false else .btake false) none

/-- BTAKE wN -/
def execBtakeW (w : BitVec 4) (s : State) : Result := guarded (.btakeW w) s fun s => s.btakeWindow w false
/-- BTAKE.g gA -/
def execBtakeG (a : Reg) (s : State) : Result := guarded (.btakeG a) s fun s => s.btakePage (.btakeG a) (s.g a) false
/-- BTAKE.view wN -/
def execBtakeViewW (w : BitVec 4) (s : State) : Result := guarded (.btakeViewW w) s fun s => s.btakeWindow w true
/-- BTAKE.view.g gA -/
def execBtakeViewG (a : Reg) (s : State) : Result := guarded (.btakeViewG a) s fun s => s.btakePage (.btakeViewG a) (s.g a) true

/-! ### Ends of waits -/

/-- A trap at the word whose wait ends in it: TRAPPC names the bundle that issued last (R228). -/
def State.raiseWaiting (s : State) (r : CoreRef) (cause : BitVec 8) (addr : Word) : State :=
  let was := (s.core r).issuing
  (((s.modCore r fun c => { c with waits := [], issuing := true }).raiseOf r cause addr).modCore r fun c => { c with issuing := was })

/-- A request of BTAKE. -/
def isTakeReq : ReqKind → Bool
  | .btake _ | .btakeView _ => true
  | _ => false

/-- BERTH_OFFER_ARRIVE: the offer is in force for its taker; a core asleep in BTAKE for it takes, or asks the keeper again; a view dropped
meanwhile ends its wait in BERTH (R219 to R221). -/
def execBerthOfferArrive (core : CoreRef) (region : Word) (view : Bool) (s : State) : Result :=
  onUnit (s.coreOk core) <|
    let s := s.offerArrived core region view
    let hit : Option Region := (s.core core).waits.findSome? fun (x : Wait × Bool) => match x.1 with
      | .btake g v _ => if v = view && s.sameRegion (s.asidOf core) g region then some g else none
      | _ => none
    match hit with
    | none => s
    | some (.page g) =>
      if (s.core core).reqs.any fun o => isTakeReq o.kind then
        s.modCore core fun c => { c with reqs := c.reqs.map fun o => { o with again := isTakeReq o.kind } }
      else s.sendRequest core g (if view then .btakeView true else .btake true) none
    | some (.window id w) =>
      match s.takeWindow id w (s.asHolder core) view with
      | (.taken, s) => s.endWait core fun x => match x with | .btake _ _ _ => true | _ => false
      | (.refused, s) => s.raiseWaiting core Cause.berth (s.regionAddr (.window id w))
      | (.asleep, s) => s

/-- BTAKE_TIMEOUT: after 2^20 TIME cycles asleep, BERTH at the BTAKE (R220). -/
def execBtakeTimeout (core : CoreRef) (s : State) : Result :=
  onUnit (s.coreOk core) <|
    let hit : Option Region := (s.core core).waits.findSome? fun (x : Wait × Bool) => match x.1 with
      | .btake g _ t => if 2 ^ 20 ≤ (s.time - t).toNat then some g else none
      | _ => none
    match hit with
    | none => s
    | some g => s.raiseWaiting core Cause.berth (s.regionAddr g)

end Sys2Proof.Machine
end

