-- ==== Sys2Proof/Machine/Remote.lean ====
section
/-! DEFINITION. Remote accesses, their receiving interfaces and homes, tickets, page migration and the context ferry (spec 02 R50 to R53; 09 R216
to R234; 10 R250, R251; 16 R395, R409 to R412). -/

namespace Sys2Proof.Machine

/-! ### Translation entries (R51, R52) -/

/-- A receiving interface's entries. -/
def State.iface (s : State) (i : Iface) : IfaceState :=
  (s.lh.ifaces.find? fun x => x.iface == i).getD { iface := i, l1 := [], l2 := [], walks := [] }
def State.setIface (s : State) (x : IfaceState) : State :=
  { s with lh := { s.lh with ifaces := s.lh.ifaces.filter (fun y => y.iface != x.iface) ++ [x] } }

/-- First-level entries of an interface, second-level entries of a feeder, and lockable entries. -/
def l1Size : Nat := 128
def l2Size : Nat := 4096
def lockMax : Nat := 96

/-- An entry for a page becomes the most recently used; the least recently used unlocked one makes room. -/
def useEntry (size : Nat) (l : List TlbEntry) (e : TlbEntry) : List TlbEntry :=
  let old := l.find? fun x => x.asid == e.asid && x.page == e.page
  let rest := l.filter fun x => !(x.asid == e.asid && x.page == e.page)
  let rest := if rest.length < size then rest
    else match rest.reverse.findIdx? fun x => !x.locked with
      | some k => rest.eraseIdx (rest.length - 1 - k)
      | none => rest
  old.getD e :: rest

/-- Both levels after a page's use. -/
def IfaceState.use (x : IfaceState) (asid : BitVec 16) (page : Nat) : IfaceState :=
  let e : TlbEntry := { asid := asid, page := page, locked := false }
  { x with l1 := useEntry l1Size x.l1 e, l2 := match x.iface with | .feeder _ => useEntry l2Size x.l2 e | .towline _ => [] }

/-- A page hits in the first or second level. -/
def IfaceState.hits (x : IfaceState) (asid : BitVec 16) (page : Nat) : Bool :=
  (x.l1.any fun e => e.asid == asid && e.page == page) || (x.l2.any fun e => e.asid == asid && e.page == page)

/-- Every interface drops a page's entries. -/
def State.dropEntries (s : State) (asid : BitVec 16) (page : Nat) : State :=
  let keep (e : TlbEntry) : Bool := !(e.asid == asid && e.page == page)
  { s with lh := { s.lh with ifaces := s.lh.ifaces.map fun x => { x with l1 := x.l1.filter keep, l2 := x.l2.filter keep } } }

/-! ### Answers (R53, R411) -/

/-- Cause a refusing answer is reported with. -/
def ansCause : Ans → BitVec 8
  | .fault x => if x = 0x05 then Cause.berth else if x = 0x04 then Cause.eccConsumed else Cause.remoteFault
  | _ => Cause.remoteNack

/-- A refusal is answered and recorded. -/
def State.refuse (s : State) (site : Site) (q : Req) (a : Ans) : State :=
  let ui := siteUnit site
  (s.mcheck q.gaddr q.asid 0 ui.1 ui.2 0x01 (ansCause a)).answer site q a

/-- The issuer of a request as a holder. -/
def reqHolder (q : Req) : Holder :=
  match q.core with
  | .tile id w => { modl := q.srcMod, kind := if w then 1 else 0, num := BitVec.ofNat 16 id, core := 0, asid := q.asid }
  | .feeder f c => { modl := q.srcMod, kind := 5, num := BitVec.ofNat 16 f, core := BitVec.ofNat 2 c, asid := q.asid }

/-- Bytes a request touches. -/
def reqSize : ReqKind → Nat
  | .load n _ => n
  | .store n _ => n
  | .amo _ _ dw _ _ => if dw then 8 else 4
  | _ => 0

/-- What a BTAKE's result answers. -/
def takeAns : Take → Ans
  | .taken => .ack
  | .asleep => .asleep
  | .refused => .fault 0x05

/-- The page's attributes forbid the operation (R216, R230, R232). -/
def attrForbid (p : PageMap) (copy : Bool) : ReqKind → Bool
  | .store _ _ => if copy then !p.repl else !p.write
  | .amo _ _ _ _ _ => !p.atomic || p.repl
  | _ => false

/-! ### The weight store (R216, R218, R232) -/

/-- Bytes written at once at a home, over any line write still on its way; sectors written whole are healed. -/
def State.writeHome (s : State) (f : Nat) (bytes : List (Nat × Byte)) : State :=
  let cut (w : LineWrite) : LineWrite := { w with bytes := w.bytes.filter fun b => !(bytes.any (·.1 == b.1)) }
  let s := s.modFeeder f fun x => { x with lineWrites := x.lineWrites.map cut }
  ({ s with mem := writeCells s.mem bytes }).healSectors bytes

/-! ### Replicated pages (R230) -/

/-- Modules that hold further copies of the page an address names (R230, log 54, DESIGN CHOICE). -/
def State.copiesOf (s : State) (asid : BitVec 16) (a : Word) : List (BitVec 13) :=
  (Config.copies s.time asid (gPage a % 2 ^ 30)).eraseDups.filter (· != s.modNum)

/-- The store at one further copy leaves for its module. -/
def State.sendCopy (s : State) (u : CopyWrite) (m : BitVec 13) : State :=
  s.launchPacket (siteOf u.keeper) (reqPacket { u.req with srcMod := s.modNum, core := u.keeper, tag := u.num, gaddr := m ++ u.req.gaddr.extractLsb' 0 51,
                                                           copy := true } m 0 0)

/-- A store performed here is acknowledged; on a primary copy only once every other copy is written, module by module. -/
def State.storeDone (s : State) (keeper : CoreRef) (p : PageMap) (q : Req) : State :=
  if !p.repl || q.copy then s.answer (siteOf keeper) q .ack
  else match s.copiesOf q.asid q.gaddr with
    | [] => s.answer (siteOf keeper) q .ack
    | m :: r =>
      let u : CopyWrite := { num := s.lh.nextCopy, keeper := keeper, req := q, left := r }
      ({ s with lh := { s.lh with copies := s.lh.copies ++ [u], nextCopy := u.num + 1 } }).sendCopy u m

/-- A copy answers: the next one is written, or the store is acknowledged; a copy that cannot be written is REMOTE_NACK to the store's issuer
(R230, log 54, DESIGN CHOICE). -/
def State.copyHeard (s : State) (keeper : CoreRef) (num : BitVec 16) (ok : Bool) : State :=
  match s.lh.copies.find? fun u => u.num == num && u.keeper == keeper with
  | none => s
  | some u =>
    let s := { s with lh := { s.lh with copies := s.lh.copies.filter (· != u) } }
    if !ok then s.refuse (siteOf keeper) u.req .nack
    else match u.left with
      | [] => s.answer (siteOf keeper) u.req .ack
      | m :: r =>
        let u := { u with left := r }
        ({ s with lh := { s.lh with copies := s.lh.copies ++ [u] } }).sendCopy u m

/-- A request performed at its home feeder on a page whose berth is kept under `b`: the page's old place while it moves (R233). -/
def State.performWeight (s : State) (f : Nat) (p b : PageMap) (q : Req) : State :=
  let site := Site.feeder f
  let k := pageKey p (gOff q.gaddr)
  let h := reqHolder q
  let bad := (s.poisonedSector k (reqSize q.kind)).isSome
  match q.kind with
  | .load n uns => if bad then s.refuse site q (.fault 0x04) else s.answer site q (.data (extendBytes uns (readCells s.mem k n)))
  | .store n v =>
    if !q.copy && !s.mayStorePage h b then s.refuse site q (.fault 0x05)
    else ((s.undoNote (s.slotOfAsidHolder h) f k).writeHome f (keyed k (leBytes n v.toNat))).storeDone (.feeder f 0) p q
  | .amo op uns _ x y =>
    if bad then s.refuse site q (.fault 0x04)
    else
      let n := reqSize q.kind
      let old := readCells s.mem k n
      let s := match amoNew op uns n (BitVec.ofNat 64 (leNat old)) x y with
        | some v => (s.undoNote (s.slotOfAsidHolder h) f k).writeHome f (keyed k (leBytes n v.toNat))
        | none => s
      s.answer site q (.data (extendBytes uns old))
  | .berth w =>
    match s.offerPage b h q.gaddr w false with
    | (true, s) => s.answer site q .ack
    | (false, s) => s.refuse site q (.fault 0x05)
  | .bview w =>
    match s.offerPage b h q.gaddr w true with
    | (true, s) => s.answer site q .ack
    | (false, s) => s.refuse site q (.fault 0x05)
  | .btake told =>
    match s.takePage b h false told with
    | (.refused, s) => s.refuse site q (.fault 0x05)
    | (t, s) => s.answer site q (takeAns t)
  | .btakeView told =>
    match s.takePage b h true told with
    | (.refused, s) => s.refuse site q (.fault 0x05)
    | (t, s) => s.answer site q (takeAns t)
  | _ => s.refuse site q .nack

/-! ### Windows of tiles (R216, R218, R232) -/

/-- BTAKE of a window by a request: as at home, but one not in passage to the core is waited for, since its offer may be on its way (litmus test 4
of 09, log 15, DEDUCED). -/
def State.takeAsked (s : State) (id : Nat) (w : BitVec 4) (h : Holder) (view told : Bool) : Take × State :=
  let code := ((s.tile id).win w).holder.toNat
  match s.takeWindow id w h view with
  | (.refused, s) => (if told || s.holdsWindow id w h || (3 ≤ code && code ≤ 6) then .refused else .asleep, s)
  | x => x

/-- A request performed at the tile that holds the window. -/
def State.performTile (s : State) (id : Nat) (w : BitVec 4) (p : PageMap) (q : Req) : State :=
  let site := Site.tile id
  let d := (s.tile id).win w
  let r : CoreRef := .tile id true
  let a := d.base + gOff q.gaddr
  let n := reqSize q.kind
  let addrs := layout a n
  let h := reqHolder q
  let bad := (s.poisonedAt r addrs).isSome
  let put (s : State) (bs : List (Nat × Byte)) : State :=
    (s.modTile id fun t => { t with stores := t.stores ++ [{ due := 2, owner := none, bytes := bs, bad := [] }] }).markDirty r a
  if !d.valid || d.size < gOff q.gaddr + n then s.refuse site q (.fault 0x03)
  else match q.kind with
    | .load _ uns => if bad then s.refuse site q (.fault 0x04) else s.answer site q (.data (extendBytes uns (addrs.map (s.latest r))))
    | .store _ v =>
      if !q.copy && !s.holdsWindow id w h then s.refuse site q (.fault 0x05)
      else (put s (addrs.zip (leBytes n v.toNat))).storeDone r p q
    | .amo op uns _ x y =>
      if bad then s.refuse site q (.fault 0x04)
      else
        let old := addrs.map (s.latest r)
        let s := match amoNew op uns n (BitVec.ofNat 64 (leNat old)) x y with
          | some v => put s (addrs.zip (leBytes n v.toNat))
          | none => s
        s.answer site q (.data (extendBytes uns old))
    | .berth t =>
      if s.holdsWindow id w h && s.takerAllowed q.asid (some id) false t && !s.openWriter h id w then
        (s.offerWindow id w h t false).answer site q .ack
      else s.refuse site q (.fault 0x05)
    | .bview t =>
      if s.holdsWindow id w h && s.takerAllowed q.asid (some id) true t then (s.offerWindow id w h t true).answer site q .ack
      else s.refuse site q (.fault 0x05)
    | .btake told =>
      match s.takeAsked id w h false told with
      | (.refused, s) => s.refuse site q (.fault 0x05)
      | (t, s) => s.answer site q (takeAns t)
    | .btakeView told =>
      match s.takeAsked id w h true told with
      | (.refused, s) => s.refuse site q (.fault 0x05)
      | (t, s) => s.answer site q (takeAns t)
    | _ => s.refuse site q .nack

/-- A request that reaches a tile: one of a crew of another address space is NACKed (R177, R216). -/
def State.requestAtTile (s : State) (id : Nat) (q : Req) : State :=
  if (s.tile id).asid ≠ q.asid then s.refuse (.tile id) q .nack
  else match s.pageOf q.asid q.gaddr with
    | some p => s.performTile id (p.phys.extractLsb' 0 4) p q
    | none => s.refuse (.tile id) q (.fault 0x01)

/-! ### Page migration (R233) -/

def State.migrationOf (s : State) (asid : BitVec 16) (a : Word) : Option Migration :=
  s.lh.migrations.find? fun m => m.page == gPage a && (s.pageOf asid a).any fun p => p.phys == m.newPhys || pageHome p == m.oldF

def State.setMigration (s : State) (m : Migration) : State :=
  { s with lh := { s.lh with migrations := s.lh.migrations.map fun x => if x.page = m.page && x.newPhys = m.newPhys then m else x } }

/-- Handovers and takes are decided where the berth entry is. -/
def isBerthReq : ReqKind → Bool
  | .berth _ | .bview _ | .btake _ | .btakeView _ => true
  | _ => false

/-- A request at the home feeder: forwarded, queued, or performed. `from_` is the feeder it was forwarded by. -/
def State.requestAtHome (s : State) (f : Nat) (from_ : Option Nat) (q : Req) : State :=
  match s.pageOf q.asid q.gaddr with
  | none => s.refuse (.feeder f) q (.fault 0x01)
  | some p =>
    match s.migrationOf q.asid q.gaddr with
    | none =>
      if pageHome p = f then s.performWeight f p p q
      else s.launchPacket (.feeder f) (reqPacket q s.modNum 1 (pageHome p))
    | some m =>
      if f = m.oldF then
        if m.step = 1 && (isBerthReq q.kind || m.copied ≤ gOff q.gaddr / 128) then s.performWeight f p p q
        else s.launchPacket (.feeder f) (reqPacket q s.modNum 1 m.newF)
      else if f = m.newF then
        if from_ = some m.oldF then s.performWeight f { p with phys := m.newPhys } p q
        else s.setMigration { m with queued := m.queued ++ [q] }
      else s.launchPacket (.feeder f) (reqPacket q s.modNum 1 (pageHome p))

/-- One line of a page moves to its new home. -/
def State.copyLine (s : State) (p : PageMap) (m : Migration) : State :=
  let q := { p with phys := m.newPhys }
  let k := pageKey p (m.copied * 128)
  let k' := pageKey q (m.copied * 128)
  let bytes := (List.range 128).map fun i => (k' + i, s.latestWeight m.oldF (k + i))
  let marks := (s.poison.filter fun x => k ≤ x && x < k + 128).map fun x => k' + (x - k)
  { s with mem := writeCells s.mem bytes, poison := marks ++ s.poison.filter fun x => !(k' ≤ x && x < k' + 128) }

/-- A key of the old page as the key of the new one. -/
def movedKey (p : PageMap) (m : Migration) (k : Nat) : Nat :=
  let a := pageKey p 0
  if a ≤ k && k < a + 2 ^ 21 then pageKey { p with phys := m.newPhys } (k - a) else k

/-- With the last line go the berth entry, the undo log's keys and the table's entry; interfaces drop theirs. -/
def State.movePage (s : State) (p : PageMap) (m : Migration) : State :=
  let n := m.newPhys.toNat % stackPages
  let s := match (s.feeder m.oldF).berth? (pageInStack p) with
    | none => s
    | some b =>
      (s.modFeeder m.oldF fun x => { x with berths := x.berths.filter (·.page != pageInStack p) }).modFeeder m.newF fun x => x.setBerth { b with page := n }
  let move (_ : Nat) (x : Slot) : Slot := { x with undo := x.undo.map fun u => (movedKey p m u.1, u.2.1, u.2.2.map (movedKey p m)) }
  let lh := { s.lh with slots := mapVals move s.lh.slots
                        pages := s.lh.pages.map fun e => if e.asid = p.asid && e.page = p.page then { e with phys := m.newPhys } else e }
  ({ s with lh := lh }).dropEntries p.asid p.page

/-- A page of a feeder's stack that no entry maps, searched for from a free place on (log 5, DESIGN CHOICE). -/
def State.freePage (s : State) (f : Nat) : Option Nat × State :=
  let n := stackPages - 768
  let (k, s) := s.freeBelow n
  (((List.range n).map fun i => (k + i) % n).find? fun i => !(s.lh.pages.any fun p => gSpace (BitVec.ofNat 64 (p.page * 2 ^ 21)) == 1
      && p.phys.toNat == f * stackPages + i), s)

/-- PAGE_MIGRATION: the lockhouse moves an unpinned page: the first event opens the move, each copies a line, and the last line takes the
page's entry with it (R233). -/
def execPageMigration (asid : BitVec 16) (gaddr : Word) (home : Nat) (s : State) : Result :=
  onUnit (s.feederOk home) <|
    match s.pageOf asid gaddr with
    | none => s
    | some p =>
      match s.migrationOf asid gaddr with
      | some m =>
        if m.step ≠ 1 then s
        else
          let s := (s.copyLine p m).setMigration { m with copied := m.copied + 1 }
          if m.copied + 1 < 16384 then s.afterTime 1 (.pageMigration asid gaddr home)
          else ((s.setMigration { m with copied := 16384, step := 2 }).movePage p m).afterTime (2 ^ 20) (.migrationClose p.page)
      | none =>
        if gSpace gaddr ≠ 1 || p.pins ≠ 0 || pageHome p = home then s
        else match s.freePage home with
          | (none, s) => s
          | (some i, s) =>
            let m : Migration := { page := p.page, oldF := pageHome p, newF := home, newPhys := BitVec.ofNat 64 (home * stackPages + i), copied := 0,
                                   step := 1, queued := [], forwards := [] }
            ({ s with lh := { s.lh with migrations := s.lh.migrations ++ [m] } }).afterTime 1 (.pageMigration asid gaddr home)

/-- The close marker is at the new home: it performs what queued, in arrival order. -/
def State.closeMove (s : State) (page : Nat) : State :=
  match s.lh.migrations.find? fun m => m.page == page && m.step == 2 with
  | none => s
  | some m =>
    let s := { s with lh := { s.lh with migrations := s.lh.migrations.filter (· != m) } }
    m.queued.foldl (fun s q => s.requestAtHome m.newF none q) s

/-- A packet's request, or the marker, at a feeder. -/
def State.arriveAtHome (s : State) (f : Nat) (from_ : Option Nat) (q : Req) : State :=
  match q.kind with
  | .marker => s.closeMove (gPage q.gaddr)
  | _ => s.requestAtHome f from_ q

/-- MIGRATION_CLOSE: 2^20 TIME cycles after the interfaces dropped their entries the old home sends the close marker behind its forwards (R233). -/
def execMigrationClose (page : Nat) (s : State) : Result :=
  done <|
    match s.lh.migrations.find? fun m => m.page == page && m.step == 2 with
    | none => s
    | some m =>
      let q : Req := { srcMod := s.modNum, core := .feeder m.oldF 0, tag := 0, asid := 0, gaddr := BitVec.ofNat 64 (page * 2 ^ 21), kind := .marker }
      let p := reqPacket q s.modNum 1 m.newF
      if (s.goalTile p).isSome then s.launchPacket (.feeder m.oldF) p else s.closeMove page

/-! ### The receiving interface (R51 to R53, R216, R230) -/

/-- A translated request goes on: refused by its page, performed or forwarded. -/
def State.serve (s : State) (i : Iface) (q : Req) : State :=
  match s.pageOf q.asid q.gaddr with
  | none => s.refuse (ifaceSite i) q (.fault 0x01)
  | some p =>
    if attrForbid p q.copy q.kind then s.refuse (ifaceSite i) q (.fault 0x02)
    else if gSpace q.gaddr = 1 then
      match i with
      | .feeder f => if pageHome p = f then s.requestAtHome f none q else s.launchPacket (.feeder f) (reqPacket q s.modNum 1 (pageHome p))
      | .towline t => s.launchPacket (.towline t) (reqPacket q s.modNum 1 (s.entryFeeder (s.towlineTile t 1)))
    else s.launchPacket (ifaceSite i) (reqPacket q s.modNum 0 (p.phys.extractLsb' 16 16).toNat)

/-- A feeder may offer the ferry: a free stager's load or atomic of a page at home here (R250). -/
def State.mayFerry (s : State) (i : Iface) (q : Req) : Bool :=
  match i, q.core, q.kind, s.pageOf q.asid q.gaddr with
  | .feeder f, .tile id false, .load _ _, some p =>
    q.srcMod == s.modNum && gSpace q.gaddr == 1 && pageHome p == f && !(s.tile id).stager.timed && (s.tile id).stager.visit.isNone
  | .feeder f, .tile id false, .amo _ _ _ _ _, some p =>
    q.srcMod == s.modNum && gSpace q.gaddr == 1 && pageHome p == f && !(s.tile id).stager.timed && (s.tile id).stager.visit.isNone
  | _, _, _, _ => false

/-- Where an interface sends a translated request; none: it answers it itself. -/
def State.destOf (s : State) (i : Iface) (q : Req) : Option Site :=
  match s.pageOf q.asid q.gaddr with
  | none => none
  | some p =>
    if attrForbid p q.copy q.kind then none
    else if gSpace q.gaddr = 1 then
      match i with
      | .feeder _ => some (.feeder (pageHome p))
      | .towline t => some (.feeder (s.entryFeeder (s.towlineTile t 1)))
    else some (.tile (p.phys.extractLsb' 16 16).toNat)

/-- Requests that can go, and those that wait for their walk or behind an earlier one to the same destination (R51). -/
def State.inOrder (s : State) (i : Iface) : List (Req × Bool) → List Site → List Req × List (Req × Bool)
  | [], _ => ([], [])
  | w :: r, held =>
    match s.destOf i w.1 with
    | none => if w.2 then ((w.1 :: (s.inOrder i r held).1), (s.inOrder i r held).2) else ((s.inOrder i r held).1, w :: (s.inOrder i r held).2)
    | some d =>
      if w.2 && !held.contains d then ((w.1 :: (s.inOrder i r held).1), (s.inOrder i r held).2)
      else ((s.inOrder i r (d :: held)).1, w :: (s.inOrder i r (d :: held)).2)

/-- What an interface can send on leaves, in the order of arrival. -/
def State.letGo (s : State) (x : IfaceState) : State :=
  let (go, stay) := s.inOrder x.iface x.walks []
  go.foldl (fun s q => s.serve x.iface q) (s.setIface { x with walks := stay })

/-- A page that an interface is waiting for. -/
def IfaceState.walking (x : IfaceState) (q : Req) : Bool := x.walks.any fun w => !w.2 && w.1.asid == q.asid && gPage w.1.gaddr == gPage q.gaddr

/-- REMOTE_REQUEST_RECEIVE: a request at its interface: one whose page hits goes on, after earlier ones to the same destination; another waits for a
walk, and a stager may be offered the ferry meanwhile (R51 to R53, R250). -/
def execRemoteRequestReceive (i : Iface) (q : Req) (s : State) : Result :=
  onUnit (match i with | .feeder f => s.feederOk f | .towline t => towlineOk t) <|
    let x := s.iface i
    if !x.walking q && x.hits q.asid (gPage q.gaddr) then
      let x := x.use q.asid (gPage q.gaddr)
      s.letGo { x with walks := x.walks ++ [(q, true)] }
    else
      let s := s.setIface { x with walks := x.walks ++ [(q, false)] }
      let s := if x.walking q then s else s.afterFree (.pageWalkDone i q.asid q.gaddr)
      match i with
      | .feeder f =>
        if !x.walking q && s.mayFerry i q then
          let (d, s) := s.freeBelow (2 ^ 20)
          s.afterTime (d + 1) (.ferryOffer q.core q.tag f)
        else s
      | .towline _ => s

/-- PAGE_WALK_DONE: a walker answers: the page's entry is filled if it is present, and what waited goes on in order. A lockhouse that has halted leaves
walks unanswered until it has restarted (R51, R93, R94). -/
def execPageWalkDone (i : Iface) (asid : BitVec 16) (gaddr : Word) (s : State) : Result :=
  onUnit (match i with | .feeder f => s.feederOk f | .towline t => towlineOk t) <|
    if s.halted then s
    else
      let x := s.iface i
      let x := if (s.pageOf asid gaddr).isSome then x.use asid (gPage gaddr) else x
      s.letGo { x with walks := x.walks.map fun w => if w.1.asid == asid && gPage w.1.gaddr == gPage gaddr then (w.1, true) else w }

/-! ### Tickets (R234, R409) -/

def Reach.dispenser (r : Reach) (n : Nat) : BitVec 32 × BitVec 32 := ((r.tickets.find? fun x => x.1 == n).map (·.2)).getD (0, 0)
def Reach.setDispenser (r : Reach) (n : Nat) (next serving : BitVec 32) : Reach :=
  { r with tickets := r.tickets.filter (fun x => x.1 != n) ++ [(n, next, serving)] }

/-- The crew in place whose origin lies in a reach. -/
def State.slotAtReach (s : State) (rx ry : Nat) : Option Nat :=
  (s.lh.slots.find? fun x => x.2.holdsPlace && s.reachOf (s.anchorTile x.2) == (rx, ry)).map (·.1)

/-- A broadcast of SERVING on its way to a core: it wakes one asleep on that ticket, and one in WAITI that holds it. -/
def State.tellServing (s : State) (r : CoreRef) (n : Nat) (k : BitVec 32) : State :=
  let c := s.core r
  let s := if c.waits.any fun w => match w.1 with | .tserve m j => m.toNat == n && j == k | _ => false then
      let (d, s) := s.freeBelow (2 ^ 20)
      s.afterTime (d + 1) (.tserveWake ⟨r, BitVec.ofNat 6 n, k⟩)
    else s
  let held := c.tickets.any fun t => t.1.toNat == n && t.2 == k
  let s := s.modCore r fun c => { c with tickets := c.tickets.filter fun t => !(t.1.toNat == n && t.2 + 1 == k) }
  if held then s.wakeWaiti r false else s

/-- TICKET_REQUEST: TKT, TSERVE or TADV at its dispenser, in arrival order (R234). -/
def execTicketRequest (rx ry : Nat) (q : Req) (s : State) : Result :=
  onUnit (rx < 8 && ry < 6) <|
    let reach := s.reach rx ry
    match s.slotAtReach rx ry with
    | none => s
    | some slot =>
      let site := Site.tile (s.anchorTile (s.slot slot))
      match q.kind with
      | .tkt n =>
        let (next, serving) := reach.dispenser n
        (s.setReach rx ry (reach.setDispenser n (next + 1) serving)).answer site q (.data (next.zeroExtend 64))
      | .tserve n k =>
        let (_, serving) := reach.dispenser n
        s.answer site q (if serving = k then .ack else .asleep)
      | .tadv n =>
        let (next, serving) := reach.dispenser n
        let s := (s.setReach rx ry (reach.setDispenser n next (serving + 1))).answer site q .ack
        (s.slot slot).cores.foldl (fun s r => s.tellServing r n (serving + 1)) s
      | _ => s

/-- TSERVE_WAKE: ticket k of dispenser n is served (R234). -/
def execTserveWake (w : TicketWait) (s : State) : Result :=
  onUnit (s.coreOk w.core) <| s.endWait w.core (· == .tserve w.n w.k)

/-! ### The words (R409, R410, R412) -/

/-- A ticket word: stands while 32 requests are outstanding. (log 44, DEDUCED) -/
def State.ticketWord (s : State) (i : Instr) (k : ReqKind) (dst : Option Reg) (f : State → State) : State :=
  if 32 ≤ s.me.reqs.length then s.standOp 1 i else f (s.sendRequest s.actor 0 k dst)

/-- TKT (R409). -/
def execTkt (d : Reg) (n : BitVec 6) (s : State) : Result :=
  guarded (.tkt d n) s fun s => s.ticketWord (.tkt d n) (.tkt n.toNat) (some d) id
/-- TSERVE (R409). -/
def execTserve (a : Reg) (n : BitVec 6) (s : State) : Result :=
  guarded (.tserve a n) s fun s =>
    let k := (s.g a).extractLsb' 0 32
    s.ticketWord (.tserve a n) (.tserve n.toNat k) none fun s => s.await (.tserve n k)
/-- TADV (R409). -/
def execTadv (n : BitVec 6) (s : State) : Result :=
  guarded (.tadv n) s fun s => s.ticketWord (.tadv n) (.tadv n.toNat) none id

/-- The checks of R410 in order, then the request. -/
def State.remoteWord (s : State) (i : Instr) (a : Word) (n : Nat) (k : ReqKind) (dst : Option Reg) : State :=
  if badGlobal a then s.raise Cause.remoteFault a
  else if a.toNat % n ≠ 0 then s.raise Cause.align a
  else if 32 ≤ s.me.reqs.length then s.standOp 1 i
  else s.sendRequest s.actor a k dst

/-- RLD (R410). -/
def execRld (sz : BitVec 2) (uns : Bool) (d a : Reg) (imm : BitVec 16) (s : State) : Result :=
  guarded (.rld sz uns d a imm) s fun s =>
    s.remoteWord (.rld sz uns d a imm) (s.g a + imm.signExtend 64) (sizeBytes sz) (.load (sizeBytes sz) uns) (some d)
/-- RST (R410). -/
def execRst (sz : BitVec 2) (a b : Reg) (imm : BitVec 16) (s : State) : Result :=
  guarded (.rst sz a b imm) s fun s =>
    s.remoteWord (.rst sz a b imm) (s.g a + imm.signExtend 64) (sizeBytes sz) (.store (sizeBytes sz) (s.g b)) none
/-- RAMO (R410). -/
def execRamo (op : AmoOp) (uns dword : Bool) (d a b c : Reg) (imm : BitVec 16) (s : State) : Result :=
  guarded (.ramo op uns dword d a b c imm) s fun s =>
    s.remoteWord (.ramo op uns dword d a b c imm) (s.g a + imm.signExtend 64) (if dword then 8 else 4)
      (.amo op uns dword (s.g b) (s.g c)) (some d)
/-- RFENCE: nothing issues until every earlier request is answered (R412). -/
def execRfence (s : State) : Result :=
  guarded .rfence s fun s => if s.me.owed s.seq then s.await (.rfence s.seq) else s

/-! ### Answers at the core (R228, R395, R411) -/

/-- A waiting release leaves once the core's stores and atomics are acknowledged (R227). -/
def State.releaseDue (s : State) (r : CoreRef) : State :=
  let c := s.core r
  match c.waits.findSome? fun (w : Wait × Bool) => match w.1 with | .release x => some x | _ => none with
  | none => s
  | some x => if s.releaseHeld r x || !c.traps.isEmpty then s else (s.endWait r (· == .release x)).release r x

/-- A core waits in an instruction at which an answer traps (R228, R311, R412). -/
def Core.waitsForAnswer (c : Core) : Bool :=
  c.waits.any fun w => match w.1 with
    | .release _ | .rfence _ | .btake _ _ _ | .tserve _ _ | .halt => true
    | _ => false

/-- The crew's cores no longer issue: an answer that traps is kept as a pending trap (R244). -/
def State.crewStopped (s : State) (r : CoreRef) : Bool :=
  match s.slotOf r with
  | some n => (s.slot n).run.stopped
  | none => true

/-- A BTAKE asked again after its offer arrived. -/
def askedAgain : ReqKind → ReqKind
  | .btake _ => .btake true
  | .btakeView _ => .btakeView true
  | k => k

/-- The wait a BTAKE answered with the berth ends in. -/
def isBtake : Wait → Bool
  | .btake _ _ _ => true
  | _ => false

/-- What an answer does to the core that asked, its request closed: a result is written two cycles later, a refusal traps (R228, R395, R411). -/
def State.takeAnswer (s : State) (core : CoreRef) (tag : BitVec 16) (a : Ans) (o : Outstanding) : State :=
  let clear (s : State) : State := s.modCore core fun c => { c with pending := c.pending.filter fun x => x.2 != tag }
  match a with
  | .data v =>
    let s := match o.dst with
      | some d => s.modCore core fun c => { c with writes := insertWr ⟨3, o.seq, .remote d v tag⟩ c.writes }
      | none => s
    match o.kind with
    | .tkt n => s.modCore core fun c => { c with tickets := c.tickets ++ [(BitVec.ofNat 6 n, v.extractLsb' 0 32)] }
    | _ => s
  | .ack =>
    match o.kind with
    | .btake _ => s.endWait core isBtake
    | .btakeView _ => s.endWait core isBtake
    | .tserve n k => s.endWait core (· == Wait.tserve (BitVec.ofNat 6 n) k)
    | _ => s
  | .asleep => if o.again then s.sendRequest core o.gaddr (askedAgain o.kind) none else s
  | .copied _ => s
  | .nack | .fault _ =>
    let s := clear s
    let cause := ansCause a
    if (s.core core).waitsForAnswer && !s.crewStopped core then s.raiseWaiting core cause o.gaddr
    else s.modCore core fun c => { c with traps := c.traps ++ [(cause, o.gaddr, false)] }

/-- What waited for an answer of a core goes on: releases, fences, HALT and the ferry home (R219, R227, R251, R311, R412). -/
def State.afterAnswer (s : State) (core : CoreRef) : State :=
  let s := s.releaseDue core
  let c := s.core core
  let s := if c.traps.isEmpty && c.waits.any (fun w => c.fenced w.1) then s.soon (.rfenceRelease core) else s
  let s := if !c.owedAny && c.traps.isEmpty && c.waits.any (·.1 == .halt) then s.haltCore core else s
  let s := if !c.writesOut && c.visit.any (·.leaving) then s.soon (.ferryReturn core) else s
  s.wakeWaiti core false

/-- REMOTE_ANSWER: the request closes; a result is written two cycles later, a refusal traps, and what waited for the answer goes on. An
answer to no outstanding request is discarded (R53, R228, R229, R395, R411). That of a further copy goes to the primary copy's interface
(R230). -/
def execRemoteAnswer (core : CoreRef) (tag : BitVec 16) (a : Ans) (s : State) : Result :=
  onUnit (s.coreOk core) <|
    match a, (s.core core).reqs.find? fun o => o.tag == tag with
    | .copied ok, _ => s.copyHeard core tag ok
    | _, none => s
    | _, some o =>
      ((s.modCore core fun c => { c with reqs := c.reqs.filter fun x => x.tag != tag }).takeAnswer core tag a o).afterAnswer core

/-- REMOTE_TIMEOUT: a request unanswered after 2^20 TIME cycles is answered REMOTE_NACK at the issuing module (R53). -/
def execRemoteTimeout (core : CoreRef) (tag : BitVec 16) (s : State) : Result :=
  onUnit (s.coreOk core) <|
    if (s.core core).reqs.any fun o => o.tag == tag && 2 ^ 20 ≤ (s.time - o.sent).toNat then s.soon (.remoteAnswer core tag .nack) else s

/-- RFENCE_RELEASE: every earlier request is answered (R412). -/
def execRfenceRelease (core : CoreRef) (s : State) : Result :=
  onUnit (s.coreOk core) <| s.endWait core (s.core core).fenced

/-! ### The context ferry (R250, R251) -/

/-- The lowest-numbered idle core of a feeder (R250). -/
def State.ferryCore (s : State) (f : Nat) : Option Nat :=
  (List.range 4).find? fun c => let x := s.core (.feeder f c); x.run == .idle && x.guest.isNone

/-- A visiting thread takes an idle core of the feeder, if there is one. (log 44, DEDUCED) -/
def State.boardFerry (s : State) (r : CoreRef) : State :=
  match (s.core r).visit with
  | some v =>
    if v.fcore.isSome then s
    else match s.ferryCore v.feeder with
      | none => s
      | some k => (s.modCore r fun c => { c with visit := some { v with fcore := some k } }).modCore (.feeder v.feeder k) fun c => { c with guest := some r }
  | none => s

/-- A berth the core handed over is in passage. -/
def State.inPassage (s : State) (h : Holder) : Bool :=
  (s.tiles.any fun t => t.2.berths.toList.any fun b => b.passage.any fun p => p.giver == some h)
    || (s.feeders.any fun f => f.2.berths.any fun b => b.passage.any fun p => p.giver == some h)

/-- FERRY_OFFER: the stager accepts with no port open, no berth in passage and no other request outstanding; its thread then runs at the
feeder, from the bundle it would issue next (R250). -/
def execFerryOffer (core : CoreRef) (tag : BitVec 16) (f : Nat) (s : State) : Result :=
  onUnit (s.coreOk core && s.feederOk f) <|
    let c := s.core core
    let stager : Bool := match core with | .tile _ w => !w | .feeder _ _ => false
    if stager && !c.timed && c.run = .running && c.visit.isNone && c.reqs.length = 1 && c.reqs.any (·.tag == tag)
        && !(c.p.toList.any (·.opened)) && !s.inPassage (s.asHolder core) then
      let s := s.modCore core fun c => { c with visit := some { feeder := f, fcore := none, since := s.time } }
      (s.boardFerry core).afterTime (2 ^ 20) (.ferryReturn core)
    else s

/-- The crew of a core is to be drawn off. -/
def State.drawAnnounced (s : State) (r : CoreRef) : Bool :=
  match s.slotOf r with
  | some n => (s.slot n).run.draw.isSome
  | none => false

/-- The visit ends as soon as its stores are acknowledged; `trap`: because of one, taken at home. (log 44, DEDUCED) -/
def State.leaveFerry (s : State) (r : CoreRef) (trap : Bool) : State :=
  let s := s.modCore r fun c => { c with visit := c.visit.map fun v => { v with leaving := true }, ferryTrap := c.ferryTrap || trap }
  if (s.core r).writesOut then s else s.soon (.ferryReturn r)

/-- FERRY_RETURN: the thread returns home: its visit is over, its 2^20 TIME cycles have passed, or a draw-off is announced; every store it
issued is acknowledged first (R251). -/
def execFerryReturn (core : CoreRef) (s : State) : Result :=
  onUnit (s.coreOk core) <|
    match (s.core core).visit with
    | none => s
    | some v =>
      if !(v.leaving || 2 ^ 20 ≤ (s.time - v.since).toNat || s.drawAnnounced core) then s
      else if (s.core core).writesOut then s.modCore core fun c => { c with visit := some { v with leaving := true } }
      else
        let s := s.modCore core fun c => { c with visit := none }
        match v.fcore with
        | some k => s.modCore (.feeder v.feeder k) fun c => { c with guest := none }
        | none => s

end Sys2Proof.Machine
end

