-- ==== Sys2Proof/Machine/Towpath.lean ====
section
/-! DEFINITION. The static class of the towpath: control words, digit streams, reductions, hops, ejection, TSEND and TRED (spec 07 R153 to R170;
16 R396 to R398; 17 R421). -/

namespace Sys2Proof.Machine

/-! ### Control words (R157, R158) -/

def rowRed (w : BitVec 40) : BitVec 3 := w.extractLsb' 37 3
def rowMask (w : BitVec 40) : BitVec 5 := w.extractLsb' 32 5
/-- Source field of output k: 0 N, 1 E, 2 S, 3 W, 4 L. -/
def rowSrc (w : BitVec 40) (k : Nat) : Nat := (w.extractLsb' (29 - 3 * k) 3).toNat
def rowEjd (w : BitVec 40) : BitVec 4 := w.extractLsb' 13 4
/-- T, in cycles. -/
def rowT (w : BitVec 40) : Nat := (w.extractLsb' 9 4).toNat + 1
def rowRfx (w : BitVec 40) : BitVec 3 := w.extractLsb' 6 3

/-! ### Digit streams (R165 to R168) -/

/-- The digits of a lane over a token's flits, earliest first. -/
def laneDigits (fs : List FlitBits) (lane : Nat) : List (BitVec 2) :=
  fs.flatMap fun f => [6, 4, 2, 0].map fun k => f.extractLsb' (8 * lane + k) 2

/-- A lane's integer and trailer: SAT, INV. -/
structure LaneVal where
  n   : Int
  sat : Bool
  inv : Bool
  deriving DecidableEq, Repr

/-- The value of a digit code; the unused one is 0. -/
def digitVal (d : BitVec 2) : Int := if d = 1 then 1 else if d = 3 then -1 else 0

/-- A lane decoded (R165). -/
def decodeLane (ds : List (BitVec 2)) : LaneVal :=
  let pay := ds.dropLast
  let tr := ds.getLastD 0
  { n := pay.foldl (fun (x : Int) d => 2 * x + digitVal d) 0, sat := tr.getLsbD 0, inv := tr.getLsbD 1 || pay.contains 2 }

/-- A lane coded in canonical form over T cycles (R167, R168). -/
def encodeLane (t : Nat) (v : LaneVal) : List (BitVec 2) :=
  let p := 4 * t - 1
  let one : BitVec 2 := if v.n < 0 then 3 else 1
  ((List.range p).map fun j => if (v.n.natAbs / 2 ^ (p - 1 - j)) % 2 = 1 then one else 0)
    ++ [(if v.sat then (1 : BitVec 2) else 0) ||| (if v.inv then 2 else 0)]

/-- The byte of four digits, earliest in bits 7:6. -/
def digitByte (ds : List (BitVec 2)) : Nat :=
  64 * (ds.getD 0 0).toNat + 16 * (ds.getD 1 0).toNat + 4 * (ds.getD 2 0).toNat + (ds.getD 3 0).toNat

/-- A token's flits from the digits of its 64 lanes. -/
def packFlits (t : Nat) (lanes : List (List (BitVec 2))) : List FlitBits :=
  (List.range t).map fun k =>
    BitVec.ofNat 512 (leNat (lanes.map fun ds => BitVec.ofNat 8 (digitByte (ds.drop (4 * k)))))

/-- A token's lanes. -/
def tokenLanes (fs : List FlitBits) : List LaneVal := (List.range 64).map fun i => decodeLane (laneDigits fs i)
def packLanes (t : Nat) (ls : List LaneVal) : List FlitBits := packFlits t (ls.map (encodeLane t))

/-- Flits with, at each, what is still to come of the token (log 11, DEDUCED). -/
def lookAhead : List FlitBits → List Flit
  | [] => []
  | b :: r => { bits := b, look := r } :: lookAhead r

def zeroFlit : Flit := { bits := 0, look := [] }

/-- A contribution converted by a format register and a row (R167, R271, R398). -/
def contribution (isInt : Bool) (elems : List (BitVec 32)) (rfmt : Word) (t : Nat) : List Flit :=
  let lsb := (rfmt.extractLsb' 0 9).toInt
  let h := (rfmt.extractLsb' 10 6).toNat
  let conv (x : BitVec 32) : LaneVal :=
    let y := if isInt then Num.ofInt x.toInt else f32 x
    let r := fixOf y lsb (4 * t - 1) h
    { n := r.1, sat := r.2 == .sat, inv := r.2 == .inv }
  lookAhead (packLanes t ((List.range 64).map fun i => conv (elems.getD i 0)))

/-! ### Reductions (R159, R160, R168 to R170) -/

/-- add, max, min of lanes; flags are ORed. -/
def combineLane (op : BitVec 3) (a b : LaneVal) : LaneVal :=
  { n := match op.toNat with
      | 1 => a.n + b.n
      | 2 => max a.n b.n
      | _ => min a.n b.n
    sat := a.sat || b.sat, inv := a.inv || b.inv }

def combineLanes (op : BitVec 3) : List (List LaneVal) → List LaneVal
  | [] => []
  | [a] => a
  | a :: r => a.zipWith (combineLane op) (combineLanes op r)

/-- A token of T flits: those that came, the flit at hand, and what it says is to come. -/
def flitToken (t : Nat) (got : List FlitBits) (f : Flit) : List FlitBits := (List.range t).map fun k => (got ++ f.bits :: f.look).getD k 0

/-- The flit of add, max or min that follows the inputs' flits at hand: of the tokens as far as they are known by now (log 11, DEDUCED). -/
def reduceTokens (op : BitVec 3) (t : Nat) (got : List (List FlitBits)) (ins : List Flit) : Flit :=
  (lookAhead (packLanes t (combineLanes op ((got.zip ins).map fun x => tokenLanes (flitToken t x.1 x.2))))).getD (got.headD []).length zeroFlit

/-- vote3 of three flits: per digit the code two of them carry, else that of the first (R170). -/
def voteBits (a b c : FlitBits) : FlitBits :=
  BitVec.ofNat 512 ((List.range 256).foldl (fun (n : Nat) j =>
    let x := a.extractLsb' (2 * j) 2
    let y := b.extractLsb' (2 * j) 2
    let z := c.extractLsb' (2 * j) 2
    n + (if x = y || x = z then x else if y = z then y else x).toNat * 4 ^ j) 0)

/-- Codes 4 to 6 on one cycle's flits, inputs in port order. -/
def combineBits (op : BitVec 3) : List FlitBits → FlitBits
  | [] => 0
  | [a] => a
  | a :: b :: r =>
    match op.toNat with
    | 4 => voteBits a b (r.headD 0)
    | 5 => (b :: r).foldl (fun (x y : FlitBits) => x &&& y) a
    | _ => (b :: r).foldl (fun (x y : FlitBits) => x ||| y) a

def combineFlits (op : BitVec 3) (fs : List Flit) : Flit :=
  let n := (fs.map fun f => f.look.length).foldl max 0
  { bits := combineBits op (fs.map (·.bits)), look := (List.range n).map fun k => combineBits op (fs.map fun f => f.look.getD k 0) }

/-- VOTELOG after a count in which an input disagreed with what is forwarded (R170). -/
def voteLogged (log : Word) (bank : BitVec 2) (row : Nat) (port : BitVec 3) (vcyc : BitVec 48) : Word :=
  let n : BitVec 16 := log.extractLsb' 48 16
  (if n = 0xFFFF then n else n + 1) ++ bank ++ BitVec.ofNat 10 row ++ port ++ (0 : BitVec 1) ++ vcyc.extractLsb' 0 32

/-- The result flit of a cycle of a reduction. -/
def reduceFlit (op : BitVec 3) (t : Nat) (got : List (List FlitBits)) (ins : List Flit) : Flit :=
  if op.toNat ≤ 3 then reduceTokens op t got ins else combineFlits op ins

/-- The inputs of a mask, by port number. -/
def maskPorts (m : BitVec 5) : List Nat := (List.range 5).filter (m.getLsbD ·)

/-- A vote3 count: VOTELOG and the record of its first disagreement. -/
def State.noteVote (s : State) (id : Nat) (ports : List Nat) (fs : List FlitBits) (out : FlitBits) : State :=
  let bad := ((ports.zip fs).filter fun x => x.2 != out).map (·.1)
  match bad, (s.tile id).slot with
  | [], _ => s
  | _, none => s
  | p :: r, some n =>
    let run := (s.slot n).run
    let port : BitVec 3 := if r.isEmpty then BitVec.ofNat 3 p else 7
    let t := s.tile id
    let rows := t.phase[run.bank.toNat]'(by omega)
    let s := if t.votelog.extractLsb' 48 16 = 0 then s.mcheck 0 t.asid t.crew 0 id 0x02 (Config.noCause 0x02) else s
    s.modTile id fun t => { t with votelog := voteLogged t.votelog run.bank (run.row % rows.length) port run.vcyc }

/-! ### Ejection (R162 to R164) -/

/-- Fields of an ejection descriptor. -/
def ejEn (d : Word) : Bool := d.getLsbD 63
def ejOutf (d : Word) : BitVec 2 := d.extractLsb' 61 2
def ejWin (d : Word) : BitVec 4 := d.extractLsb' 57 4
def ejBase (d : Word) : Nat := (d.extractLsb' 44 13).toNat
def ejStride (d : Word) : Int := (d.extractLsb' 31 13).toInt
def ejCount (d : Word) : Nat := (d.extractLsb' 18 13).toNat
def ejNext (d : Word) : Nat := (d.extractLsb' 5 13).toNat
def ejClearNext (d : Word) : Word := d &&& ~~~((0x1FFF : Word) <<< 5)
def ejSetNext (d : Word) (n : Nat) : Word := ejClearNext d ||| ((BitVec.ofNat 13 n).zeroExtend 64 <<< 5)

def Tile.desc (t : Tile) (j : BitVec 4) : Word := t.ejdesc[j.toNat]'(by omega)

/-- The bytes a token writes: a raw flit, or its lanes converted with the LSB of its format; the trailers of an and or an or are no flags (R163,
R169, R272). -/
def ejectBytes (outf : BitVec 2) (lsb : Int) (raw : Bool) (fs : List FlitBits) : List Byte :=
  let lanes := if raw then (List.range 64).map fun i => decodeLane ((laneDigits fs i).dropLast ++ [0]) else tokenLanes fs
  if outf = 0 then leBytes 64 (fs.headD 0).toNat
  else lanes.flatMap fun v => leBytes (if outf = 3 then 8 else 4) (ejectLane outf lsb v.inv v.n).toNat

/-- TOKEN_EJECT: a raw flit, or a token with its last cycle, is written through a descriptor as it stood when the token began (R162 to
R164). -/
def execTokenEject (tile : Nat) (ejd : BitVec 4) (rfx : BitVec 3) (flits : List FlitBits) (s : State) : Result :=
  onUnit (s.tileOk tile) <|
    let t := s.tile tile
    let mine (e : Ejecting) : Bool := e.ejd == ejd && e.left == 0 && e.flits == flits
    let tok := t.ejecting.find? mine
    let now := t.desc ejd
    let old : Bool := tok.any (·.old)
    let raw : Bool := tok.any (·.raw)
    let d := if old then (tok.map (·.desc)).getD now else now
    let s := s.modTile tile fun t => { t with ejecting := match t.ejecting.findIdx? mine with
      | some i => t.ejecting.eraseIdx i
      | none => t.ejecting }
    let w := ejWin d
    let win := t.win w
    let bytes := ejectBytes (ejOutf d) (((t.rfmt[rfx.toNat]'(by omega)).extractLsb' 0 9).toInt) raw flits
    let off : Int := (ejBase d + ejNext d * ejStride d) * 64
    if !ejEn d || !win.valid || off < 0 || (win.size : Int) < off + bytes.length then
      s.unitFault t.slot 0 tile tile Cause.window (addrWord (win.base + off))
    else if win.holder ≠ 5 then s.unitFault t.slot 0 tile tile Cause.berth (BitVec.ofNat 64 win.base)
    else
      let ls := if ejOutf d = 0 || raw then [] else tokenLanes flits
      let fl : BitVec 32 := (if ls.any (·.sat) then (1 : BitVec 32) <<< ejd.toNat else 0) ||| (if ls.any (·.inv) then (1 : BitVec 32) <<< (16 + ejd.toNat) else 0)
      s.modTile tile fun t =>
        { t with stores := t.stores ++ [{ due := 2, owner := none, bytes := keyed (win.base + off.toNat) bytes, bad := [] }]
                 dirtymask := t.dirtymask ||| (1 <<< w.toNat)
                 ejflags := t.ejflags ||| fl
                 ejdesc := if old then t.ejdesc else t.ejdesc.set ejd.toNat (ejSetNext now ((ejNext now + 1) % ejCount now)) (by omega) }

/-- A flit reaches the ejection interface through a descriptor, of a reduction's result or of an input: it joins the token under way there, or
begins one (R160, R163). (log 42, DEDUCED) -/
def State.ejectFlit (s : State) (id : Nat) (red : Option (BitVec 3)) (ejd : BitVec 4) (rfx : BitVec 3) (t : Nat) (f : FlitBits) : State :=
  let x := s.tile id
  let open_ (e : Ejecting) : Bool := e.ejd == ejd && e.left != 0 && e.fromRed == red.isSome
  let e : Ejecting := match x.ejecting.find? open_ with
    | some e => { e with flits := e.flits ++ [f], left := e.left - 1 }
    | none =>
      let d := x.desc ejd
      { ejd := ejd, rfx := rfx, desc := d, flits := [f], left := if ejOutf d = 0 then 0 else t - 1, fromRed := red.isSome,
        raw := red == some 5 || red == some 6, old := false }
  let s := s.modTile id fun t => { t with ejecting := t.ejecting.filter (fun y => !open_ y) ++ [e] }
  if e.left = 0 then s.soon (.tokenEject id e.ejd e.rfx e.flits) else s

/-- Tokens under way through SRCL 1 to 4 for which this count brings nothing take zero digits (R163). -/
def State.ejectNothing (s : State) (id : Nat) (except_ : Option (BitVec 4)) : State :=
  ((s.tile id).ejecting.filter fun e => e.left != 0 && !e.fromRed && some e.ejd != except_).foldl
    (fun s e => s.ejectFlit id none e.ejd e.rfx 1 0) s

/-! ### Links and edges (R154, R155, R161) -/

/-- The neighbour of a logical tile: 0 N, 1 E, 2 S, 3 W. -/
def State.neighbour (s : State) (id k : Nat) : Option Nat :=
  let x := s.xOf id
  let y := s.yOf id
  match k with
  | 0 => if y = 0 then none else some (s.idOf x (y - 1))
  | 1 => if s.cols ≤ x + 1 then none else some (s.idOf (x + 1) y)
  | 2 => if 192 ≤ y + 1 then none else some (s.idOf x (y + 1))
  | _ => if x = 0 then none else some (s.idOf (x - 1) y)

/-- Counts from an output to the next router's input (R161). -/
def State.hopCounts (s : State) (a b : Nat) : Nat := if s.reachOf a = s.reachOf b then 1 else 3

/-- A tile of a fenced pound (R249). -/
def State.fenced (s : State) (id : Nat) : Bool :=
  s.lh.pounds.any fun p => p.state != .defined && p.x0 ≤ s.xOf id && s.xOf id ≤ p.x1 && p.y0 ≤ s.yOf id && s.yOf id ≤ p.y1

/-- The towline and attachment port at an edge output (R154). -/
def State.towlineAt (s : State) (id k : Nat) : Option (Nat × Nat) :=
  let y := s.yOf id
  if y = 0 || 4 ≤ (y - 1) % 6 || 32 ≤ (y - 1) / 6 then none
  else if k = 3 && s.xOf id = 0 then some ((y - 1) / 6, (y - 1) % 6)
  else if k = 1 && s.xOf id + 1 = s.cols then some (32 + (y - 1) / 6, (y - 1) % 6)
  else none

/-- A static flit leaves by an output: to the next router of the crew, or out of a towline's edge port; a hole and a fenced pound take it up, and
so does a feeder, which the flit reaches and where the spec gives it no effect (R154, log 36, DESIGN CHOICE). -/
def State.sendStatic (s : State) (id n k : Nat) (f : Option Flit) : State :=
  match s.neighbour id k with
  | some j =>
    match f with
    | none => s
    | some f =>
      if (s.tile j).slot ≠ some n || s.holeAt id k j || s.fenced j then s
      else s.modTile j fun t => { t with links := t.links ++ [{ inp := BitVec.ofNat 3 ((k + 2) % 4), due := s.hopCounts id j, flit := f }] }
  | none =>
    match s.towlineAt id k with
    | some (tl, port) =>
      if (s.towline tl).owner = some n then
        s.modTowline tl fun x => { x with staticOut := x.staticOut ++ [{ count := (s.slot n).run.vcyc, port := BitVec.ofNat 2 port, flit := f.getD zeroFlit }] }
      else s
    | none => s

/-! ### The local interface (R397) -/

/-- A presentation's order among those of one count: a token under way, the worker, the stager; feeder cores by number. -/
def Present.rank (p : Present) : Nat := match p.kind with | .rest _ => 0 | _ => 1 + p.core.order

/-- The one taken first. -/
def firstPresent : List Present → Option Present
  | [] => none
  | p :: r => match firstPresent r with
    | some q => some (if q.rank < p.rank then q else p)
    | none => some p

/-- What a presentation puts on the input now, and the flits of its token still to come. -/
def Present.flits (p : Present) (rfmt : Vector Word 8) (row : BitVec 40) : Flit × List Present :=
  match p.kind with
  | .flit f => (f, [])
  | .rest f => (f, [])
  | .token isInt es =>
    let fs := contribution isInt es (rfmt[(rowRfx row).toNat]'(by omega)) (rowT row)
    (fs.headD zeroFlit, ((List.range (fs.length - 1)).zip (fs.drop 1)).map fun x => { p with due := x.1 + 1, kind := .rest x.2 })

/-- Presentations of one count: the flit that reaches the input, those that wait, and the cores whose flits are discarded. -/
def presentNow (ps : List Present) (rfmt : Vector Word 8) (row : BitVec 40) : Option (Flit × CoreRef) × List Present × List CoreRef :=
  let due := ps.filter (·.due == 0)
  let wait := ps.filter (·.due != 0)
  match firstPresent due with
  | none => (none, wait, [])
  | some p =>
    let others := due.erase p
    let (f, more) := p.flits rfmt row
    (some (f, p.core), wait ++ more ++ others.flatMap (fun q => (q.flits rfmt row).2), others.map (·.core))

/-- The row or a token under way takes the L input (R397). -/
def takesLocal (row : BitVec 40) (red : Option Reduction) : Bool :=
  (List.range 5).any (fun k => rowSrc row k == 5) || (rowRed row != 0 && (rowMask row).getLsbD 4)
    || red.any fun r => r.mask.getLsbD 4 && 2 ≤ r.left

/-! ### One count of a router (R156, R158, R160, R161) -/

/-- What reaches a tile's edge input from its feeder's cores (R154, R398). (log 36, DESIGN CHOICE) -/
def State.feederFlits (s : State) (id : Nat) (row : BitVec 40) : State :=
  ((List.range 64).filter fun f => s.feederTile f == id && !(s.feeder f).presents.isEmpty).foldl (fun (s : State) f =>
    let (got, wait, lost) := presentNow (s.feeder f).presents (s.tile id).rfmt row
    let s := s.modFeeder f fun x => { x with presents := wait }
    let s := match got with
      | some (fl, _) => s.modTile id fun t => { t with links := t.links ++ [{ inp := edgePort (.feeder f), due := 0, flit := fl }] }
      | none => s
    lost.foldl (fun s r => s.coreFault r Cause.collide 0) s) s

/-- A reduced vote of this cycle is noted. -/
def State.noteVoted (s : State) (tile : Nat) (ports : List Nat) (ins : List Flit) : Option FlitBits → State
  | some v => s.noteVote tile ports (ins.map (·.bits)) v
  | none => s

/-- The four links of a tile carry what their route sources select (R158, R161). -/
def State.sendLinks (s : State) (tile n : Nat) (row : BitVec 40) (resultOn : Nat → Bool) (result : Flit) (input : Nat → Option Flit) :
    State :=
  (List.range 4).foldl (fun (s : State) k =>
    if resultOn k then s.sendStatic tile n k (some result)
    else if rowSrc row k = 0 || 6 ≤ rowSrc row k then s
    else s.sendStatic tile n k (input (rowSrc row k - 1))) s

/-- A reduction's result reaches the ejection interface (R160). -/
def State.ejectResult (s : State) (tile : Nat) (result : Flit) : Option Reduction → State
  | some r => if r.outs.getLsbD 4 then s.ejectFlit tile (some r.op) r.ejd r.rfx r.len result.bits else s
  | none => s

/-- The row's flit reaches the ejection interface (R163). (log 42, DEDUCED) -/
def State.ejectRow (s : State) (tile : Nat) (row : BitVec 40) (get : Nat → Flit) : State :=
  let src := rowSrc row 4
  if 1 ≤ src && src ≤ 5 then
    (s.ejectNothing tile (some (rowEjd row))).ejectFlit tile none (rowEjd row) (rowRfx row) (rowT row) (get (src - 1)).bits
  else s.ejectNothing tile none

/-- STATIC_FLIT_HOP: a router's count: its inputs go to the outputs that the row in force names, reductions start and go on, and the ejection
interface takes what is its own. -/
def execStaticFlitHop (tile : Nat) (s : State) : Result :=
  onUnit (s.tileOk tile) <|
    match (s.tile tile).slot with
    | none => s
    | some n =>
      if !(s.slot n).run.live then s
      else if s.dead tile then s.modTile tile fun t => { t with links := [], red := none, presents := [] }
      else
        let row := s.rowWord tile
        let s := s.feederFlits tile row
        let t := s.tile tile
        let (local_, wait, lost) := presentNow t.presents t.rfmt row
        let taken := takesLocal row t.red
        let lost := match local_ with
          | some (_, r) => if taken then lost else r :: lost
          | none => lost
        let input (k : Nat) : Option Flit :=
          if k = 4 then local_.map (·.1) else (t.links.find? fun l => l.due == 0 && l.inp.toNat == k).map (·.flit)
        let get (k : Nat) : Flit := (input k).getD zeroFlit
        -- the reduction
        let starts := rowRed row != 0 && (match t.red with | some r => r.left ≤ 1 | none => true)
        let outs : BitVec 5 := BitVec.ofNat 5 ((List.range 5).foldl (fun (m : Nat) k => if rowSrc row k = 6 then m + 2 ^ k else m) 0)
        let ports := maskPorts (match t.red with | some r => if starts then rowMask row else r.mask | none => rowMask row)
        let ins := ports.map get
        let (red, voted) : Option Reduction × Option FlitBits :=
          if starts then
            let op := rowRed row
            let res := reduceFlit op (rowT row) (ins.map fun _ => []) ins
            (some { op := op, mask := rowMask row, outs := outs, left := rowT row, got := ins.map ([·.bits]), result := res, ejd := rowEjd row,
                    rfx := rowRfx row, len := rowT row }, if op = 4 then some res.bits else none)
          else match t.red with
            | some r =>
              if r.left ≤ 1 then (none, none)
              else
                let res := reduceFlit r.op r.len r.got ins
                (some { r with left := r.left - 1, got := (r.got.zip ins).map fun x => x.1 ++ [x.2.bits], result := res }, if r.op = 4 then some res.bits else none)
            | none => (none, none)
        let result : Flit := (t.red.map (·.result)).getD zeroFlit
        let resultOn (k : Nat) : Bool := t.red.any fun r => r.outs.getLsbD k
        let s := s.modTile tile fun t => { t with presents := wait, links := t.links.filter (·.due != 0), red := red }
        let s := (s.noteVoted tile ports ins voted).sendLinks tile n row resultOn result input
        let s := (s.ejectResult tile result t.red).ejectRow tile row get
        lost.foldl (fun s r => s.coreFault r Cause.collide 0) s

/-- STATIC_FLIT_HANDOFF: flits of a towline's retiming buffer whose count the crew now runs appear on the edge inputs of their attachment
tiles (R41, R154). -/
def execStaticFlitHandoff (tl : Nat) (s : State) : Result :=
  onUnit (towlineOk tl) <|
    let x := s.towline tl
    match x.owner with
    | none => s
    | some n =>
      let run := (s.slot n).run
      let now (r : Retimed) : Bool := run.live && r.count == run.vcyc
      let s := s.modTowline tl fun x => { x with retime := x.retime.filter fun r => !now r }
      (x.retime.filter now).foldl (fun (s : State) r =>
        s.modTile (s.towlineTile tl r.port.toNat) fun t =>
          { t with links := t.links ++ [{ inp := edgePort (.towline tl), due := 0, flit := r.flit }] }) s

/-! ### TSEND and TRED (R396, R398) -/

/-- A flit or token of the acting core is presented two counts on; a feeder's reaches the edge input in its own time. -/
def State.present (s : State) (k : PresentKind) : State :=
  match s.actor with
  | .tile id _ => s.modTile id fun t => { t with presents := t.presents ++ [⟨2, s.actor, k⟩] }
  | .feeder f _ => s.modFeeder f fun x => { x with presents := x.presents ++ [⟨Config.feederSend, s.actor, k⟩] }

def flitOf (bs : List Byte) : Flit := { bits := BitVec.ofNat 512 (leNat bs), look := [] }

/-- g[SA] + sext(IMM16), exact. -/
def State.ea16 (s : State) (a : Reg) (imm : BitVec 16) : Int := (s.g a).toNat + imm.toInt

/-- TSEND from memory (R396). -/
def execTsend (a : Reg) (imm : BitVec 16) (s : State) : Result :=
  guarded (.tsend a imm) s fun s =>
    let x := s.ea16 a imm
    let addrs := layout x.toNat 64
    s.withRead (.tsend a imm) (s.check s.actor { align := 64 } x addrs) addrs fun bs s => s.present (.flit (flitOf bs))
/-- TSEND.p (R396). -/
def execTsendP (p : PReg) (s : State) : Result :=
  guarded (.tsendP p) s fun s => s.takeStep (.tsendP p) p fun bs s => s.present (.flit (flitOf bs))
/-- TSEND.v (R396). -/
def execTsendV (va : Reg) (q : BitVec 2) (s : State) : Result :=
  guarded (.tsendV va q) s fun s =>
    let v := s.v va
    s.present (.flit (flitOf ((List.range 16).flatMap fun i => leBytes 4 (v[Fin.ofNat 64 (16 * q.toNat + i)]).toNat)))
/-- TRED from a vector register (R398). -/
def execTredV (isInt : Bool) (va : Reg) (s : State) : Result :=
  guarded (.tredV isInt va) s fun s => s.present (.token isInt (s.v va).toList)
/-- TRED from memory (R398). -/
def execTredMem (isInt : Bool) (a : Reg) (imm : BitVec 16) (s : State) : Result :=
  guarded (.tredMem isInt a imm) s fun s =>
    let x := s.ea16 a imm
    let addrs := layout x.toNat 256
    s.withRead (.tredMem isInt a imm) (s.check s.actor { align := 64 } x addrs) addrs fun bs s =>
      s.present (.token isInt ((List.range 64).map fun i => BitVec.ofNat 32 (leNat ((bs.drop (4 * i)).take 4))))

end Sys2Proof.Machine
end

