-- ==== Sys2Proof/Machine/Dynamic.lean ====
section
/-! DEFINITION. The dynamic class of the towpath: injection, a router's cycle, delivery, TDSEND and TDRECV, and the greeting (spec 07 R171 to R181;
16 R400, R401). -/

namespace Sys2Proof.Machine

/-! ### Queues (R177, R400, R401) -/

/-- Messages a send queue and packets a receive queue hold. -/
def sendMax : Nat := 4
def recvMax : Nat := 16

def State.recvOf (s : State) : Site → List Packet
  | .tile id => (s.tile id).recvQ
  | .feeder f => (s.feeder f).recvQ
  | .towline _ => []
def State.setRecv (s : State) (site : Site) (l : List Packet) : State :=
  match site with
  | .tile id => s.modTile id fun t => { t with recvQ := l }
  | .feeder f => s.modFeeder f fun x => { x with recvQ := l }
  | .towline _ => s
/-- Messages of a unit that wait to be sent. -/
def State.sendOf (s : State) : Site → List Packet
  | .tile id => (s.tile id).outQ.filter (·.typ == 0)
  | .feeder f => (s.feeder f).outQ.filter (·.typ == 0)
  | .towline _ => []

/-- Where a packet leaves the towpath at the end of its route. -/
def State.exitSite (s : State) (p : Packet) : Site :=
  if !s.isHere p.dstMod then .towline (s.routeTo p.dstMod).toNat
  else match p.dstK.toNat with
    | 0 => .tile p.dst.toNat
    | 1 => .feeder p.dst.toNat
    | _ => .towline p.dst.toNat

/-- A message on its way into a unit's receive queue: ejected or held for its payload, and not yet delivered. (log 42, DEDUCED) -/
def State.arriving (s : State) (site : Site) : Nat :=
  let mine (p : Packet) : Bool := p.typ == 0 && s.exitSite p == site
  (s.agenda.filter fun d => match d.ev with | .dynPacketDeliver _ p => mine p && !p.head | _ => false).length
    + ((s.tile (s.siteTile site)).outHolds.filter fun h => h.out == edgePort site && mine h.pkt).length

/-- Room for a message: its queue is not full (R177). -/
def State.takesPacket (s : State) (p : Packet) : Bool :=
  let site := s.exitSite p
  p.typ != 0 || (match site with | .towline _ => true | _ => (s.recvOf site).length + s.arriving site < recvMax)

/-! ### Injection (R173, R176, R400) -/

/-- The next packet to enter a unit's injection interface: of a tile, its router's own answers first; the interface itself needs the core rail
(R177, R184). -/
def State.nextOut (s : State) : Site → Option (Packet × State)
  | .tile id =>
    let t := s.tile id
    match t.nackQ, t.outQ with
    | p :: r, _ => some (p, s.modTile id fun t => { t with nackQ := r })
    | [], p :: r => if s.powered id then some (p, s.modTile id fun t => { t with outQ := r }) else none
    | [], [] => none
  | .feeder f => match (s.feeder f).outQ with
    | p :: r => some (p, s.modFeeder f fun x => { x with outQ := r })
    | [] => none
  | .towline _ => none

/-- One packet enters a unit's injection interface, in the order in which they came (R178). -/
def State.inject (s : State) (site : Site) : State :=
  let t := s.tile (s.siteTile site)
  let inp := edgePort site
  if t.off.contains (inp, false) || t.dyn.any (fun d => d.inp == inp && 2 ≤ d.due) then s
  else match s.nextOut site with
    | none => s
    | some (p, s) =>
      match s.goalTile p with
      | none => s.noWay site p
      | some goal => s.modTile (s.siteTile site) fun t => { t with dyn := t.dyn ++ flitsOf inp 2 (s.stamped site goal p) }

/-! ### One cycle of a router (R171 to R177) -/

/-- The direction of the next hop; none: the packet is ejected here (R173). -/
def nextDir (p : Packet) : Option Nat :=
  let g := segAt p.turns p.seg
  if 8 ≤ p.seg || g.len = 0 then none else some g.dir

/-- The head after a hop: HOPS, LEN, SEG and CH (R173). -/
def hopped (p : Packet) : Packet :=
  let g := segAt p.turns p.seg
  { p with hops := p.hops + 1, ch := p.ch || g.esc, turns := p.turns - (1 <<< (11 * p.seg)), seg := if g.len = 1 then p.seg + 1 else p.seg }

/-- The oldest flit of an input and channel, if it is there (R175). -/
def Tile.dynFront (t : Tile) (inp : BitVec 3) (ch : Bool) : Option DynBuf :=
  (t.dyn.find? fun d => d.inp == inp && d.pkt.ch == ch).bind fun d => if d.due = 0 then some d else none

def Tile.popFront (t : Tile) (d : DynBuf) : Tile := { t with dyn := t.dyn.erase d }

/-- A head that the first router discards (R171, R172). -/
def malformed (p : Packet) : Bool := p.resv || 8 ≤ p.typ.toNat || 64 < p.len

/-- Why a router stops a packet (R177). -/
inductive Stop where
  | malformed
  | fenced
  | dead (hole : Nat)
  | wrongTile
  deriving DecidableEq, Repr

/-- A head that a router stops. -/
def State.stopOf (s : State) (id : Nat) (p : Packet) : Option Stop :=
  if malformed p then some .malformed
  else match nextDir p with
    | some k =>
      match s.neighbour id k with
      | none => some .wrongTile
      | some j => if s.fenced j then some .fenced else if s.holeAt id k j then some (.dead j) else none
    | none =>
      if s.goalTile p ≠ some id then some .wrongTile
      else if !s.powered id && s.exitSite p == .tile id then some .fenced
      else none

/-- A router answers a request with REMOTE_NACK, and records its address and ASID (R53, R177). -/
def State.routerNack (s : State) (id : Nat) (q : Req) : State :=
  let s := s.mcheck q.gaddr q.asid 0 0 id 0x01 Cause.remoteNack
  let p := s.ansPacket q .nack
  if (s.goalTile p).isSome then s.modTile id fun t => { t with nackQ := t.nackQ ++ [p] }
  else s.mcheck p.addr p.asid 0 0 id 0x06 (Config.noCause 0x06)

/-- A stopped packet: a request is answered REMOTE_NACK, any other is discarded with a record; its payload flit is taken up (R177). -/
def State.stopPacket (s : State) (id : Nat) (d : DynBuf) (why : Stop) : State :=
  let p := d.pkt
  let s := s.modTile id fun t =>
    let t := t.popFront d
    if p.len = 0 then t else { t with outHolds := t.outHolds ++ [{ out := 7, inp := d.inp, ch := p.ch, pkt := p, since := s.time }] }
  let record (a : Word) : State := s.mcheck a p.asid 0 0 id 0x06 (Config.noCause 0x06)
  let nacked (s : State) (q : Req) : State := s.routerNack id q
  match why, p.req with
  | .malformed, _ => record p.addr
  | .fenced, some q => nacked s q
  | .fenced, none => record p.addr
  | .dead j, some q => nacked (record (BitVec.ofNat 64 (s.xOf j * 256 + s.yOf j))) q
  | .dead j, none => record (BitVec.ofNat 64 (s.xOf j * 256 + s.yOf j))
  | .wrongTile, some q => nacked s q
  | .wrongTile, none => record (p.dst.zeroExtend 64)

/-- The output a flit at the front asks for: 0 N, 1 E, 2 S, 3 W, 4 L; a payload flit that of its head. -/
def State.wants (s : State) (id : Nat) (d : DynBuf) : Option (BitVec 3) :=
  if d.body then ((s.tile id).outHolds.find? fun h => h.inp == d.inp && h.ch == d.pkt.ch).map (·.out)
  else match nextDir d.pkt with
    | some k => some (BitVec.ofNat 3 k)
    | none => some (edgePort (s.exitSite d.pkt))

/-- A dynamic flit may use the output in this cycle; a crew that stands from the count of a draw-off on is in a hold (R125, R175, R183). -/
def State.outOpen (s : State) (id : Nat) (out : BitVec 3) : Bool :=
  match (s.tile id).slot with
  | none => true
  | some n => (s.slot n).run.holdCount ≠ 0 || (s.slot n).run.stopped
      || (rowSrc (s.rowWord id) out.toNat == 0 && !((s.tile id).red.any fun r => r.outs.getLsbD out.toNat))

/-- A flit can leave by an output now: the next buffer is ON, or the unit at the end takes it. -/
def State.canLeave (s : State) (id : Nat) (out : BitVec 3) (d : DynBuf) : Bool :=
  let p := if d.body then (((s.tile id).outHolds.find? fun h => h.inp == d.inp && h.ch == d.pkt.ch).map (·.pkt)).getD d.pkt
    else match nextDir d.pkt with | some _ => hopped d.pkt | none => d.pkt
  let leaves : Bool := if out = 4 then true else (s.neighbour id out.toNat).isNone
  if leaves then d.body || s.takesPacket p
  else match s.neighbour id out.toNat with
    | some j => !((s.tile j).off.contains ((out + 2) % 4, p.ch))
    | none => true

/-- A flit leaves by an output. -/
def State.moveFlit (s : State) (id : Nat) (out : BitVec 3) (d : DynBuf) : State :=
  let hold := (s.tile id).outHolds.find? fun h => h.inp == d.inp && h.ch == d.pkt.ch
  let ends : Bool := if out = 4 then true else (s.neighbour id out.toNat).isNone
  let p : Packet := if d.body then ((hold.map (·.pkt)).getD d.pkt) else if ends then d.pkt else hopped d.pkt
  let s := s.modTile id fun t =>
    let t := { t.popFront d with rotor := if h : out.toNat < 5 then t.rotor.set out.toNat d.inp h else t.rotor }
    if d.body then { t with outHolds := t.outHolds.filter fun h => !(h.inp == d.inp && h.ch == d.pkt.ch) }
    else if p.len = 0 then t
    else { t with outHolds := t.outHolds ++ [{ out := out, inp := d.inp, ch := d.pkt.ch, pkt := p, since := s.time }] }
  if ends then
    s.afterTime 2 (.dynPacketDeliver id { p with head := !d.body && p.len ≠ 0 })
  else match s.neighbour id out.toNat with
    | some j => s.modTile j fun t =>
        { t with dyn := t.dyn ++ [{ inp := (out + 2) % 4, due := s.hopCounts id j, body := d.body, pkt := p }] }
    | none => s

/-- Inputs in rotating order after the last served (R175). -/
def rotation (last : BitVec 3) : List (BitVec 3) := (List.range 5).map fun k => BitVec.ofNat 3 ((last.toNat + 1 + k) % 5)

/-- The flit an output takes in this cycle: the payload of the packet that holds it, else the next head in turn. -/
def State.winner (s : State) (id : Nat) (out : BitVec 3) : Option DynBuf :=
  let t := s.tile id
  let held := t.outHolds.find? (·.out == out)
  let fronts := (rotation (t.rotor.toList.getD out.toNat 4)).flatMap fun i => (t.dynFront i false).toList ++ (t.dynFront i true).toList
  fronts.find? fun d => s.wants id d == some out && s.canLeave id out d &&
    (match held with
     | some h => d.body && h.inp == d.inp && h.ch == d.pkt.ch
     | none => !d.body)

/-- DYN_PACKET_HOP: a router's cycle of the dynamic class: what it stops is stopped, and every open output takes one flit. -/
def execDynPacketHop (tile : Nat) (s : State) : Result :=
  onUnit (s.tileOk tile) <|
    if s.dead tile then s.modTile tile fun t => { t with dyn := [], outHolds := [] }
    else
      let ways : List (BitVec 3 × Bool) := (List.range 5).flatMap fun i => [(BitVec.ofNat 3 i, false), (BitVec.ofNat 3 i, true)]
      let s := ways.foldl (fun (s : State) x =>
        match (s.tile tile).dynFront x.1 x.2 with
        | none => s
        | some d =>
          if d.body then
            if s.wants tile d = some 7 then s.modTile tile fun t =>
              { t.popFront d with outHolds := t.outHolds.filter fun h => !(h.inp == d.inp && h.ch == d.pkt.ch) }
            else s
          else match s.stopOf tile d.pkt with
            | some why => s.stopPacket tile d why
            | none => s) s
      (List.range 5).foldl (fun (s : State) k =>
        let out := BitVec.ofNat 3 k
        if !s.outOpen tile out then s
        else match s.winner tile out with
          | some d => s.moveFlit tile out d
          | none => s) s

/-- Buffers that signal OFF at the end of a cycle (R175). -/
def Tile.offs (t : Tile) : List (BitVec 3 × Bool) :=
  ((List.range 5).flatMap fun i => [(BitVec.ofNat 3 i, false), (BitVec.ofNat 3 i, true)]).filter fun x =>
    2 ≤ (t.dyn.filter fun d => d.inp == x.1 && d.pkt.ch == x.2 && d.due == 0).length

/-! ### Delivery (R177 to R179) -/

/-- LATLAST of a packet ejected now. -/
def latWord (p : Packet) (time : Word) : Word :=
  p.src ++ p.srcK ++ (if p.ch then (1 : BitVec 1) else 0) ++ p.hops ++ (0 : BitVec 12) ++ (time.extractLsb' 0 24 - p.itime)

/-- A message joins a receive queue, and wakes what waits for one; one of another address space is discarded (R177, R400). -/
def State.deliverMessage (s : State) (site : Site) (asid : BitVec 16) (cores : List CoreRef) (p : Packet) : State :=
  if p.asid ≠ asid then s.mcheck p.addr p.asid 0 0 (s.siteTile site) 0x06 (Config.noCause 0x06)
  else
    let s := s.setRecv site (s.recvOf site ++ [p])
    let sleepers := cores.filter fun r => (s.core r).waits.any fun w => match w.1 with | .tdrecv _ _ => true | _ => false
    let s := sleepers.reverse.foldl (fun s r => s.soon (.tdrecvWake r)) s
    s.wakeAll cores false

/-- DYN_PACKET_DELIVER: a packet's head is ejected, and the packet with its last flit reaches its unit: messages, requests, answers and offers
(R177, R179). -/
def execDynPacketDeliver (tile : Nat) (p : Packet) (s : State) : Result :=
  onUnit (s.tileOk tile) <|
    let s := if p.head || p.len = 0 then s.modTile tile fun t => { t with latlast := latWord p s.time } else s
    if p.head then s
    else match s.exitSite p with
    | .towline t => if (s.towline t).up then s.modTowline t fun x => { x with dynOut := x.dynOut ++ [p] } else s.noWay (.towline t) p
    | site =>
      match p.offer, p.ans, p.req with
      | some (r, reg, view), _, _ => s.afterTime 1 (.berthOfferArrive r reg view)
      | none, some (r, a), _ => s.soon (.remoteAnswer r p.tag a)
      | none, none, some q =>
        match site with
        | .tile id =>
          match q.kind with
          | .tkt _ | .tserve _ _ | .tadv _ => let (rx, ry) := s.reachOf id; s.soon (.ticketRequest rx ry q)
          | _ => s.requestAtTile id q
        | .feeder f => if p.srcK = 1 then s.arriveAtHome f (some p.src.toNat) q else s.soon (.remoteRequestReceive (.feeder f) q)
        | .towline _ => s
      | none, none, none =>
        match site with
        | .tile id => s.deliverMessage site (s.tile id).asid [.tile id true, .tile id false] p
        | .feeder f => s.deliverMessage site (s.feeder f).asid ((List.range 4).map (.feeder f ·)) p
        | .towline _ => s

/-! ### TDSEND (R400) -/

/-- A destination word that R400 refuses. -/
def State.destBad (s : State) (w : Word) : Bool :=
  w.extractLsb' 18 33 ≠ 0 || 2 ≤ (w.extractLsb' 16 2).toNat || 6144 ≤ (gMod w).toNat
    || (w.extractLsb' 16 2 = 0 && !s.tileOk (w.extractLsb' 0 16).toNat) || (w.extractLsb' 16 2 = 1 && !s.feederOk (w.extractLsb' 0 16).toNat)

/-- The fate of a payload's read: WINDOW, then the line rule in place of ALIGN, then the wheel. -/
def State.payloadAccess (s : State) (a : Word) (n : Nat) (addrs : List Nat) : Access :=
  if n = 0 then .ok
  else match s.check s.actor { align := 0 } (a.toNat : Int) addrs with
    | .fault cause w => if cause ≠ Cause.window && 64 < a.toNat % 64 + n then .fault Cause.align a else .fault cause w
    | x => if 64 < a.toNat % 64 + n then .fault Cause.align a else x

/-- TDSEND: the packet joins the send queue, and g[DST] says whether it did. -/
def execTdsend (d a b c : Reg) (len : BitVec 7) (s : State) : Result :=
  guarded (.tdsend d a b c len) s fun s =>
    let w := s.g a
    let n := len.toNat
    if s.destBad w then s.raise Cause.illegal (BitVec.ofNat 64 s.wordAt)
    else
      let addrs := (List.range n).map ((s.g b).toNat + ·)
      s.withRead (.tdsend d a b c len) (s.payloadAccess (s.g b) n addrs) addrs fun bs s =>
        let site := siteOf s.actor
        if sendMax ≤ (s.sendOf site).length then s.laterG 1 d 0
        else
          let p := { blankPacket with asid := s.asidOf s.actor, srcMod := s.modNum, srcK := site.kindCode, src := site.number,
                                      dstMod := gMod w, dstK := w.extractLsb' 16 2, dst := w.extractLsb' 0 16, typ := 0, len := n,
                                      tag := (s.g c).extractLsb' 0 16, payload := bs }
          let s := match site with
            | .tile id => s.modTile id fun t => { t with outQ := t.outQ ++ [p] }
            | .feeder f => s.modFeeder f fun x => { x with outQ := x.outQ ++ [p] }
            | .towline _ => s
          s.laterG 1 d 1

/-! ### TDRECV (R401) -/

/-- The word of R401 for a packet taken. -/
def recvWord (p : Packet) : Word :=
  (1 : BitVec 1) ++ p.srcMod ++ p.srcK ++ p.src ++ BitVec.ofNat 7 p.len ++ (0 : BitVec 9) ++ p.tag

/-- The 64 bytes stored. -/
def recvBytes (p : Packet) : List Byte := (List.range 64).map fun i => if i < p.len then p.payload.getD i 0 else 0

/-- The acting core takes a packet whose store passes its checks: `late` is 1 where the cycle's results have not been counted down yet. -/
def State.takePacket (s : State) (a : Nat) (p : Packet) (late : Nat) : State :=
  let site := siteOf s.actor
  let addrs := layout a 64
  let s := s.setRecv site ((s.recvOf site).drop 1)
  ((s.useBanks s.actor addrs).storeDue s.actor (2 + late) (addrs.zip (recvBytes p))).markDirty s.actor a

/-- The result of TDRECV, for which its register pends (R395). -/
def State.pendWord (s : State) (d : Reg) (v : Word) (due : Nat) : State :=
  let tag := s.me.nextTag
  (s.modMe fun c => { c with nextTag := tag + 1, pending := c.pending ++ [(d, tag)] }).later due (.remote d v tag)

/-- The access of a packet's store. -/
def State.recvAccess (s : State) (a : Reg) : Access :=
  let x := (s.g a).toNat
  s.check s.actor { store := true, align := 64 } x (layout x 64)

/-- TDRECV: takes the oldest packet, or sleeps until there is one. -/
def execTdrecv (d a : Reg) (s : State) : Result :=
  guarded (.tdrecv d a) s fun s =>
    match s.recvOf (siteOf s.actor) with
    | [] => s.await (.tdrecv d a)
    | p :: _ =>
      match s.recvAccess a with
      | .ok => (s.takePacket (s.g a).toNat p 0).pendWord d (recvWord p) 4
      | .fault cause w => s.raise cause w
      | .stand n => s.standOp n (.tdrecv d a)
      | .drain => s.standDrain (.tdrecv d a)

/-- TDRECV.nb: with no packet, g[DST] takes 0 and nothing is stored. -/
def execTdrecvNb (d a : Reg) (s : State) : Result :=
  guarded (.tdrecvNb d a) s fun s =>
    match s.recvOf (siteOf s.actor) with
    | [] => s.laterG 4 d 0
    | p :: _ =>
      match s.recvAccess a with
      | .ok => (s.takePacket (s.g a).toNat p 0).laterG 4 d (recvWord p)
      | .fault cause w => s.raise cause w
      | .stand n => s.standOp n (.tdrecvNb d a)
      | .drain => s.standDrain (.tdrecvNb d a)

/-- TDRECV_WAKE: a core asleep in TDRECV acts as if the word entered now; its next bundle issues a cycle later. A store that fails leaves the
packet, and traps at the TDRECV. -/
def execTdrecvWake (core : CoreRef) (s : State) : Result :=
  onUnit (s.coreOk core) <|
    let hit : Option (Reg × Reg) := (s.core core).waits.findSome? fun (w : Wait × Bool) => match w.1 with | .tdrecv d a => some (d, a) | _ => none
    match hit, s.recvOf (siteOf core) with
    | some (d, a), p :: _ =>
      let was := s.actor
      let wseq := s.seq
      let s := { s with actor := core, seq := (s.core core).issued }
      let back (s : State) : State := { s with actor := was, seq := wseq }
      match s.recvAccess a with
      | .ok =>
        let s := ((s.takePacket (s.g a).toNat p 1).pendWord d (recvWord p) 5).endWait core fun w => match w with | .tdrecv _ _ => true | _ => false
        back (s.modMe fun c => { c with hush := max c.hush 2 })
      | .fault cause w => back (s.raiseWaiting core cause w)
      | .stand n => back (s.afterTime n (.tdrecvWake core))
      | .drain => back (s.afterTime 1 (.tdrecvWake core))
    | _, _ => s

/-! ### The greeting (R180) -/

/-- HELLO: a neighbour's health arrives over a wire while NBRSTAT is being made; 0, 1 and 2 are its codes; N and S have three wires (R16, R180). -/
def execHello (tile : Nat) (edge : EdgeWire) (code : BitVec 3) (s : State) : Result :=
  onUnit (s.tileOk tile && (edge.wire == 0 || (edge.wire != 3 && edge.port.toNat % 2 == 0))) <|
    if s.pwr.greeting ≠ 1 || 2 < code.toNat then s
    else s.modTile tile fun t => { t with heard := insert t.heard (4 * edge.port.toNat + edge.wire.toNat) code }

end Sys2Proof.Machine
end

