-- ==== Sys2Proof/Machine/Image.lean ====
section
/-! DEFINITION. Volin images: reading one, its header, sections and contents, and what the loader refuses (spec 05 R99, R100, R103, R113 to R115;
06 R133, R134; 07 R158 to R160, R167, R272; 12 R294, R295, R301, R302). Sections whose bytes the manual does not lay out go through the parsers of Config
(log 8, DESIGN CHOICE). -/

namespace Sys2Proof.Machine

/-- An image: n bytes from an offset. -/
abbrev Img := Nat → Nat → List Byte

/-- n bytes of the weight store by global address, page by page; of another module what that module holds (log 1, DESIGN CHOICE). -/
def State.globalBytes (s : State) (asid : BitVec 16) (a : Word) (n : Nat) : List Byte :=
  (List.range n).map fun i =>
    let b := a + BitVec.ofNat 64 i
    match s.pageOf asid b with
    | some p => readCell s.mem (pageKey p (gOff b))
    | none => 0

def State.image (s : State) (asid : BitVec 16) (a : Word) : Img := fun off n =>
  if gMod a = s.modNum then s.globalBytes asid (a + BitVec.ofNat 64 off) n else Config.farBytes (a + BitVec.ofNat 64 off) n

/-- A little-endian field. -/
def Img.num (img : Img) (off n : Nat) : Nat := leNat (img off n)

/-! ### The header (R99) -/

structure Header where
  grade  : Nat
  fprint : Word
  nsect  : Nat
  modules : Nat
  width  : Nat
  height : Nat
  sectab : Nat
  deriving DecidableEq, Repr

def Img.header (img : Img) : Header :=
  { grade := img.num 6 2, fprint := BitVec.ofNat 64 (img.num 8 8), nsect := img.num 16 2, modules := img.num 18 1, width := img.num 20 2,
    height := img.num 22 2, sectab := img.num 24 8 }

/-- Step 2 of R103: the offset of the first header field refused. -/
def Img.headerBad (img : Img) (len : Nat) : Option Nat :=
  let h := img.header
  if len < 64 || img.num 0 4 ≠ 0x474D4956 then some 0
  else if img.num 4 2 ≠ 1 then some 4
  else if h.nsect = 0 || 1024 < h.nsect then some 16
  else if h.modules = 0 || 32 < h.modules then some 18
  else if img.num 19 1 ≠ 0 then some 19
  else if h.sectab % 8 ≠ 0 || len < h.sectab + 16 * h.nsect then some 24
  else if img.num 32 32 ≠ 0 then some 32
  else none

/-! ### Sections (R100) -/

structure Sect where
  /-- offset of its table entry -/
  entry : Nat
  kind  : Nat
  modl  : Nat
  off   : Nat
  len   : Nat
  deriving DecidableEq, Repr

def Img.sections (img : Img) : List Sect :=
  let h := img.header
  (List.range h.nsect).map fun i =>
    let e := h.sectab + 16 * i
    { entry := e, kind := img.num e 2, modl := img.num (e + 2) 2, off := img.num (e + 8) 4, len := img.num (e + 12) 4 }

def Img.body (img : Img) (c : Sect) : List Byte := img c.off c.len

/-- A table entry that breaks R100. -/
def Img.sectBad (img : Img) (len : Nat) (all : List Sect) (c : Sect) : Bool :=
  c.kind = 0 || 10 < c.kind || img.header.modules ≤ c.modl || img.num (c.entry + 4) 4 ≠ 0 || c.off % 8 ≠ 0 || c.off < 64 || len < c.off + c.len
    || all.any fun d => d.entry != c.entry && c.off < d.off + d.len && d.off < c.off + c.len

/-- Rectangles relative to L(0,0). -/
abbrev RelRect := Config.Rect
def inRel (r : RelRect) (x y : Nat) : Bool := r.1 ≤ x && x ≤ r.2.2.1 && r.2.1 ≤ y && y ≤ r.2.2.2
def relMeets (a b : RelRect) : Bool := a.1 ≤ b.2.2.1 && b.1 ≤ a.2.2.1 && a.2.1 ≤ b.2.2.2 && b.2.1 ≤ a.2.2.2
def relOk (r : RelRect) : Bool := r.1 ≤ r.2.2.1 && r.2.1 ≤ r.2.2.2
/-- The places of a relative rectangle. -/
def relPlaces (r : RelRect) : List (Nat × Nat) :=
  (List.range (r.2.2.1 + 1 - r.1)).flatMap fun i => (List.range (r.2.2.2 + 1 - r.2.1)).map fun j => (r.1 + i, r.2.1 + j)

def Img.rect (img : Img) (off : Nat) : RelRect := (img.num off 1, img.num (off + 1) 1, img.num (off + 2) 1, img.num (off + 3) 1)

/-- The cores a role names: 0 stager, 1 worker, 2 to 5 feeder cores, 6 both tile cores (R295). -/
def isFeederRole (k : Nat) : Bool := 2 ≤ k && k ≤ 5

/-! #### CODE (R295) -/

structure Code where
  sect : Sect
  rect : RelRect
  core : Nat
  free : Bool
  grp  : Nat
  win  : Nat
  deriving DecidableEq, Repr

def Img.codes (img : Img) : List Code :=
  (img.sections.filter (·.kind = 1)).map fun c =>
    { sect := c, rect := img.rect c.off, core := img.num (c.off + 4) 1, free := img.num (c.off + 5) 1 == 1, grp := img.num (c.off + 6) 1,
      win := img.num (c.off + 7) 1 }

/-- The code section names a core of a role at a relative place; for a feeder role x is a logical column and y the side's row. -/
def Code.names (c : Code) (role x y : Nat) : Bool :=
  if isFeederRole role then c.core = role && c.rect.1 ≤ x && x ≤ c.rect.2.2.1 && c.rect.2.1 = y
  else (c.core = role || c.core = 6) && inRel c.rect x y

/-- A word of the F column in code for a tile core (R106). -/
def namesF (w : Word) : Bool :=
  match decodeWord w with
  | .ok d => column d.instr == some .f
  | .error _ => false

/-- A CODE section with a value outside the ranges of R295 or of R106. -/
def Img.codeBad (img : Img) (c : Code) : Bool :=
  let o := c.sect.off
  c.sect.len < 16 || c.sect.len % 8 ≠ 0 || !relOk c.rect || 6 < c.core || 1 < img.num (o + 5) 1 || 7 < c.grp || 15 < c.win || img.num (o + 8) 8 ≠ 0
    || (isFeederRole c.core && !(c.rect.2.1 == c.rect.2.2.2 && (c.rect.2.1 == 0 || c.rect.2.1 == 191)))
    || (!isFeederRole c.core && (List.range ((c.sect.len - 16) / 8)).any fun i => namesF (BitVec.ofNat 64 (img.num (o + 16 + 8 * i) 8)))

/-- A target rectangle outside WIDTH × HEIGHT; a feeder target's rows name a side. -/
def outside (h : Header) (feeder : Bool) (r : RelRect) : Bool := h.width ≤ r.2.2.1 || (!feeder && h.height ≤ r.2.2.2)

/-! #### WINDOW (R302) -/

structure WinGroup where
  at_  : Nat
  rect : RelRect
  /-- 0xFF tiles, 2 to 5 feeder cores -/
  target : Nat
  /-- kind, number, descriptor -/
  recs : List (Nat × Nat × BitVec 128)
  ok   : Bool
  deriving DecidableEq, Repr

/-- The groups of a WINDOW section of `len` bytes at `off`; at most `n` of them. -/
def Img.windowGroups (img : Img) (off len : Nat) : Nat → List WinGroup
  | 0 => []
  | n + 1 =>
    if len = 0 then []
    else
      let k := img.num (off + 7) 1
      let recs := (List.range k).map fun i =>
        let r := off + 16 + 24 * i
        (img.num r 1, img.num (r + 1) 1, (BitVec.ofNat 128 (img.num (r + 8) 16)))
      let t := img.num (off + 4) 1
      let size := 16 + 24 * k
      let g : WinGroup := { at_ := off, rect := img.rect off, target := t, recs := recs,
                            ok := size ≤ len && k ≠ 0 && img.num (off + 5) 2 = 0 && img.num (off + 8) 8 = 0 && (t = 0xFF || isFeederRole t) }
      if len < size then [g] else g :: img.windowGroups (off + size) (len - size) n

def Img.windows (img : Img) (modl : Nat) : List WinGroup :=
  (img.sections.filter fun c => c.kind = 3 && c.modl = modl).flatMap fun c => img.windowGroups c.off c.len (c.len / 16 + 1)

/-- A group names a tile, or a feeder core by a column and a side row. -/
def WinGroup.names (g : WinGroup) (role x y : Nat) : Bool :=
  if isFeederRole role then g.target = role && g.rect.1 ≤ x && x ≤ g.rect.2.2.1 && g.rect.2.1 = y else g.target = 0xFF && inRel g.rect x y

/-- The window descriptors that a core's groups give: the later record of one window stands; a feeder core that none names has window 0 over
its whole store. -/
def tableOf (mine : List WinGroup) (feeder : Bool) : Vector (BitVec 128) 16 :=
  let recs := (mine.flatMap (·.recs)).filter (·.1 = 0)
  let none_ : Vector (BitVec 128) 16 := Vector.replicate 16 0
  let start := if recs.isEmpty && feeder then none_.set 0 ((0x7FF : BitVec 128) <<< 26 ||| (7 : BitVec 128) <<< 37) else none_
  recs.foldl (fun (v : Vector (BitVec 128) 16) r => v.set (Fin.ofNat 16 r.2.1) r.2.2) start

def winTable (gs : List WinGroup) (role x y : Nat) : Vector (BitVec 128) 16 := tableOf (gs.filter fun g => g.names role x y) (isFeederRole role)

def ejTable (gs : List WinGroup) (x y : Nat) : Vector Word 16 :=
  ((gs.filter fun g => g.names 0 x y).flatMap (·.recs)).foldl (fun (v : Vector Word 16) r =>
    if r.1 = 1 then v.set (Fin.ofNat 16 r.2.1) (ejClearNext (r.2.2.extractLsb' 0 64)) else v) (Vector.replicate 16 0)

/-- A valid window of a table that runs past the store, has a reserved value or meets another (R195). -/
def windowBad (v : Vector (BitVec 128) 16) (i : Nat) : Bool :=
  let d : WinDesc := v[Fin.ofNat 16 i]
  d.valid && (Config.storeSize < d.base + d.size || 10 < d.fmt.toNat || 1 < d.blk.toNat || (d.blk == 1 && d.rowel % 16 ≠ 0)
    || (List.range 16).any fun j => j ≠ i && (let e : WinDesc := v[Fin.ofNat 16 j]; e.valid && d.base < e.base + e.size && e.base < d.base + d.size))

/-- A record with a reserved value, or an ejection descriptor that R162 refuses; HOLDER 8 and above is never read (R194). -/
def recordBad (target : Nat) (r : Nat × Nat × BitVec 128) : Bool :=
  1 < r.1 || 15 < r.2.1
    || (r.1 = 0 && (r.2.2.extractLsb' 0 15 ≠ 0 || 7 < (r.2.2.extractLsb' 59 5).toNat))
    || (r.1 = 1 && (target ≠ 0xFF || r.2.2.extractLsb' 64 64 ≠ 0 || r.2.2.extractLsb' 18 13 = 0 || r.2.2.extractLsb' 0 5 ≠ 0))

/-- The offset of the sub-header or record of a group that R302 refuses, with `v` the windows of the group's first core. -/
def Img.groupRecBad (img : Img) (v : Vector (BitVec 128) 16) (g : WinGroup) : Option Nat :=
  if !g.ok || !relOk g.rect then some g.at_
  else g.recs.zipIdx.findSome? fun q =>
    let off := g.at_ + 16 + 24 * q.2
    if img.num (off + 2) 6 ≠ 0 || recordBad g.target q.1 || (q.1.1 = 0 && windowBad v q.1.2.1) then some off else none

/-! #### PHASE (R156 to R160) -/

/-- A control word refused by itself: a U-turn, a reserved value, a result without a reduction, a mask with too few inputs. -/
def rowBad (w : BitVec 40) : Bool :=
  let m := (maskPorts (rowMask w)).length
  let r := (rowRed w).toNat
  w.extractLsb' 4 2 ≠ 0 || r = 7
    || (List.range 5).any (fun k => rowSrc w k = 7 || (rowSrc w k = 6 && r = 0) || (k < 4 && rowSrc w k = k + 1))
    || (r = 4 && m ≠ 3) || (r ≠ 0 && r ≠ 4 && m < 2)

/-- Row c of a bank, which repeats. -/
def bankRow (rows : List (BitVec 40)) (c : Nat) : BitVec 40 := rows.getD (c % rows.length) 0

/-- A reduction that row c starts meets a row that R160 forbids. -/
def reductionBad (rows : List (BitVec 40)) (c : Nat) : Bool :=
  let w := bankRow rows c
  let t := rowT w
  let named := (List.range 5).filter fun k => rowSrc w k = 6
  rowRed w != 0 && ((List.range (t - 1)).any (fun k => rowRed (bankRow rows (c + 1 + k)) != 0)
    || (List.range t).any fun k => named.any fun o => rowSrc (bankRow rows (c + 1 + k)) o ≠ 0)

/-- The counts, of `n` from the bank's first on, at which a token begins its ejection through SRCL 1 to 4 at a descriptor that needs tokens: no
earlier token is still under way there. -/
def tokenStarts (rows : List (BitVec 40)) (outf : Nat → Nat) (n : Nat) : List Nat :=
  ((List.range n).foldl (fun (st : List Nat × List (Nat × Nat)) c =>
    let w := bankRow rows c
    let j := (rowEjd w).toNat
    if 1 ≤ rowSrc w 4 && rowSrc w 4 ≤ 4 && outf j ≠ 0 && !(st.2.any fun e => e.1 == j && c < e.2) then
      (st.1 ++ [c], (st.2.filter fun e => e.1 != j) ++ [(j, c + rowT w)])
    else st) ([], [])).1

/-- A token that begins its ejection at count c meets a row that R160 forbids. -/
def ejectionBad (rows : List (BitVec 40)) (c : Nat) : Bool :=
  let w := bankRow rows c
  (List.range (rowT w - 1)).any fun k =>
    let q := bankRow rows (c + 1 + k)
    rowSrc q 4 = 0 || rowEjd q ≠ rowEjd w || rowT q ≠ rowT w || rowRfx q ≠ rowRfx w || rowRed q ≠ 0

/-- A bank that R160 refuses at a tile with `outf` the OUTF of its descriptors. A bank repeats: sixteen laps show every way a token can lie across
its end. -/
def bankBad (rows : List (BitVec 40)) (outf : Nat → Nat) : Bool :=
  (List.range rows.length).any (reductionBad rows) || (tokenStarts rows outf (16 * rows.length)).any (ejectionBad rows)

/-- The PHASE sections of a module, parsed. -/
def Img.phases (img : Img) (modl : Nat) : List Config.PhaseItem :=
  (img.sections.filter fun c => c.kind = 6 && c.modl = modl).flatMap fun c => (Config.phaseSection (img.body c)).getD []

/-- OUTF of a tile's descriptors. -/
def outfOf (gs : List WinGroup) (x y : Nat) (j : Nat) : Nat := (ejOutf ((ejTable gs x y)[Fin.ofNat 16 j])).toNat

/-- A row names the output or input of a side: 0 N, 1 E, 2 S, 3 W. -/
def rowNames (w : BitVec 40) (k : Nat) : Bool := rowSrc w k ≠ 0 || (rowMask w).getLsbD k || (List.range 5).any fun o => rowSrc w o = k + 1

/-- A side of the tile at a place of a grid of `cols` columns: none inside the grid, else whether R154 connects its edge port. -/
def edgePortOf (cols x y k : Nat) : Option Bool :=
  let towline : Bool := y ≠ 0 && (y - 1) % 6 < 4
  match k with
  | 0 => if y = 0 then some (x % 31 % 8 = 0) else none
  | 1 => if x + 1 = cols then some towline else none
  | 2 => if y = 191 then some (x % 31 % 8 = 0) else none
  | _ => if x = 0 then some towline else none

/-- A side of a relative tile lies on the grid's edge at some origin, and at none of those R154 connects it. (R154, log 16, DEDUCED) -/
def portLost (cols : Nat) (h : Header) (p : Nat × Nat) (k : Nat) : Bool :=
  let at_ := ((List.range 6).flatMap fun oy => (List.range 8).map fun ox => (31 * ox, 32 * oy)).filter fun o =>
    o.1 + h.width ≤ cols && o.2 + h.height ≤ 192
  let ports := at_.filterMap fun o => edgePortOf cols (o.1 + p.1) (o.2 + p.2) k
  !ports.isEmpty && !ports.contains true

/-- A side of the rectangle that a tile's port of side k leaves. -/
def leavesRect (h : Header) (p : Nat × Nat) (k : Nat) : Bool :=
  match k with
  | 0 => p.2 = 0
  | 1 => p.1 + 1 = h.width
  | 2 => p.2 + 1 = h.height
  | _ => p.1 = 0

/-- A PHASE section that R103's step 4 refuses by its own rows. -/
def Img.phaseBad (img : Img) (cols : Nat) (c : Sect) : Bool :=
  match Config.phaseSection (img.body c) with
  | none => true
  | some items => items.any fun it =>
    !relOk it.1 || outside img.header false it.1 || it.2.2.any (fun f => 7 < f.1) ||
      (match it.2.1 with
       | none => false
       | some b => 1024 < b.2.length || b.2.any rowBad
           || (relPlaces it.1).any fun p => bankBad b.2 (outfOf (img.windows c.modl) p.1 p.2)
                || (List.range 4).any fun k => leavesRect img.header p k && b.2.any (rowNames · k) && portLost cols img.header p k)

/-! #### Reduction trees (R160, R167, R272, log 16, DEDUCED) -/

/-- The rows of a relative tile in a bank. -/
def tileBank (ps : List Config.PhaseItem) (b x y : Nat) : List (BitVec 40) :=
  ((ps.filterMap fun it => match it.2.1 with
    | some r => if inRel it.1 x y && r.1.toNat = b then some r.2 else none
    | none => none).getLast?).getD []

/-- Its row at a count, the banks repeating for ever. -/
def treeRow (ps : List Config.PhaseItem) (b x y : Nat) (n : Int) : BitVec 40 :=
  let rows := tileBank ps b x y
  rows.getD ((n % (rows.length : Int)).toNat) 0

/-- RFMT[RFX] of a row of a relative tile. -/
def treeFmt (ps : List Config.PhaseItem) (x y : Nat) (w : BitVec 40) : Word :=
  maskRfmt ((((ps.filter fun it => inRel it.1 x y).flatMap (·.2.2)).filter (·.1 = (rowRfx w).toNat)).foldl (fun _ f => f.2) 0)

/-- A row of a tree: LSB, HEAD, T. -/
structure TreeRow where
  lsb  : BitVec 9
  head : Nat
  len  : Nat
  deriving DecidableEq, Repr

def treeRowOf (ps : List Config.PhaseItem) (x y : Nat) (w : BitVec 40) : TreeRow :=
  let f := treeFmt ps x y w
  { lsb := f.extractLsb' 0 9, head := (f.extractLsb' 10 6).toNat, len := rowT w }

/-- H > P − 1. -/
def TreeRow.tooHigh (r : TreeRow) : Bool := 4 * r.len - 2 < r.head

/-- What the trees of an image are traced through: its PHASE items by module, the rectangle, the bank, and what joins a module's towline edge
port (R167). -/
structure Forest where
  ps : Nat → List Config.PhaseItem
  w  : Nat
  h  : Nat
  b  : Nat
  far : Nat × Nat × Nat × Nat → Option ((Nat × Nat × Nat × Nat) × Nat)

/-- The contributions of the token on input k (0 N, 1 E, 2 S, 3 W, 4 L) of a relative tile of module m at count n, and T of the reduction it last
came through; `fuel` bounds the routers traced. A feeder core's token counts at its edge tile's row; a reduction of any kind passes on every
injection that reaches it. -/
def treeIn (fo : Forest) : Nat → Nat → Nat → Nat → Nat → Int → List TreeRow × Option Nat
  | 0, _, _, _, _, _ => ([], none)
  | fuel + 1, m, x, y, k, n =>
    let from_ : Option ((Nat × Nat × Nat × Nat) × Int) :=
      match k with
      | 0 => if y = 0 then none else some ((m, x, y - 1, 2), if y / 32 = (y - 1) / 32 then 1 else 3)
      | 1 => if x + 1 = fo.w then (fo.far (m, x, y, 1)).map fun e => (e.1, e.2) else some ((m, x + 1, y, 3), if x / 31 = (x + 1) / 31 then 1 else 3)
      | 2 => if y + 1 = fo.h then none else some ((m, x, y + 1, 0), if y / 32 = (y + 1) / 32 then 1 else 3)
      | 3 => if x = 0 then (fo.far (m, x, y, 3)).map fun e => (e.1, e.2) else some ((m, x - 1, y, 1), if x / 31 = (x - 1) / 31 then 1 else 3)
      | _ => none
    match from_ with
    | none => if k = 1 || k = 3 then ([], none) else ([treeRowOf (fo.ps m) x y (treeRow (fo.ps m) fo.b x y n)], none)
    | some ((qm, qx, qy, out), hop) =>
      let r := treeRow (fo.ps qm) fo.b qx qy (n - hop - 1)
      if rowRed r ≠ 0 && rowSrc r out = 6 then
        ((maskPorts (rowMask r)).flatMap fun j => (treeIn fo fuel qm qx qy j (n - hop - 1)).1, some (rowT r))
      else
        let src := rowSrc (treeRow (fo.ps qm) fo.b qx qy (n - hop)) out
        if src = 0 || 5 < src then ([], none) else treeIn fo fuel qm qx qy (src - 1) (n - hop)

/-- A row of module m at count n that reduces or ejects what R160, R167 or R272 refuses. -/
def treeBad (fo : Forest) (modules : Nat) (outf : Nat → Nat) (m x y : Nat) (r : BitVec 40) (n : Int) : Bool :=
  let fuel := 2 * fo.w * fo.h * modules + 2
  let own := treeRowOf (fo.ps m) x y r
  let l := rowSrc r 4
  let red := (rowRed r).toNat
  let sum := (maskPorts (rowMask r)).flatMap fun j => (treeIn fo fuel m x y j n).1
  (1 ≤ red && red ≤ 3 && (2 ^ own.head < sum.length || own.tooHigh || sum.any TreeRow.tooHigh || (l = 6 && sum.any (·.lsb ≠ own.lsb))))
    || (1 ≤ l && l ≤ 4 &&
        (match treeIn fo fuel m x y (l - 1) n with
         | (_, none) => false
         | (ls, some t) => ls.any (·.lsb ≠ own.lsb) || (outf (rowEjd r).toNat ≠ 0 && t ≠ own.len)))

/-- A PHASE section with a row that its trees refuse; `far` joins towline edge ports. -/
def Img.treesBad (img : Img) (far : Nat × Nat × Nat × Nat → Option ((Nat × Nat × Nat × Nat) × Nat)) (c : Sect) : Bool :=
  let hd := img.header
  ((Config.phaseSection (img.body c)).getD []).any fun it => match it.2.1 with
    | none => false
    | some (b, rows) =>
      let live := rows.zipIdx.filter fun q => rowRed q.1 ≠ 0 || (1 ≤ rowSrc q.1 4 && rowSrc q.1 4 ≤ 4)
      if live.isEmpty then false
      else
        let tiles := (List.range hd.width).flatMap fun x => (List.range hd.height).map fun y => (x, y)
        let lens := (List.range hd.modules).flatMap fun m => tiles.map fun p => (tileBank (img.phases m) b.toNat p.1 p.2).length
        let period := lens.foldl (fun a n => if n = 0 then a else Nat.lcm a n) 1
        let fo : Forest := { ps := img.phases, w := hd.width, h := hd.height, b := b.toNat, far := far }
        (tiles.filter fun p => inRel it.1 p.1 p.2).any fun p => live.any fun q => (List.range (period / rows.length)).any fun j =>
          treeBad fo hd.modules (outfOf (img.windows c.modl) p.1 p.2) c.modl p.1 p.2 q.1 ((q.2 + j * rows.length : Nat) : Int)

/-! #### GROUP (R133, R134) -/

/-- A group: its number, control fields 1619:1536, and receivers as x, y, lane and set. -/
abbrev GroupItem := BitVec 8 × BitVec 84 × List (Nat × Nat × BitVec 2 × BitVec 3)
def GroupItem.valid (g : GroupItem) : Bool := g.2.1.getLsbD 83
def GroupItem.deals (g : GroupItem) : Bool := g.2.1.getLsbD 82
def GroupItem.fmt (g : GroupItem) : BitVec 4 := g.2.1.extractLsb' 78 4
def GroupItem.bsz (g : GroupItem) : BitVec 3 := g.2.1.extractLsb' 75 3
def GroupItem.wm1 (g : GroupItem) : BitVec 3 := g.2.1.extractLsb' 72 3
def GroupItem.lam0 (g : GroupItem) : BitVec 4 := g.2.1.extractLsb' 68 4

/-- The 4-byte receiver item at an image offset: x, y, lane in bits 1:0 and set in bits 4:2 of byte 2 (R133). -/
def Img.receiver (img : Img) (o : Nat) : Nat × Nat × BitVec 2 × BitVec 3 :=
  (img.num o 1, img.num (o + 1) 1, BitVec.ofNat 2 (img.num (o + 2) 1), BitVec.ofNat 3 (img.num (o + 2) 1 / 4))
/-- A receiver item with a reserved bit set. -/
def Img.receiverBad (img : Img) (o : Nat) : Bool := 31 < img.num (o + 2) 1 || img.num (o + 3) 1 ≠ 0

/-- The groups of one GROUP section. -/
def Img.sectGroups (img : Img) (c : Sect) : List GroupItem :=
  ((Config.groupSection (img.body c)).getD []).map fun g =>
    (g.1, g.2.1, (List.range g.2.2.2).map fun i => img.receiver (c.off + g.2.2.1 + 4 * i))

def Img.groups (img : Img) (modl : Nat) : List GroupItem :=
  (img.sections.filter fun c => c.kind = 4 && c.modl = modl).flatMap img.sectGroups

/-- The bounds of R134 for one group. -/
def groupCrowded (g : GroupItem) : Bool :=
  (List.range 4).any fun lane => (List.range 8).any fun set => (List.range 8).any fun rc =>
    let mine := g.2.2.filter fun r => r.2.2.1.toNat = lane && r.2.2.2.toNat = set && r.1 / 31 = rc
    let at_ (j : Nat) := (mine.filter fun r => r.1 % 31 = j)
    (List.range 32).any (fun p => 63 < ((at_ p).map (·.2.1) ++ (if p = 0 then [] else (at_ (p - 1)).map (·.2.1))).eraseDups.length)
      || (List.range 4).any fun q => 64 < (mine.filter fun r => 8 * q ≤ r.1 % 31 + 1 && r.1 % 31 ≤ 8 * q + 7).length

/-- A VALID group that R130 refuses: a reserved FMT, wavelengths past 15, two receivers of one tile, lane and set, a set in BROADCAST, or a
receiver outside the rectangle. WGMASK and the rungs are the loader's (R300). -/
def GroupItem.refused (h : Header) (g : GroupItem) : Bool :=
  7 < g.fmt.toNat || 15 < g.lam0.toNat + g.wm1.toNat || g.2.2.eraseDups.length ≠ g.2.2.length
    || g.2.2.any fun r => h.width ≤ r.1 || h.height ≤ r.2.1 || (r.2.2.2 ≠ 0 && !g.deals)

/-- Feeders that a receiver is charged at, as side, reach column and position: those of the physical local columns j and j + 1 (R136). -/
def chargedAt (r : Nat × Nat × BitVec 2 × BitVec 3) : List (Nat × Nat × Nat) :=
  [r.1 % 31, r.1 % 31 + 1].map fun p => (r.2.2.1.toNat / 2, r.1 / 31, p / 8)

/-- The charge of a module's VALID groups exceeds 192 KiB at some feeder (R136). -/
def replayOver (gs : List GroupItem) : Bool :=
  let mine := gs.filter (·.valid)
  let at_ (g : GroupItem) : List (Nat × Nat × Nat) := g.2.2.flatMap chargedAt
  (mine.flatMap at_).eraseDups.any fun k => 384 < ((mine.filter fun g => (at_ g).contains k).map fun g => g.bsz.toNat + 1).foldl (· + ·) 0

/-- A GROUP section that step 4 refuses (R130, R133, R134, R136). -/
def Img.groupBad (img : Img) (c : Sect) : Bool :=
  match Config.groupSection (img.body c) with
  | none => true
  | some raw => raw.any (fun g => c.len < g.2.2.1 + 4 * g.2.2.2 || (List.range g.2.2.2).any fun i => img.receiverBad (c.off + g.2.2.1 + 4 * i))
      || (img.sectGroups c).any (fun g => groupCrowded g || (g.valid && g.refused img.header)) || replayOver (img.groups c.modl)

/-! #### TAP, DATA, ENTRY, PIN, LINK -/

/-- A TAP item: rectangle, writes of TAPCFG and ARRMAP by index, weir window. -/
abbrev TapItem := RelRect × List (Nat × Word) × List (Nat × Word) × Option (BitVec 4)
def Img.sectTaps (img : Img) (c : Sect) : List TapItem := (Config.tapSection (img.body c)).getD []
/-- A module's TAP items that name a tile. -/
def Img.tapsAt (img : Img) (modl x y : Nat) : List TapItem :=
  ((img.sections.filter fun c => c.kind = 5 && c.modl = modl).flatMap img.sectTaps).filter fun t => inRel t.1 x y

/-- TAPCFG and ARRMAP as a tile's items leave them. -/
def tapTable (taps : List TapItem) : Vector Word 8 :=
  (taps.flatMap (·.2.1)).foldl (fun (v : Vector Word 8) y => v.set (Fin.ofNat 8 y.1) y.2) (Vector.replicate 8 0)
def mapTable (taps : List TapItem) : Vector Word 8 :=
  (taps.flatMap (·.2.2.1)).foldl (fun (v : Vector Word 8) y => v.set (Fin.ofNat 8 y.1) (mapWritten y.2)) (Vector.replicate 8 0)

/-- An enabled ARRMAP that lacks a tuned tap for a wavelength, or differs from its group of the image (R139, R140). -/
def mapUnfit (taps : Vector Word 8) (gs : List GroupItem) (x y : Nat) (m : Word) : Bool :=
  let lane : BitVec 2 := m.extractLsb' 14 2
  let lam0 := (m.extractLsb' 16 4).toNat
  let w := (m.extractLsb' 20 3).toNat
  let tuned (l : Nat) : Bool := taps.toList.any fun t => t.getLsbD 7 && t.extractLsb' 4 2 == lane && (t.extractLsb' 0 4).toNat == l
  m.getLsbD 47 && (15 < lam0 + w || (List.range (w + 1)).any (fun k => !tuned (lam0 + k))
    || gs.any fun g => g.1 == m.extractLsb' 0 8 &&
      (let mine := g.2.2.filter fun r => r.1 == x && r.2.1 == y
       g.fmt ≠ m.extractLsb' 26 4 || g.bsz ≠ m.extractLsb' 23 3 || g.wm1 ≠ m.extractLsb' 20 3 || g.lam0 ≠ m.extractLsb' 16 4
        || (!mine.isEmpty && !mine.any fun r => r.2.2.1 == lane)))

/-- A TAP section that step 4 refuses: by its own values, or by what it gives a tile (R139, R140, R145). -/
def Img.tapBad (img : Img) (c : Sect) : Bool :=
  let bad (t : TapItem) : Bool := !relOk t.1 || outside img.header false t.1 || t.2.1.any (fun x => 7 < x.1 || tapRefused x.2)
    || t.2.2.1.any fun x => 7 < x.1 || mapReserved x.2
  let unfit (t : TapItem) (p : Nat × Nat) : Bool :=
    let taps := img.tapsAt c.modl p.1 p.2
    (mapTable taps).toList.any (mapUnfit (tapTable taps) (img.groups c.modl) p.1 p.2)
      || t.2.2.2.any fun w =>
          let d : WinDesc := (winTable (img.windows c.modl) 0 p.1 p.2)[w.toNat]'(by omega)
          !d.valid || d.size < 4096
  (Config.tapSection (img.body c)).isNone || (img.sectTaps c).any fun t => bad t || (relPlaces t.1).any (unfit t)

/-- A DATA section: rectangle, target, window, offset, bytes. -/
def Img.datas (img : Img) (modl : Nat) : List (RelRect × Nat × Nat × Nat × List Byte) :=
  (img.sections.filter fun c => c.kind = 2 && c.modl = modl).flatMap fun c => (Config.dataSection (img.body c)).getD []

structure EntryRec where
  at_  : Nat
  role : Nat
  keeper : Bool
  rect : RelRect
  addr : Nat
  deriving DecidableEq, Repr

def Img.entries (img : Img) (modl : Nat) : List EntryRec :=
  (img.sections.filter fun c => c.kind = 10 && c.modl = modl).flatMap fun c =>
    (List.range (c.len / 16)).map fun i =>
      let e := c.off + 16 * i
      { at_ := e, role := img.num e 1, keeper := img.num (e + 1) 1 == 1, rect := img.rect (e + 4), addr := img.num (e + 8) 4 }

def EntryRec.names (e : EntryRec) (role x y : Nat) : Bool :=
  e.role = role && (if isFeederRole role then e.rect.1 ≤ x && x ≤ e.rect.2.2.1 && e.rect.2.1 = y else inRel e.rect x y)

def Img.entryBad (img : Img) (e : EntryRec) : Bool :=
  5 < e.role || 1 < img.num (e.at_ + 1) 1 || img.num (e.at_ + 2) 2 ≠ 0 || img.num (e.at_ + 12) 4 ≠ 0 || e.addr % 8 ≠ 0 || Config.storeSize ≤ e.addr

/-- Two records of one kind cover one core. -/
def entriesMeet (a b : EntryRec) : Bool :=
  a.role == b.role && a.keeper == b.keeper &&
    (if isFeederRole a.role then a.rect.1 ≤ b.rect.2.2.1 && b.rect.1 ≤ a.rect.2.2.1 && a.rect.2.1 = b.rect.2.1 else relMeets a.rect b.rect)

/-- Places of a code section: relative tiles, or columns and the side row. -/
def Code.places (c : Code) : List (Nat × Nat) :=
  (List.range (c.rect.2.2.1 + 1 - c.rect.1)).flatMap fun i => (List.range (c.rect.2.2.2 + 1 - c.rect.2.1)).map fun j => (c.rect.1 + i, c.rect.2.1 + j)

def Code.roles (c : Code) : List Nat := if c.core = 6 then [0, 1] else [c.core]

/-- A core named without a start record. -/
def Img.startMissing (img : Img) (c : Code) : Bool :=
  c.roles.any fun role => c.places.any fun p => !(img.entries c.sect.modl).any fun e => !e.keeper && e.names role p.1 p.2

/-- Two code sections load overlapping bytes into one store. -/
def Img.codesMeet (img : Img) (a b : Code) : Bool :=
  a.sect.entry != b.sect.entry && a.sect.modl == b.sect.modl && isFeederRole a.core == isFeederRole b.core
    && (!isFeederRole a.core || a.core == b.core) &&
    a.places.any fun p =>
      let role := if isFeederRole a.core then a.core else 0
      (if isFeederRole role then b.names role p.1 p.2 else inRel b.rect p.1 p.2) &&
        (let t := winTable (img.windows a.sect.modl) role p.1 p.2
         let x := WinDesc.base (t[Fin.ofNat 16 a.win])
         let y := WinDesc.base (t[Fin.ofNat 16 b.win])
         x < y + (b.sect.len - 16) && y < x + (a.sect.len - 16))

/-- PIN: records of 16 bytes, the global address first (R100). -/
def Img.pins (img : Img) (modl : Nat) : List (Word × Nat × Bool × Bool × Bool) :=
  (img.sections.filter fun c => c.kind = 8 && c.modl = modl).flatMap fun c => (List.range (c.len / 16)).map fun i =>
    (BitVec.ofNat 64 (img.num (c.off + 16 * i) 8), Config.pinFields (img (c.off + 16 * i + 8) 8))
/-- LINK: pairs of module index and towline (R100). -/
def Img.links (img : Img) : List (Nat × Nat) :=
  (img.sections.filter (·.kind = 9)).flatMap fun c => (List.range (c.len / Config.linkSize)).map fun i =>
    Config.linkPair (img (c.off + Config.linkSize * i) Config.linkSize)

/-! ### Step 4 of R103 -/

/-- The item of a section that step 4 refuses by itself. -/
def Img.itemBad (img : Img) (cols : Nat) (c : Sect) : Option (Bool × Nat) :=
  let h := img.header
  let lost : Option (Bool × Nat) := some (false, c.off + Config.badItem c.kind (img.body c))
  match c.kind with
  | 1 => img.codes.findSome? fun k =>
      if k.sect.entry ≠ c.entry then none
      else if img.codeBad k then some (false, c.off)
      else if outside h (isFeederRole k.core) k.rect then some (true, c.off) else none
  | 2 => match Config.dataSection (img.body c) with
      | none => lost
      | some l => l.findSome? fun x =>
        let feeder := isFeederRole x.2.1
        if !relOk x.1 || 15 < x.2.2.1 || !(x.2.1 = 0 || feeder) then lost
        else if outside h feeder x.1 then some (true, c.off) else none
  | 3 => (img.windowGroups c.off c.len (c.len / 16 + 1)).findSome? fun g =>
      (img.groupRecBad (winTable (img.windows c.modl) (if g.target = 0xFF then 0 else g.target) g.rect.1 g.rect.2.1) g).map fun o => (false, o)
  | 4 => if img.groupBad c then lost else none
  | 5 => if img.tapBad c then lost else none
  | 6 => if img.phaseBad cols c then lost else none
  | 8 => if c.len % 16 ≠ 0 then some (false, c.off) else none
  | 9 => if c.len % Config.linkSize ≠ 0 then some (false, c.off) else none
  | 10 => if c.len % 16 ≠ 0 then some (false, c.off)
      else (img.entries c.modl).findSome? fun e => if img.entryBad e then some (false, e.at_) else none
  | _ => none

/-- The item of a section that step 4 refuses beside the others: code that meets other code or has no start, start records that meet. -/
def Img.pairBad (img : Img) (c : Sect) : Option (Bool × Nat) :=
  match c.kind with
  | 1 => img.codes.findSome? fun k =>
      if k.sect.entry = c.entry && (img.codes.any (img.codesMeet k) || img.startMissing k) then some (false, c.off) else none
  | 10 => (img.entries c.modl).findSome? fun e =>
      if (img.entries c.modl).any (fun d => d.at_ != e.at_ && entriesMeet e d) then some (false, e.at_) else none
  | _ => none

/-- The first entry or item that step 4 refuses: whether by RANGE, and its image offset. Table entries are checked first, then every item by
itself, then items against one another (log 16, DEDUCED). `cols`: columns of the grade's grid; `addr`: the image's address. -/
def Img.contentsBad (img : Img) (cols : Nat) (addr : Word) (len : Nat) : Option (Bool × Nat) :=
  let h := img.header
  let all := img.sections
  let tree (c : Sect) : Option (Bool × Nat) :=
    if c.kind = 6 && img.treesBad (Config.farPort addr) c then some (false, c.off + Config.badItem c.kind (img.body c)) else none
  match all.findSome? (fun c => if img.sectBad len all c then some (false, c.entry) else none), all.findSome? (img.itemBad cols),
    all.findSome? img.pairBad, all.findSome? tree with
  | some x, _, _, _ => some x
  | none, some x, _, _ => some x
  | none, none, some x, _ => some x
  | none, none, none, some x => some x
  | none, none, none, none => if img.codes.isEmpty then some (false, h.sectab) else none

/-! ### Variants (R114, R115) -/

def Img.variantAt (img : Img) (e : Nat) : Variant :=
  { cls := BitVec.ofNat 3 (img.num e 1), index := img.num (e + 1) 1, bank := BitVec.ofNat 2 (img.num (e + 2) 1), length := BitVec.ofNat 32 (img.num (e + 4) 4),
    cap := (List.range 8).map fun g => BitVec.ofNat 16 (img.num (e + 8 + 2 * g) 2), est := BitVec.ofNat 16 (img.num (e + 24) 2) }

/-- Offsets of a module's variant entries. -/
def Img.variantOffs (img : Img) (modl : Nat) : List Nat :=
  (img.sections.filter fun c => c.kind = 7 && c.modl = modl).flatMap fun c => (List.range (c.len / 32)).map fun i => c.off + 32 * i
def Img.variants (img : Img) : List Variant := (img.variantOffs 0).map img.variantAt

/-- Every capacity of one list is at most that of the other. -/
def capsRise (a b : List (BitVec 16)) : Bool := (a.zip b).all fun x => x.1.toNat ≤ x.2.toNat

/-- Step 7: the offset of the first variant entry refused. Where a module's entries agree with those of MODIDX 0 as far as both go, the first
entry that only one of them has differs (log 16, DEDUCED). -/
def Img.variantsBad (img : Img) : Option Nat :=
  let offs := img.variantOffs 0
  let vs := img.variants
  let banks (m : Nat) : List (BitVec 2) := (img.phases m).filterMap fun p => p.2.1.map (·.1)
  let bad (e : Nat) : Bool :=
    let v := img.variantAt e
    7 < img.num e 1 || 7 < v.index || 3 < img.num (e + 2) 1 || img.num (e + 3) 1 ≠ 0 || img.num (e + 26) 6 ≠ 0
      || 1 < vs.countP (fun w => w.cls == v.cls && w.index == v.index)
      || (v.index ≠ 0 && !vs.any fun w => w.cls == v.cls && w.index + 1 == v.index)
      || vs.any (fun w => w.cls == v.cls && w.index < v.index && !capsRise w.cap v.cap)
      || (List.range img.header.modules).any fun m => !(banks m).contains v.bank
  let copies : Option Nat := (List.range img.header.modules).findSome? fun m =>
    let mine := img.variantOffs m
    ((mine.zip offs).findSome? fun x => if img x.1 32 = img x.2 32 then none else some x.1) <|>
      (mine.drop offs.length ++ offs.drop mine.length).head?
  match offs.find? bad with
  | some e => some e
  | none => copies

end Sys2Proof.Machine
end

