-- ==== Sys2Proof/Machine/Shake.lean ====
section
/-! DEFINITION. SHAKE256 (the function spec 01 R20 and 04 R97, R98 name), up to one block of output, and what the module hashes with it: grid
fingerprint and measurements. -/

namespace Sys2Proof.Machine

/-- The Keccak state: lane (x, y) at x + 5 y. -/
abbrev Lanes := Vector Word 25

def klane (a : Lanes) (x y : Nat) : Word := a[Fin.ofNat 25 (x % 5 + 5 * (y % 5))]
def byLane (f : Nat → Nat → Word) : Lanes := Vector.ofFn fun i => f (i.val % 5) (i.val / 5)

/-- Rotation of each lane in rho, row by row. -/
def rhoTab : List Nat :=
  [0, 1, 62, 28, 27, 36, 44, 6, 55, 20, 3, 10, 43, 25, 39, 41, 45, 15, 21, 8, 18, 2, 61, 56, 14]

/-- Round constants. -/
def roundConsts : List Word :=
  [0x1, 0x8082, 0x800000000000808A, 0x8000000080008000, 0x808B, 0x80000001, 0x8000000080008081, 0x8000000000008009,
   0x8A, 0x88, 0x80008009, 0x8000000A] ++
  [0x8000808B, 0x800000000000008B, 0x8000000000008089, 0x8000000000008003, 0x8000000000008002, 0x8000000000000080,
   0x800A, 0x800000008000000A, 0x8000000080008081, 0x8000000000008080, 0x80000001, 0x8000000080008008]

/-- One round. -/
def keccakRound (a : Lanes) (rc : Word) : Lanes :=
  let c (x : Nat) : Word := klane a x 0 ^^^ klane a x 1 ^^^ klane a x 2 ^^^ klane a x 3 ^^^ klane a x 4
  let cs : Vector Word 5 := Vector.ofFn fun i => c i.val
  let cAt (x : Nat) : Word := cs[Fin.ofNat 5 x]
  let t := byLane fun x y => (klane a x y ^^^ cAt (x + 4) ^^^ (cAt (x + 1)).rotateLeft 1).rotateLeft (rhoTab.getD (x + 5 * y) 0)
  let b := byLane fun x y => klane t (x + 3 * y) x
  let e := byLane fun x y => klane b x y ^^^ (~~~(klane b (x + 1) y) &&& klane b (x + 2) y)
  e.set 0 (e[0] ^^^ rc)

def keccak (a : Lanes) : Lanes := roundConsts.foldl keccakRound a

/-- Bytes of one block of SHAKE256. -/
def shakeRate : Nat := 136

/-- The state with a block taken in. -/
def absorbBlock (a : Lanes) (b : List Byte) : Lanes :=
  keccak (Vector.ofFn fun i => a[i] ^^^ BitVec.ofNat 64 (leNat ((b.drop (8 * i.val)).take 8)))

/-- Take in n blocks, then the padded rest. -/
def absorb (a : Lanes) (bs : List Byte) : Nat → Lanes
  | 0 =>
    let pad := bs ++ [0x1F] ++ List.replicate (shakeRate - 1 - bs.length) 0
    absorbBlock a (pad.set (shakeRate - 1) (pad.getD (shakeRate - 1) 0 ||| 0x80))
  | n + 1 => absorb (absorbBlock a (bs.take shakeRate)) (bs.drop shakeRate) n

/-- The first n bytes of SHAKE256, n up to 136. -/
def shake256 (bs : List Byte) (n : Nat) : List Byte :=
  ((absorb (Vector.replicate 25 0) bs (bs.length / shakeRate)).toList.flatMap fun w => leBytes 8 w.toNat).take n

/-- A 32-byte digest, its first byte lowest. -/
def digest (bs : List Byte) : BitVec 256 := BitVec.ofNat 256 (leNat (shake256 bs 32))

/-- The grid descriptor (R20). -/
def gridDescriptor (grade : BitVec 16) (cols : Nat) : List Byte :=
  leBytes 16 (grade.toNat + cols * 2 ^ 16 + 192 * 2 ^ 32 + 31 * 2 ^ 48 + 32 * 2 ^ 56 + 1 * 2 ^ 64)

def State.gridBytes (s : State) : List Byte := gridDescriptor s.grade (if s.grade = 0x0936 then 217 else 248)

/-- The grid fingerprint (R20). -/
def State.fingerprint (s : State) : Word := BitVec.ofNat 64 (leNat (shake256 s.gridBytes 8))

end Sys2Proof.Machine
end

