-- ==== Sys2Proof/Machine/Launch.lean ====
section
/-! DEFINITION. LAUNCH and RESUME: the checks in their order, the bind, and binds that span modules (spec 05 R99 to R105, R108, R110, R118;
07 R154, R155; 02 R52; 03 R58). -/

namespace Sys2Proof.Machine

/-! ### Launch options (R101) -/

def optMods (w : Word) : BitVec 32 := w.extractLsb' 32 32
def optOrigin (w : Word) : Nat × Nat := ((w.extractLsb' 8 3).toNat, (w.extractLsb' 12 3).toNat)
def optEclass (w : Word) : BitVec 4 := w.extractLsb' 4 4
def optFixed (w : Word) : Bool := w.getLsbD 3
def optOnfault (w : Word) : Bool := w.getLsbD 2
def optPrio (w : Word) : BitVec 2 := w.extractLsb' 0 2

/-- Modules a launch from flight module `home` takes part in: 0 names the issuing module alone. -/
def launchMods (w : Word) (home : BitVec 5) : BitVec 32 := if optMods w = 0 then (1 : BitVec 32) <<< home.toNat else optMods w
/-- Flight numbers of a set of modules, rising. -/
def modList (m : BitVec 32) : List Nat := (List.range 32).filter (m.getLsbD ·)

/-! ### Origins (R102, R154, R155) -/

/-- An edge output or input that R154 connects; a towline's is the crew's only when LINK names it. -/
def State.edgeJoins (s : State) (links : List Nat) (id k : Nat) : Bool :=
  if k % 2 = 0 then s.xOf id % 31 % 8 = 0 && (s.neighbour id k).isNone
  else (s.towlineAt id k).any fun t => links.contains t.1

/-- A rectangle of w by h fits the grid from a reach corner. -/
def State.fits (s : State) (w h : Nat) (o : Nat × Nat) : Bool :=
  o.1 < s.cols / 31 && o.2 < 6 && 31 * o.1 + w ≤ s.cols && 32 * o.2 + h ≤ 192

/-- An origin is usable: the rectangle fits, and each way out of it that the rows name is a connected edge port. -/
def State.usable (s : State) (img : Img) (modl : Nat) (links : List Nat) (o : Nat × Nat) : Bool :=
  let h := img.header
  s.fits h.width h.height o && (img.phases modl).all fun it =>
    match it.2.1 with
    | none => true
    | some b => (relPlaces it.1).all fun p =>
        (List.range 4).all fun k => !leavesRect h p k || !b.2.any (rowNames · k) || s.edgeJoins links (s.idOf (31 * o.1 + p.1) (32 * o.2 + p.2)) k

/-- Origins in the order of their logical tile id. -/
def origins : List (Nat × Nat) := (List.range 6).flatMap fun oy => (List.range 8).map fun ox => (ox, oy)

/-- Towlines of this module that LINK names for a module index. -/
def Img.linksOf (img : Img) (modl : Nat) : List Nat := ((img.links.filter (·.1 = modl)).map (·.2)).eraseDups

/-! ### Latencies fixed at bind (R58, R117, R118) -/

/-- Counts between two tiles at relative places (R161). (log 25, DEDUCED) -/
def pathCounts (x0 y0 x1 y1 : Nat) : Nat :=
  (x1 - x0) + (x0 - x1) + (y1 - y0) + (y0 - y1) + 2 * ((x1 / 31 - x0 / 31) + (x0 / 31 - x1 / 31) + (y1 / 32 - y0 / 32) + (y0 / 32 - y1 / 32))

/-- Largest static latency to the tile at L(0,0): the far corner's, with injection and ejection; of members elsewhere what the anchor's
loader finds (log 1, DESIGN CHOICE). (log 25, DEDUCED) -/
def Img.dmax (img : Img) (a : Word) : Nat :=
  let h := img.header
  let near := 4 + pathCounts 0 0 (h.width - 1) (h.height - 1)
  if h.modules = 1 then near else max near (Config.farLatency a)

def State.horizonOf (s : State) (img : Img) (links : List Nat) : Nat :=
  if img.header.modules = 1 then 64 else 64 + (links.map fun t => (s.towline t).lat.toNat).foldl max 0

def selLat (dmax horizon : Nat) : Nat := dmax + 8 + max dmax horizon

/-! ### Checks (R103) -/

def LaunchNo.result (n : LaunchNo) : Word := n.grade ++ (0 : BitVec 40) ++ n.detail

/-- What a bind is asked for. -/
structure BindAsk where
  asid   : BitVec 16
  addr   : Word
  length : Nat
  opts   : Word
  /-- flight numbers of the crew's modules -/
  mods   : BitVec 32
  modIdx : Nat
  deriving DecidableEq, Repr

def range64 (detail : BitVec 8) (log : Nat) : LaunchNo := { status := Status.range, detail := detail, log := BitVec.ofNat 64 log }

/-- Step 1: the first byte of the image that the ASID does not map in the weight store of this module. -/
def State.imageUnread (s : State) (q : BindAsk) : Option LaunchNo :=
  let first := q.addr.toNat / 2 ^ 21
  let last := (q.addr.toNat + (q.length - 1)) / 2 ^ 21
  (List.range (last + 1 - first)).findSome? fun i =>
    let a := max q.addr.toNat ((first + i) * 2 ^ 21)
    let w := BitVec.ofNat 64 a
    if gMod w = s.modNum && gSpace w = 1 && (s.pageOf q.asid w).isSome then none else some { range64 0x01 0 with log := w }

/-- Step 3. A module out of service has no grade that an image could name (R29, log 51, DESIGN CHOICE). -/
def State.gradeBad (s : State) (h : Header) : Option LaunchNo :=
  if s.gradeOf.isSome && h.grade = s.grade.toNat && h.fprint = s.fingerprint then none
  else some { status := Status.grade, detail := 0x03, log := h.fprint, grade := BitVec.ofNat 16 h.grade }

/-- Step 5: MODS, the issuing module lowest, all in this flight. -/
def State.modsBad (s : State) (h : Header) (q : BindAsk) : Option LaunchNo :=
  let l := modList q.mods
  let own := s.flight.toNat
  if l.length = h.modules && l.head? = some own && l.all (fun m => m = own || s.lh.flightMods.getLsbD m) then none
  else some (range64 0x05 (optMods q.opts).toNat)

/-- Step 6: the rectangle and its origin. -/
def State.rectBad (s : State) (img : Img) (q : BindAsk) : Option LaunchNo :=
  let h := img.header
  let ok (o : Nat × Nat) : Bool := s.usable img q.modIdx (img.linksOf q.modIdx) o
  if 1 ≤ h.width && h.width ≤ 248 && 1 ≤ h.height && h.height ≤ 192 && (if optFixed q.opts then ok (optOrigin q.opts) else origins.any ok) then none
  else some (range64 0x06 (h.width * 2 ^ 16 + h.height))

/-- Step 9: a LINK towline from this module to every other one of the crew. LOGADDR holds the two flight numbers in 5 bits each, the smaller one high
(R103, log 53, DESIGN CHOICE). -/
def State.linkBad (s : State) (img : Img) (q : BindAsk) : Option LaunchNo :=
  let own := s.flight.toNat
  (modList q.mods).findSome? fun m =>
    if m = own || (img.linksOf q.modIdx).any (fun t => (s.towline t).up && (s.towline t).peer.toNat = m) then none
    else some (range64 0x09 (min own m * 32 + max own m))

/-- Step 10. -/
def State.latencyBad (s : State) (img : Img) (q : BindAsk) : Option LaunchNo :=
  let hz := s.horizonOf img (img.linksOf q.modIdx)
  let sl := selLat (img.dmax q.addr) hz
  if 65535 < hz then some (range64 0x0A hz) else if 65535 < sl then some (range64 0x0A sl) else none

/-- Step 11: an estimate above the ceiling of the energy class, in 10 W (R120). -/
def ceiling (e : BitVec 4) : Nat := (e.toNat + 1) * 160
def estimateBad (img : Img) (q : BindAsk) : Option LaunchNo :=
  ((img.variantOffs q.modIdx).find? fun e => ceiling (optEclass q.opts) < (img.variantAt e).est.toNat).map fun e => range64 0x0B e

/-- A free slot, and a free local number: the lowest (R105; log 47, DESIGN CHOICE). -/
def State.freeSlot (s : State) : Option Nat := (List.range 256).find? fun n => (lookup? s.lh.slots n).isNone
def State.freeLocal (s : State) : Option (BitVec 11) :=
  ((List.range 2046).find? fun i => !s.lh.localNums.contains (BitVec.ofNat 11 (i + 1))).map fun i => BitVec.ofNat 11 (i + 1)

/-- Step 12. -/
def State.roomBad (s : State) : Option LaunchNo :=
  if s.freeSlot.isSome && s.freeLocal.isSome then none else some { status := Status.noResource, detail := 0x0C, log := 0 }

/-- Pages of a PIN record: page numbers of R50's VPN with MOD and SPACE. -/
def pinPages (p : Word × Nat × Bool × Bool × Bool) : List Nat := (List.range p.2.1).map fun i => gPage p.1 + i

/-- Step 13: the first page that is not mapped with the attributes asked for. -/
def State.pinBad (s : State) (img : Img) (q : BindAsk) : Option LaunchNo :=
  (img.pins q.modIdx).findSome? fun p => (pinPages p).findSome? fun g =>
    let a := BitVec.ofNat 64 (g * 2 ^ 21)
    match s.pageOf q.asid a with
    | some e => if gMod a = s.modNum && (!p.2.2.1 || e.write) && (!p.2.2.2.1 || e.atomic) && (!p.2.2.2.2 || e.repl) then none
        else some { range64 0x0D 0 with log := a }
    | none => some { range64 0x0D 0 with log := a }

/-- The interfaces a pinned page's address reaches: every feeder, and for a window every towline port too (R51, R110). (log 26, DEDUCED) -/
def State.pinIfaces (s : State) (space : BitVec 3) : List Iface :=
  ((List.range 64).filter s.feederOk).map Iface.feeder ++ (if space = 0 then (List.range 64).map Iface.towline else [])

def IfaceState.locked (x : IfaceState) (asid : BitVec 16) (page : Nat) : Bool :=
  x.l1.any fun e => e.locked && e.asid == asid && e.page == page

/-- Pages of a crew's PIN records, with SPACE. -/
def Img.pinList (img : Img) (modl : Nat) : List Nat := ((img.pins modl).flatMap pinPages).eraseDups

/-- Step 14: the first interface that would need a 97th locked entry. (log 26, DEDUCED) -/
def State.lockBad (s : State) (img : Img) (q : BindAsk) : Option LaunchNo :=
  let pages := img.pinList q.modIdx
  let need (i : Iface) : Nat :=
    let x := s.iface i
    x.l1.countP (·.locked) + (pages.filter fun g =>
      (s.pinIfaces (gSpace (BitVec.ofNat 64 (g * 2 ^ 21)))).contains i && !x.locked q.asid g).length
  (((List.range 64).filter fun f => s.feederOk f && lockMax < need (.feeder f)).head?.or
    (((List.range 64).filter fun t => lockMax < need (.towline t)).head?.map (256 + ·))).map fun n =>
      { status := Status.noResource, detail := 0x0E, log := BitVec.ofNat 64 n }

/-- The first refusal of a list of checks. -/
def firstNo : List (Option LaunchNo) → Option LaunchNo
  | [] => none
  | some n :: _ => some n
  | none :: r => firstNo r

/-- Steps that a module other than the anchor's runs (R104): 3 and 6 to 14. Step 8 holds of every image that step 4 accepts: each attachment
port carries at most one flit a cycle (R38). -/
def State.memberNo (s : State) (img : Img) (q : BindAsk) : Option LaunchNo :=
  firstNo [s.gradeBad img.header, s.rectBad img q, img.variantsBad.map fun e => { range64 0x07 e with status := Status.image }, s.linkBad img q,
    s.latencyBad img q, estimateBad img q, s.roomBad, s.pinBad img q, s.lockBad img q]

/-- The checks of R103 in order. -/
def State.launchNo (s : State) (img : Img) (q : BindAsk) : Option LaunchNo :=
  match s.imageUnread q with
  | some n => some n
  | none =>
    let h := img.header
    match img.headerBad q.length with
    | some o => some { range64 0x02 o with status := Status.image }
    | none =>
      match s.gradeBad h with
      | some n => some n
      | none =>
        match img.contentsBad s.cols q.addr q.length with
        | some (r, o) => some { range64 0x04 o with status := if r then Status.range else Status.image }
        | none =>
          match s.modsBad h q with
          | some n => some n
          | none => s.memberNo img q

/-! ### The bind (R108, R110) -/

/-- Locked entries for a crew's pins at every interface they reach. (log 26, DEDUCED) -/
def State.lockPins (s : State) (asid : BitVec 16) (pages : List Nat) : State :=
  pages.foldl (fun s g =>
    (s.pinIfaces (gSpace (BitVec.ofNat 64 (g * 2 ^ 21)))).foldl (fun s i =>
      let x := (s.iface i).use asid g
      s.setIface { x with l1 := x.l1.map fun e => if e.asid = asid && e.page = g then { e with locked := true } else e }) s) s

/-- The slot a bind makes, with what a saved crew brings. -/
def State.newSlot (s : State) (img : Img) (q : BindAsk) (crew : BitVec 16) (old : Option Slot) : Slot :=
  let h := img.header
  let links := img.linksOf q.modIdx
  let hz := s.horizonOf img links
  let dm := img.dmax q.addr
  let base : Slot := old.getD {}
  { base with
    rec_ := { towlines := BitVec.ofNat 64 ((links.map (2 ^ ·)).foldl (· + ·) 0), mods := q.mods, crew := crew, asid := q.asid,
              start := match base.drawn with | some a => a.count | none => 0, horizon := BitVec.ofNat 16 hz, sellat := BitVec.ofNat 16 (selLat dm hz),
              wm1 := BitVec.ofNat 8 (h.width - 1), hm1 := BitVec.ofNat 8 (h.height - 1), image := q.addr.extractLsb' 0 48, save := base.rec_.save,
              eclass := optEclass q.opts, prio := optPrio q.opts, onfault := optOnfault q.opts, fixed := optFixed q.opts, state := .bound }
    variants := img.variants
    modIdx := q.modIdx
    modules := h.modules
    width := h.width
    height := h.height
    dmax := dm
    img := q.addr
    imgLen := q.length
    digest := digest (img 0 q.length)
    links := links
    origin := if optFixed q.opts then some (optOrigin q.opts) else none
    again := none
    pins := (img.pins q.modIdx).map fun p => (gPage p.1, p.2.1)
    ready := false
    pending := 1 < h.modules && q.modIdx = 0
    tiles := []
    feeders := [] }

/-- The slot is written and its pages are pinned; a saved crew's pages are pinned already (R110). -/
def State.bind (s : State) (img : Img) (q : BindAsk) (n : Nat) (crew : BitVec 16) (old : Option Slot) : State :=
  let x := s.newSlot img q crew old
  let s := s.setSlot n x
  let pin (p : PageMap) : PageMap := { p with pins := p.pins + (x.pins.filter fun r => p.asid == q.asid && r.1 ≤ p.page && p.page < r.1 + r.2).length }
  let s := if old.isSome then s else { s with lh := { s.lh with pages := s.lh.pages.map pin } }
  s.lockPins q.asid (img.pinList q.modIdx)

/-- A command that starts a crew: refused, bound here, or bound here and asked of the crew's other modules (R103, R104). -/
def State.startBind (s : State) (c : HostCmd) (q : BindAsk) (old : Option Slot) : State :=
  let img := s.image q.asid q.addr
  match s.launchNo img q with
  | some n => s.complete c n.status n.result n.log
  | none =>
    match s.freeSlot, s.freeLocal with
    | some n, some l =>
      let crew : BitVec 16 := match old with | some x => x.rec_.crew | none => s.flight ++ l
      let s := if old.isSome then s else { s with lh := { s.lh with localNums := l :: s.lh.localNums } }
      let s := s.bind img q n crew old
      if img.header.modules = 1 then (s.completeOk c (crew.zeroExtend 64)).soon .schedulerPass
      else
        let others := (modList q.mods).filter (· ≠ s.flight.toNat)
        let s := { s with lh := { s.lh with binds := s.lh.binds ++ [{ slot := n, qid := c.qid, cid := c.cid, left := (List.range others.length).map (· + 1),
                                                                      refusals := [] }] } }
        let ask (s : State) (m : Nat × Nat) : State :=
          s.tell m.1 (.bindRequest { fromModule := s.modNum, crew := crew, modIdx := m.2 + 1, asid := q.asid, image := q.addr, length := q.length, options := q.opts })
        (others.zipIdx.foldl ask s).keepOpen c
    | _, _ => s.complete c Status.noResource 0x0C 0

/-- A saved crew by its number. -/
def State.savedOf (s : State) (crew : BitVec 16) : Option SavedCrew := s.lh.saved.find? fun v => v.slot.rec_.crew == crew

/-- A bind undone because another module refused it: slot, pins and number go, and no crew ended; a saved crew stays saved, with its pins
(R104, R110). -/
def State.unbind (s : State) (n : Nat) : State :=
  let x := s.slot n
  if (s.savedOf x.rec_.crew).isSome then { s with lh := { s.lh with slots := remove s.lh.slots n } }
  else
    let ps := unpin s.lh.pages x.rec_.asid x.pins
    { s with lh := { s.lh with slots := remove s.lh.slots n, pages := ps, ifaces := unlockFree ps s.lh.ifaces
                               localNums := s.freeNumber x.rec_.crew } }

/-- Nothing is bound before the last step of power-on, while the lockhouse has halted, or while the module is re-graded (R25, R29, R93). -/
def State.mayBind (s : State) : Bool := s.pwr.step == 6 && !s.halted && s.lh.regrading.isNone

/-- BIND_REQUEST: this module runs steps 3 and 6 to 14 for its MODIDX, binds, and answers the anchor's lockhouse (R104), with its HORIZON where it
has bound; a request waits while nothing may be bound. -/
def execBindRequest (b : BindReq) (s : State) : Result :=
  done <|
    let q : BindAsk := { asid := b.asid, addr := b.image, length := b.length, opts := b.options, mods := optMods b.options, modIdx := b.modIdx }
    let img := s.image b.asid b.image
    let answer (s : State) (status : BitVec 8) (result log : Word) : State :=
      s.tell (b.crew.extractLsb' 11 5).toNat (.bindResponse b.crew b.modIdx status result log)
    if !s.mayBind then s.afterTime 1 (.bindRequest b)
    else match s.memberNo img q with
    | some n => answer s n.status n.result n.log
    | none =>
      match s.freeSlot with
      | none => answer s Status.noResource 0x0C 0
      | some n =>
        (answer (s.bind img q n b.crew ((s.savedOf b.crew).map (·.slot))) Status.ok 0
          (BitVec.ofNat 64 (s.horizonOf img (img.linksOf q.modIdx)))).soon .schedulerPass

/-- The crew's HORIZON on every module is the largest that any of them found (R58, R108). -/
def State.setHorizon (s : State) (n : Nat) (h : BitVec 16) : State :=
  s.modSlot n fun x => { x with rec_ := { x.rec_ with horizon := h, sellat := BitVec.ofNat 16 (selLat x.dmax h.toNat) } }

/-- The saved crew that a bind has taken up is saved no longer. -/
def State.takeSaved (s : State) (crew : BitVec 16) : State :=
  { s with lh := { s.lh with saved := s.lh.saved.filter fun v => v.slot.rec_.crew != crew } }

/-- BIND_RESPONSE: once every module has answered, the LAUNCH completes OK or with the refusal of the lowest-numbered refusing module, and
every module releases what it bound (R104). Of an accepting module `addr` holds its HORIZON. -/
def execBindResponse (crew : BitVec 16) (modIdx : Nat) (status : BitVec 8) (result addr : Word) (s : State) : Result :=
  done <|
    match s.slotOfCrew crew with
    | none => s
    | some n =>
      match s.lh.binds.find? fun b => b.slot == n && b.left.contains modIdx with
      | none => s
      | some b =>
        let b' := { b with left := b.left.filter (· ≠ modIdx)
                           refusals := if status = Status.ok then b.refusals
                             else b.refusals ++ [(modIdx, { status := status, detail := result.extractLsb' 0 8, log := addr, grade := result.extractLsb' 48 16 })] }
        let s := if status = Status.ok && (s.slot n).rec_.horizon.toNat < addr.toNat then s.setHorizon n (addr.extractLsb' 0 16) else s
        if !b'.left.isEmpty then { s with lh := { s.lh with binds := s.lh.binds.map fun x => if x = b then b' else x } }
        else
          let s := { s with lh := { s.lh with binds := s.lh.binds.filter (· != b) } }
          match (List.range 33).findSome? fun m => b'.refusals.find? (·.1 == m) with
          | none =>
            let s := (s.takeSaved crew).tellAll (s.slot n) (.bound crew (s.slot n).rec_.horizon)
            ((s.modSlot n fun x => { x with pending := false }).finish b.qid b.cid Status.ok (crew.zeroExtend 64) 0).soon .schedulerPass
          | some r =>
            let s := s.tellAll (s.slot n) (.bindRelease crew)
            (s.unbind n).finish b.qid b.cid r.2.status r.2.result r.2.log

end Sys2Proof.Machine
end

