-- ==== Sys2Proof/Machine/Place.lean ====
section
/-! DEFINITION. Placing and starting a crew: free rectangles, budget, what the dispatch hardware loads or writes back, and the first count
(spec 05 R106, R107, R111, R113, R120, R121, R123; 03 R61, R67; 06 R133, R150, R151; 07 R156, R184; 09 R225; 10 R244, R247). -/

namespace Sys2Proof.Machine

/-! ### Free rectangles (R102, R111, R184, R249) -/

/-- Reach columns a rectangle of width w covers from a reach column on. -/
def reachCols (ox w : Nat) : List Nat := (List.range ((w + 30) / 31)).map (ox + ·)

/-- Two placements share a tile, a feeder or a LINK towline. -/
def Slot.meets (x : Slot) (o : Nat × Nat) (w : Nat) (links : List Nat) : Bool :=
  let cols := reachCols o.1 w
  (reachCols (x.rec_.x0.toNat / 31) x.width).any cols.contains || x.links.any links.contains

/-- A tile's rows inject, eject or reduce from L. -/
def rowsUseTile (rows : List (BitVec 40)) : Bool :=
  rows.any fun w => rowSrc w 4 ≠ 0 || (rowMask w).getLsbD 4 || (List.range 5).any fun o => rowSrc w o = 5

/-- A tile in use: named by a CODE, DATA, WINDOW or TAP section, or by its own rows (R184). -/
def Img.tileUsed (img : Img) (modl x y : Nat) : Bool :=
  (img.codes.any fun c => c.sect.modl = modl && !isFeederRole c.core && inRel c.rect x y)
    || (img.datas modl).any (fun d => d.2.1 = 0 && inRel d.1 x y)
    || (img.windows modl).any (fun g => g.target = 0xFF && inRel g.rect x y)
    || !(img.tapsAt modl x y).isEmpty
    || (img.phases modl).any fun it => inRel it.1 x y && (match it.2.1 with | some b => rowsUseTile b.2 | none => false)

/-- A neighbour reports this tile's router only (code 2), or no answer (code 0) (R180, R181). -/
def State.reportedAs (s : State) (id : Nat) (code : BitVec 3) : Bool :=
  s.pwr.greeting == 2 && (List.range 4).any fun k => (s.neighbour id k).any fun j => s.nbrCode j ((k + 2) % 4) == code

/-- A tile that placement gives no role in use. -/
def State.noRole (s : State) (id : Nat) : Bool :=
  !s.powered id || s.reportedAs id 2

/-- A rectangle's tile by its relative place. -/
def State.rectId (s : State) (o : Nat × Nat) (p : Nat × Nat) : Nat := s.idOf (31 * o.1 + p.1) (32 * o.2 + p.2)

/-- The rectangle at an origin is free for a slot, and its tiles can take their roles. -/
def State.rectFree (s : State) (n : Nat) (x : Slot) (img : Img) (o : Nat × Nat) : Bool :=
  let places := relPlaces (0, 0, x.width - 1, x.height - 1)
  let claimed (y : Slot) : Bool := y.claim.any fun c => (reachCols c.1.1 y.width).any (reachCols o.1 x.width).contains || y.links.any x.links.contains
  !(s.lh.slots.any fun y => y.1 != n && ((y.2.holdsPlace && y.2.meets o x.width x.links) || claimed y.2))
    && places.all fun p =>
      let id := s.rectId o p
      !s.fenced id && !s.dead id && !s.reportedAs id 0 && (!s.noRole id || !img.tileUsed x.modIdx p.1 p.2)

/-- The image of a slot. (log 20, DEDUCED) -/
def State.slotImage (s : State) (x : Slot) : Img := s.image x.rec_.asid x.img

/-- Origins a slot may be placed at now: the one FIXED names, the one it had, then the lowest tile id (R111, R241). -/
def State.originFor (s : State) (n : Nat) : Option (Nat × Nat) :=
  let x := s.slot n
  let img := s.slotImage x
  let ok (o : Nat × Nat) : Bool := s.usable img x.modIdx x.links o && s.rectFree n x img o
  match x.origin with
  | some o => if ok o then some o else none
  | none => match x.again with
    | some o => if ok o then some o else origins.find? ok
    | none => origins.find? ok

/-! ### Budget and priority (R120, R121, R123) -/

/-- Power not given to a crew, in 10 W: the cap less 6,300 W and every allowance of a RUNNING, STARTING or DRAWING slot. -/
def State.freeBudget (s : State) : Nat :=
  let given := (s.lh.slots.filter fun x => x.2.rec_.state == .running || x.2.rec_.state == .starting || x.2.rec_.state == .drawing).map
    fun x => x.2.rec_.allow.toNat
  s.lh.powerCap.toNat - 630 - given.foldl (· + ·) 0

/-- The smallest estimate of a slot's variants; 0 without any. -/
def Slot.minEst (x : Slot) : Nat :=
  match x.variants with
  | [] => 0
  | v :: r => r.foldl (fun m w => min m w.est.toNat) v.est.toNat

/-- Effective priority of a waiting slot. -/
def Slot.peff (x : Slot) : Nat := min 3 (x.rec_.prio.toNat + x.rec_.age.toNat / 4)

/-- A change of ALLOW goes to the crew's anchor (R121). -/
def State.setAllow (s : State) (n a : Nat) : State :=
  let x := s.slot n
  let s := s.modSlot n fun x => { x with rec_ := { x.rec_ with allow := BitVec.ofNat 16 a } }
  if x.rec_.allow.toNat = a then s
  else if x.modIdx = 0 then let (d, s) := s.freeBelow 32; s.afterTime (d + 1) (.allowChange x.rec_.crew 0 (BitVec.ofNat 16 a))
  else s.tellAnchor x (.allow x.rec_.crew x.modIdx (BitVec.ofNat 16 a))

/-- Budget for a slot: what others wait for with a claim is kept (R124). -/
def State.budgetFor (s : State) (n : Nat) : Nat :=
  s.freeBudget - ((s.lh.slots.filter fun y => y.1 != n && y.2.claim.isSome).map fun y => y.2.minEst).foldl (· + ·) 0

/-- POUNDS: the pounds that a crew's rectangle meets (R108). -/
def State.poundBits (s : State) (x0 y0 w h : Nat) : BitVec 16 :=
  let meets (p : Pound) : Bool := p.x0 < x0 + w && x0 ≤ p.x1 && p.y0 < y0 + h && y0 ≤ p.y1
  BitVec.ofNat 16 (((s.lh.pounds.filter meets).map fun p => 2 ^ p.num).foldl (· + ·) 0)

/-- The slot is STARTING at an origin (R111 steps 1 and 2): the rectangle, the feeders of its reach columns and its towlines are its own. (log 20, DEDUCED) -/
def State.placeSlot (s : State) (n : Nat) (o : Nat × Nat) : State :=
  let x := s.slot n
  let tiles := (relPlaces (0, 0, x.width - 1, x.height - 1)).map (s.rectId o)
  let feeders := ((reachCols o.1 x.width).flatMap fun r => (List.range 4).flatMap fun q => [4 * r + q, 32 + 4 * r + q]).filter s.feederOk
  let allow := min (ceiling x.rec_.eclass) (s.budgetFor n)
  let s := s.modSlot n fun x =>
    { x with tiles := tiles, feeders := feeders, ready := false, again := none, go := false, told := false, fits := [], readyFrom := [], halted := []
             rec_ := { x.rec_ with x0 := BitVec.ofNat 8 (31 * o.1), y0 := BitVec.ofNat 8 (32 * o.2), pounds := s.poundBits (31 * o.1) (32 * o.2) x.width x.height,
                                   sprio := BitVec.ofNat 2 x.peff, age := 0, state := .starting } }
  let s := x.links.foldl (fun s t => s.modTowline t fun l => { l with owner := some n }) s
  (s.setAllow n allow).afterFree (.dispatchReady x.rec_.crew)

/-! ### Clearing (R247) -/

/-- A core in its place: the numbers of its requests go on, so that a late answer to an earlier context is discarded (R229). -/
def Core.inPlace (c now : Core) : Core := { c with nextTag := now.nextTag }

/-- A tile cleared: what belongs to the place and to the dynamic class stays. (log 27, DEDUCED) -/
def Tile.cleared (t : Tile) : Tile :=
  { ({} : Tile) with stager := ({} : Core).inPlace t.stager, worker := ({} : Core).inPlace t.worker
                     heard := t.heard, dyn := t.dyn, outHolds := t.outHolds, rotor := t.rotor, off := t.off, rtab := t.rtab,
                     outQ := t.outQ, nackQ := t.nackQ, timeSkew := t.timeSkew, nextBlock := t.nextBlock }

/-- A feeder cleared: its stack's pages, lines and queues stay. -/
def Feeder.cleared (f : Feeder) : Feeder :=
  { ({} : Feeder) with cores := f.cores.map fun c => ({} : Core).inPlace c
                       present := f.present, lineWrites := f.lineWrites, rtab := f.rtab, outQ := f.outQ, berths := f.berths,
                       timeSkew := f.timeSkew, nextId := f.nextId }

/-- Cells and poison marks of key ranges set to zero. -/
def State.wipe (s : State) (ranges : List (Nat × Nat)) : State :=
  let out (k : Nat) : Bool := !(ranges.any fun r => r.1 ≤ k && k < r.1 + r.2)
  { s with mem := s.mem.filter fun c => out c.1, poison := s.poison.filter out }

/-- Keys of a tile's store and chambers, and of a feeder's core stores. -/
def tileRanges (id : Nat) : List (Nat × Nat) := [(Config.tileKey id 0, 2 ^ 19), (Config.chamberKey id 0 0, 2 ^ 16)]
def feederRanges (f : Nat) : List (Nat × Nat) := [(Config.coreStoreKey f 0 0, 2 ^ 21)]

def State.clearTiles (s : State) (ids : List Nat) : State :=
  ids.foldl (fun s id => s.modTile id Tile.cleared) (s.wipe (ids.flatMap tileRanges))
def State.clearFeeders (s : State) (fs : List Nat) : State :=
  fs.foldl (fun s f => s.modFeeder f Feeder.cleared) (s.wipe (fs.flatMap feederRanges))

/-! ### Loading an image (R106, R107, R111, R133, R295, R301, R302) -/

/-- Relative columns that a feeder serves, in row 0 or 191 of the grid (R295). -/
def State.servedCols (s : State) (x : Slot) (f : Nat) : List Nat :=
  (List.range x.width).filter fun i =>
    s.northFeeder (s.physCol (s.idOf (x.rec_.x0.toNat + i) (if f < 32 then 0 else 191))) = f % 32

/-- A core as an image starts it: its code section, whether its partner is a timed core of the crew (LEVEL 1), and whether the crew spans
modules. (log 27, DEDUCED) -/
def startCore (code : Option Code) (start keeper : Option Nat) (pairs spans : Bool) : Core :=
  match code with
  | none => {}
  | some c =>
    let timed := !c.free
    let outer : Nat := if timed then (if spans then 3 else 2) else 1
    let pcOf (a : Nat) : BitVec 16 := BitVec.ofNat 16 (a / 8)
    { ({} : Core) with
      run := .running, timed := timed, start := start.map pcOf, keeperEntry := keeper.map pcOf
      pc := ((start.map pcOf).getD 0).zeroExtend 17
      domain := BitVec.ofNat 64 (c.grp % 8 * 32 + (if timed then 16 else 0) + outer * 4 + (if pairs then 1 else 0)) }

/-- The core of a role at any of some places. -/
def Img.coreAt (img : Img) (modl role : Nat) (ps : List (Nat × Nat)) (pairs spans : Bool) : Core :=
  let es := img.entries modl
  let entry (keeper : Bool) : Option Nat := (es.find? fun e => e.keeper == keeper && ps.any fun p => e.names role p.1 p.2).map (·.addr)
  startCore (img.codes.find? fun c => c.sect.modl = modl && ps.any fun p => c.names role p.1 p.2) (entry false) (entry true) pairs spans

/-- A core of a role that runs timed. -/
def Img.timedAt (img : Img) (modl role : Nat) (p : Nat × Nat) : Bool :=
  img.codes.any fun c => c.sect.modl = modl && c.names role p.1 p.2 && !c.free

/-- Bytes that CODE and DATA sections put into a store with a table of windows; `base` is its first key. -/
def Img.storeBytes (img : Img) (modl role : Nat) (ps : List (Nat × Nat)) (table : Vector (BitVec 128) 16) (base : Nat) : List (Nat × Byte) :=
  let at_ (w off : Nat) : Nat := base + WinDesc.base (table[Fin.ofNat 16 w]) + off
  let mine (c : Code) : Bool := c.sect.modl = modl &&
    (if isFeederRole role then ps.any fun p => c.names role p.1 p.2 else !isFeederRole c.core && ps.any fun p => inRel c.rect p.1 p.2)
  (img.codes.filter mine).flatMap (fun c => keyed (at_ c.win 0) (img (c.sect.off + 16) (c.sect.len - 16)))
    ++ ((img.datas modl).filter fun d => ps.any fun p =>
        if isFeederRole role then d.2.1 = role && d.1.1 ≤ p.1 && p.1 ≤ d.1.2.2.1 && d.1.2.1 = p.2 else d.2.1 = 0 && inRel d.1 p.1 p.2).flatMap
      fun d => keyed (at_ d.2.2.1 d.2.2.2.1) d.2.2.2.2

/-- A tile as the image fills it. -/
def Img.loadTile (img : Img) (x : Slot) (n : Nat) (p : Nat × Nat) (t : Tile) : Tile :=
  let m := x.modIdx
  let spans : Bool := 1 < x.modules
  let wins := img.windows m
  let taps := img.tapsAt m p.1 p.2
  let phases := (img.phases m).filter fun it => inRel it.1 p.1 p.2
  let weir := taps.findSome? fun t => t.2.2.2
  let table := winTable wins 0 p.1 p.2
  { t.cleared with
    stager := (img.coreAt m 0 [p] (img.timedAt m 1 p) spans).inPlace t.stager
    worker := (img.coreAt m 1 [p] (img.timedAt m 0 p) spans).inPlace t.worker
    crew := x.rec_.crew, asid := x.rec_.asid, slot := some n
    windesc := table
    ejdesc := ejTable wins p.1 p.2
    tapcfg := tapTable taps
    arrmap := mapTable taps
    weirEn := weir.isSome
    weirWin := weir.getD 0
    nplace := match weir with | some w => min 4 (WinDesc.size (table[w.toNat]'(by omega)) / 4096) | none => 0
    phase := phases.foldl (fun (v : Vector (List (BitVec 40)) 4) it => match it.2.1 with
      | some b => v.set b.1.toNat b.2 (by omega)
      | none => v) (Vector.replicate 4 [])
    rfmt := (phases.flatMap (·.2.2)).foldl (fun (v : Vector Word 8) y => v.set (Fin.ofNat 8 y.1) (maskRfmt y.2)) (Vector.replicate 8 0) }

/-! #### Group entries (R133) -/

/-- A receiver: a tile, its lane and set. -/
abbrev Receiver := Nat × BitVec 2 × BitVec 3

/-- A feeder's entry of one group: the control fields, with WGMASK the waveguides that its receivers use (R300 leaves it to the loader), and
equal-split rungs in light order; 64 of them at most (log 16, DEDUCED). -/
def State.groupEntry (s : State) (f : Nat) (ctrl : BitVec 84) (rs : List Receiver) : GroupEntry :=
  let north : Bool := f < 32
  let mine : List Rung := rs.filterMap fun r =>
    let c := s.physCol r.1
    let side : Bool := r.2.1.toNat < 2
    if side == north && s.northFeeder c = f % 32 then
      some { set := r.2.2.toNat, code := 0, wg := 2 * ((c - s.firstCol) % 8) + r.2.1.toNat % 2, row := s.yOf r.1 }
    else none
  let coded := (List.range 16).flatMap fun wg => (List.range 8).flatMap fun set =>
    let l := ladder north mine wg set
    l.zipIdx.map fun q => { q.1 with code := l.length - q.2 }
  let bits (r : Rung) : Nat := r.row + r.wg * 2 ^ 8 + r.code * 2 ^ 12 + r.set * 2 ^ 18 + 2 ^ 21
  let guides : BitVec 16 := mine.foldl (fun w r => w ||| (1#16 <<< r.wg)) 0
  let ctrl : BitVec 84 := ctrl.extractLsb' 68 16 ++ guides ++ ctrl.extractLsb' 0 52
  if mine.isEmpty then 0
  else (ctrl.zeroExtend 2048 <<< 1536) ||| BitVec.ofNat 2048 (((coded.take 64).zipIdx.map fun q => bits q.1 * 2 ^ (24 * q.2)).foldl (· + ·) 0)

/-- Groups written into every feeder of a slot. -/
def State.dealGroups (s : State) (fs : List Nat) (gs : List (BitVec 8 × BitVec 84 × List Receiver)) : State :=
  fs.foldl (fun s f => gs.foldl (fun s g =>
    let e := s.groupEntry f g.2.1 g.2.2
    if e = 0 then s else s.modFeeder f fun x => { x with grptab := insert x.grptab g.1.toNat e }) s) s

/-- The image's contents at a placed slot. (log 20, DEDUCED) -/
def State.loadImage (s : State) (n : Nat) : State :=
  let x := s.slot n
  let img := s.slotImage x
  let m := x.modIdx
  let o := (x.rec_.x0.toNat / 31, x.rec_.y0.toNat / 32)
  let s := (relPlaces (0, 0, x.width - 1, x.height - 1)).foldl (fun (s : State) p =>
    let id := s.rectId o p
    let s := s.modTile id (img.loadTile x n p)
    { s with mem := writeCells s.mem (img.storeBytes m 0 [p] (winTable (img.windows m) 0 p.1 p.2) (Config.tileKey id 0)) }) s
  let s := x.feeders.foldl (fun (s : State) f =>
    let side := if f < 32 then 0 else 191
    let ps := (s.servedCols x f).map fun i => (i, side)
    let table (k : Nat) := tableOf ((img.windows m).filter fun g => ps.any fun p => g.names (2 + k) p.1 p.2) true
    let s := s.modFeeder f fun y =>
      { y.cleared with
        cores := Vector.ofFn fun k => (img.coreAt m (2 + k.val) ps false (1 < x.modules)).inPlace y.cores[k]
        windesc := Vector.ofFn fun k => table k.val
        crew := x.rec_.crew, asid := x.rec_.asid, slot := some n }
    { s with mem := writeCells s.mem ((List.range 4).flatMap fun k => img.storeBytes m (2 + k) ps (table k) (Config.coreStoreKey f k 0)) }) s
  s.dealGroups x.feeders ((img.groups m).map fun g => (g.1, g.2.1, g.2.2.map fun r => (s.rectId o (r.1, r.2.1), r.2.2.1, r.2.2.2)))

/-! ### Writing a saved state back (R214, R225, R244) -/

/-- Where a saved crew's units, crew number and slot are now. -/
structure Shift where
  tile   : Nat → Nat
  feeder : Nat → Nat
  crew   : BitVec 16
  slot   : Nat

def Shift.core (m : Shift) : CoreRef → CoreRef
  | .tile id w => .tile (m.tile id) w
  | .feeder f c => .feeder (m.feeder f) c
def Shift.reporter (m : Shift) : Reporter → Reporter
  | .here r => .here (m.core r)
  | r => r
/-- A number under a KIND of R406. -/
def Shift.number (m : Shift) (kind : BitVec 3) (n : BitVec 16) : BitVec 16 :=
  if kind.toNat ≤ 4 then BitVec.ofNat 16 (m.tile n.toNat) else if kind = 5 then BitVec.ofNat 16 (m.feeder n.toNat) else n
def Shift.taker (m : Shift) (w : Word) : Word := (w &&& ~~~0xFFFF) ||| (m.number (tkKind w) (tkId w)).zeroExtend 64
def Shift.holder (m : Shift) (h : Holder) : Holder := { h with num := m.number h.kind h.num }
def Shift.passage (m : Shift) (p : Passage) : Passage := { p with taker := m.taker p.taker, giver := p.giver.map m.holder }
def Shift.view (m : Shift) (v : View) : View := { v with taker := m.taker v.taker, giver := v.giver.map m.holder }
def Shift.region (m : Shift) : Region → Region
  | .window t w => .window (m.tile t) w
  | .page a => .page a
def Shift.wait (m : Shift) : Wait → Wait
  | .btake r v t => .btake (m.region r) v t
  | .release r => .release { r with region := m.region r.region, taker := m.taker r.taker }
  | w => w
def Shift.cpu (m : Shift) (c : Core) : Core := { c with waits := c.waits.map fun w => (m.wait w.1, w.2), visit := none, guest := none }

/-- A key of a tile's store or chamber, or of a core store, where the unit is now. -/
def Shift.key (m : Shift) (k : Nat) : Nat :=
  if 2 ^ 44 ≤ k then Config.coreStoreKey (m.feeder ((k - 2 ^ 44) / 2 ^ 21)) ((k - 2 ^ 44) / 2 ^ 19 % 4) ((k - 2 ^ 44) % 2 ^ 19)
  else if 2 ^ 43 ≤ k then 2 ^ 43 + m.tile ((k - 2 ^ 43) / 2 ^ 16) * 2 ^ 16 + (k - 2 ^ 43) % 2 ^ 16
  else Config.tileKey (m.tile ((k - 2 ^ 42) / 2 ^ 19)) ((k - 2 ^ 42) % 2 ^ 19)

/-- A saved tile in its place: `now` gives what belongs to the place. -/
def Shift.tileState (m : Shift) (t now : Tile) : Tile :=
  { t with
    stager := (m.cpu t.stager).inPlace now.stager, worker := (m.cpu t.worker).inPlace now.worker, crew := m.crew, slot := some m.slot
    berths := t.berths.map fun b => { b with remote := b.remote.map m.holder, passage := b.passage.map m.passage, views := b.views.map m.view }
    blocks := t.blocks.map fun b => { b with feeder := m.feeder b.feeder }
    matOps := t.matOps.map fun o => { o with block := o.block.map fun l => { l with key := m.key l.key } }
    landed := t.landed.map fun l => (l.1, m.key l.2.1, l.2.2)
    presents := t.presents.map fun p => { p with core := m.core p.core }
    dirtymask := 0, dirtylog := Vector.replicate 64 0
    heard := now.heard, dyn := now.dyn, outHolds := now.outHolds, rotor := now.rotor, off := now.off, rtab := now.rtab
    outQ := now.outQ, nackQ := now.nackQ, timeSkew := now.timeSkew, nextBlock := max t.nextBlock now.nextBlock }

/-- A saved feeder in its place; weight reads that were under way are not repeated elsewhere. -/
def Shift.feederState (m : Shift) (moved : Bool) (f now : Feeder) : Feeder :=
  { f with
    cores := Vector.ofFn fun k => (m.cpu f.cores[k]).inPlace now.cores[k], crew := m.crew, slot := some m.slot
    queue := f.queue.map fun b => { b with slot := m.slot }
    flying := f.flying.map fun b => { b with slot := m.slot }
    reads := if moved then [] else f.reads.map fun r => { r with slot := m.slot }
    presents := f.presents.map fun p => { p with core := m.core p.core }
    dirtymask := Vector.replicate 4 0, dirtylog := Vector.replicate 4 (Vector.replicate 64 0)
    present := now.present, lineWrites := now.lineWrites, rtab := now.rtab, outQ := now.outQ, berths := now.berths
    timeSkew := now.timeSkew, nextId := max f.nextId now.nextId }

/-- What was due at a later count, where the units are now. -/
def Shift.event (m : Shift) (i : Instr) : Instr :=
  match i with
  | .deliveryStart t lane lams tag f tm light only => .deliveryStart (m.tile t) lane lams tag (m.feeder f) tm light only
  | .finjCopy f id => .finjCopy (m.feeder f) id
  | .injectionModulate f id => .injectionModulate (m.feeder f) id
  | .weightReadRetry f l => .weightReadRetry (m.feeder f) l
  | .phaseCheckTimeout _ l e => .phaseCheckTimeout m.crew l e
  | .selectionDecide _ c e => .selectionDecide m.crew c e
  | .selectionSwitch _ => .selectionSwitch m.crew
  | _ => i

/-- The receivers of every valid group of saved feeders, by tile. -/
def State.savedGroups (s : State) (fs : List (Nat × Feeder)) : List (BitVec 8 × BitVec 84 × List Receiver) :=
  let all := fs.flatMap fun f => f.2.grptab.map fun g => (g.1, g.2.extractLsb' 1536 84, (GroupEntry.rungs g.2).filterMap fun r =>
    (s.rungTile f.1 r).map fun id => (id, laneOfGuide f.1 r.wg, BitVec.ofNat 3 r.set))
  ((all.map (·.1)).eraseDups).map fun g =>
    let mine := all.filter (·.1 == g)
    (BitVec.ofNat 8 g, ((mine.head?).map (·.2.1)).getD 0, mine.flatMap (·.2.2))

/-- The entries of a tile's spill ring go back into their places (R183). -/
def State.unspillTile (s : State) (id : Nat) : State :=
  let t := s.tile id
  t.spill.foldl (fun (s : State) e => match e.red with
    | some r => s.modTile id fun t => { t with red := some r }
    | none => match s.neighbour id e.port.toNat with
      | some j => s.modTile j fun y => { y with links := y.links ++ [{ inp := BitVec.ofNat 3 ((e.port.toNat + 2) % 4), due := e.dcnt.toNat, flit := e.flit }] }
      | none => s) (s.modTile id fun t => { t with spill := [] })

/-- A window elsewhere that a member held or had handed over, if it is at rest (R225). -/
def Shift.window (m : Shift) (w : BitVec 4) (code : BitVec 5) (b : Berth) (t : Tile) : Tile :=
  let now := t.berth w
  if (t.win w).valid && (t.win w).holder = 0 && now.remote.isNone && now.passage.isNone then
    (t.setBerth w { b with remote := b.remote.map m.holder, passage := b.passage.map m.passage, views := b.views.map m.view }).setHolder w code
  else t

/-- Offers on their way to members when their crew was drawn off have arrived (R219, R225). -/
def State.offersHere (s : State) (n : Nat) : State :=
  let mine (w : Word) : Bool := (s.takerCore w).any fun r => s.slotOf r == some n
  let seeP (p : Passage) : Passage := if p.sent && mine p.taker then { p with here := true } else p
  let seeV (v : View) : View := if v.sent && mine v.taker then { v with here := true } else v
  { s with tiles := mapVals (fun _ t => { t with berths := t.berths.map fun b => { b with passage := b.passage.map seeP, views := b.views.map seeV } }) s.tiles
           feeders := mapVals (fun _ f => { f with berths := f.berths.map fun b => { b with passage := b.passage.map seeP, views := b.views.map seeV } }) s.feeders }

/-- A core that was saved asleep in BTAKE of a page, or in TSERVE, asks again: what it waits for may have come meanwhile (R220, R234, R244). -/
def State.askAgain (s : State) (r : CoreRef) : State :=
  (s.core r).waits.foldl (fun (s : State) w => match w.1 with
    | .btake (.page g) view _ => s.sendRequest r g (if view then .btakeView false else .btake false) none
    | .btake reg view _ => s.tellTaker (s.asHolder r).word (regionWord reg) view
    | .tserve n k => s.sendRequest r 0 (.tserve n.toNat k) none
    | _ => s) s

/-- A saved crew's state written back at its slot's place; its dirty logs are empty (R204). (log 28, DEDUCED) (log 29, DESIGN CHOICE) -/
def State.restore (s : State) (n : Nat) (v : Saved) : State :=
  let x := s.slot n
  let tile (id : Nat) : Nat := s.idOf (s.xOf id + x.rec_.x0.toNat - v.x0.toNat) (s.yOf id + x.rec_.y0.toNat - v.y0.toNat)
  let feeder (f : Nat) : Nat := f + 4 * (x.rec_.x0.toNat / 31) - 4 * (v.x0.toNat / 31)
  let moved : Bool := v.x0 ≠ x.rec_.x0 || v.y0 ≠ x.rec_.y0
  let m : Shift := { tile := tile, feeder := feeder, crew := x.rec_.crew, slot := n }
  let groups := if moved then (s.savedGroups v.feeders).map fun g => (g.1, g.2.1, g.2.2.map fun r => (tile r.1, r.2)) else []
  let s := v.tiles.foldl (fun s t => s.modTile (tile t.1) fun now => m.tileState t.2 now) s
  let s := v.feeders.foldl (fun s f => s.modFeeder (feeder f.1) fun now =>
    let y := m.feederState moved f.2 now
    if moved then { y with grptab := [] } else y) s
  let s := s.dealGroups x.feeders groups
  let s := { s with mem := writeCells s.mem (v.cells.map fun (c : Nat × Byte) => (m.key c.1, c.2))
                    poison := (v.poison.map m.key) ++ s.poison
                    agenda := s.agenda ++ v.agenda.map fun (d : BitVec 48 × Instr) => ({ at_ := .count n d.1, ev := m.event d.2 } : Due) }
  let s := v.berths.foldl (fun s b => s.modFeeder b.1 fun f =>
    f.setBerth { b.2 with holder := b.2.holder.map m.holder, passage := b.2.passage.map m.passage, views := b.2.views.map m.view }) s
  let s := v.windows.foldl (fun s w => s.modTile w.1 (m.window w.2.1 w.2.2.1 w.2.2.2)) s
  let s := s.offersHere n
  let s := v.tiles.foldl (fun s t => s.unspillTile (tile t.1)) s
  let s := v.retimes.foldl (fun s r => s.modTowline r.1 fun t => { t with retime := r.2 }) s
  let s := x.feeders.foldl (fun (s : State) f => (s.feeder f).reads.foldl (fun s y => s.afterFree (.weightReadData f y.line)) s) s
  let seen (p : PhaseRef) : PhaseRef := { p with tile := tile p.tile, seen := p.seen.map m.reporter }
  s.modSlot n fun x => { x with run := { v.run with phases := v.run.phases.map seen, marks := v.run.marks.map fun (k : BitVec 48 × List Reporter) => (k.1, k.2.map m.reporter) } }

/-! ### Ready, T0 and the first count (R67, R111) -/

/-- φ rounded to whole cycles, halves up; 0 on the reference module (R62, R67). -/
def State.phaseCount (s : State) : Int := if s.isRef then 0 else (Config.phase s.time + 2 ^ 39) / 2 ^ 40

/-- The first count runs at T0 with the correction of this module (R67). -/
def State.startAt (s : State) (n : Nat) (t0 : Word) : State :=
  let c := s.phaseCount
  let s := s.modSlot n fun x => { x with rec_ := { x.rec_ with started := t0 }, run := { x.run with driftC := c } }
  s.atTime (t0 + BitVec.ofInt 64 c) (.crewStart (s.slot n).rec_.crew)

/-- The anchor's firmware names T0: 2^16 TIME cycles from now (R111). -/
def State.nameStart (s : State) (n : Nat) : State :=
  let t0 := s.time + 2 ^ 16
  (s.startAt n t0).tellAll (s.slot n) (.start (s.slot n).rec_.crew t0)

/-- A module of the crew is ready, as the anchor hears it: T0 is named after the last one's report (R111). -/
def State.readyHeard (s : State) (n modIdx : Nat) (members : List Nat) : State :=
  let s := s.modSlot n fun x => { x with readyFrom := insert x.readyFrom modIdx members }
  if (List.range (s.slot n).modules).all fun m => (lookup? (s.slot n).readyFrom m).isSome then s.nameStart n else s

/-- This module reports ready, with its timed members. -/
def State.reportReady (s : State) (n : Nat) : State :=
  let x := s.slot n
  let members := (s.timedMembers x).map CoreRef.member
  if x.modIdx = 0 then s.readyHeard n 0 members else s.tellAnchor x (.ready x.rec_.crew x.modIdx members)

/-- The reach whose dispensers serve a placed crew. -/
def State.setTickets (s : State) (n : Nat) (l : List (Nat × BitVec 32 × BitVec 32)) : State :=
  let r := s.reachOf (s.anchorTile (s.slot n))
  s.setReach r.1 r.2 { s.reach r.1 r.2 with tickets := l }

/-- DISPATCH_READY: the rectangle is cleared and filled from the image or from the saved state, and the module reports ready; the anchor
names T0 after the last module (R111, R247). -/
def execDispatchReady (crew : BitVec 16) (s : State) : Result :=
  done <|
    match s.slotOfCrew crew with
    | none => s
    | some n =>
      let x := s.slot n
      if x.rec_.state ≠ .starting then s
      else
        let s := (s.clearTiles x.tiles).clearFeeders x.feeders
        let s := match x.drawn.or x.current with
          | some v =>
            let s := (s.restore n v).setTickets n v.tickets
            (s.slot n).cores.foldl State.askAgain s
          | none => ((s.modSlot n fun x => { x with run := {} }).loadImage n).setTickets n []
        let s := s.modSlot n fun x => { x with ready := true, drawn := none }
        s.reportReady n

/-- Blocks still to modulate before the first count, by count. -/
def State.lateInjects (s : State) (x : Slot) (v : BitVec 48) : List (Nat × Nat) :=
  x.feeders.flatMap fun f => ((s.feeder f).queue.filter fun b => b.copied.isSome && passed b.t v).map fun b => (f, b.id)

/-- CREW_START at TIME T0 + c: every member runs count START from now (R67); the blocks that a draw-off kept back have been modulated in the 40 cycles before
(R111, R150). A hold, a selection and the rest of the run stand as they were; a pause of R64 still to come does not (log 17, DEDUCED). -/
def execCrewStart (crew : BitVec 16) (s : State) : Result :=
  done <|
    match s.slotOfCrew crew with
    | none => s
    | some n =>
      let x := s.slot n
      if !(x.ready && (x.rec_.state == .starting || (x.rec_.state == .running && x.run.stopped))
          && s.time == x.rec_.started + BitVec.ofInt 64 x.run.driftC) then s
      else
        let v := x.rec_.start
        let s := s.modSlot n fun x =>
          { x with ready := false
                   rec_ := { x.rec_ with state := .running }
                   run := { x.run with vcyc := v, live := false, stopped := false, draw := none, injectStop := false, pause := 0, drift := none,
                                       holdCount := 0, since := 0, lastAdj := 0 } }
        let s := if s.lh.limit then s.limitOne n else s
        let s := if 1 < x.modules then s.checkEnd n else s
        (s.lateInjects x v).foldl (fun (s : State) b =>
          match execInjectionModulate b.1 b.2 s with
          | .next t => t
          | _ => s) s

end Sys2Proof.Machine
end

