-- ==== Sys2Proof/Machine/Draw.lean ====
section
/-! DEFINITION. Stopping a crew: draw-off and what it saves, marks, the crew-fault path, rewinds (spec 05 R109, R125; 10 R236, R240 to R246). -/

namespace Sys2Proof.Machine

/-! ### What a draw-off saves (R214, R225, R244) -/

/-- A page berth that a member holds or has handed over. -/
def State.memberBerth (s : State) (x : Slot) (b : PageBerth) : Bool :=
  b.holder.any (s.isMemberHolder x) || b.passage.any fun p => p.giver.any (s.isMemberHolder x)

/-- Windows of a tile outside the crew that a member holds or has handed over, with what is kept of them (R225). -/
def State.memberWindows (s : State) (x : Slot) (id : Nat) : List (Nat × BitVec 4 × BitVec 5 × Berth) :=
  if x.tiles.contains id then []
  else ((List.range 16).map (BitVec.ofNat 4)).filterMap fun w =>
    let t := s.tile id
    let b := t.berth w
    if b.remote.any (s.isMemberHolder x) || (b.passage.any fun p => p.giver.any (s.isMemberHolder x)) then some (id, w, (t.win w).holder, b) else none

/-- A router's pipeline registers, synchronisers and reduction state go into the spill rings: a flit into that of the tile that sent it, by its
output port; what the flit says of its token goes with it (R183, R245, log 11, DEDUCED). -/
def State.spillTile (s : State) (id : Nat) : State :=
  let t := s.tile id
  let from_ (l : LinkFlit) : Option Nat := s.neighbour id l.inp.toNat
  let s := s.modTile id fun t => { t with links := t.links.filter fun l => (from_ l).isNone, red := none
                                          spill := t.spill ++ (t.red.toList.map fun r => { port := 4, stage := 0, dcnt := 0, flit := r.result, red := some r }) }
  t.links.foldl (fun (s : State) l => match from_ l with
    | some j => s.modTile j fun y => { y with spill := y.spill ++
        [{ port := BitVec.ofNat 3 ((l.inp.toNat + 2) % 4), stage := BitVec.ofNat 2 (s.hopCounts j id - 1 - l.due), dcnt := BitVec.ofNat 16 l.due, flit := l.flit, red := none }] }
    | none => s) s

/-- DIRTYLOG and DIRTYMASK of a crew's units are empty (R204, R205). -/
def State.clearDirty (s : State) (x : Slot) : State :=
  x.feeders.foldl (fun s f => s.modFeeder f fun f =>
      { f with dirtymask := Vector.replicate 4 0, dirtylog := Vector.replicate 4 (Vector.replicate 64 0) })
    (x.tiles.foldl (fun s t => s.modTile t fun t => { t with dirtymask := 0, dirtylog := Vector.replicate 64 0 }) s)

/-- The crew's state at its count, as it stands. (log 28, DEDUCED) (log 29, DESIGN CHOICE) -/
def State.snapshot (s : State) (n : Nat) : Saved :=
  let x := s.slot n
  let ranges := x.tiles.flatMap tileRanges ++ x.feeders.flatMap feederRanges
  let mine (k : Nat) : Bool := ranges.any fun r => r.1 ≤ k && k < r.1 + r.2
  let r := s.reachOf (s.anchorTile x)
  let due (d : Due) : Option (BitVec 48 × Instr) := match d.at_ with
    | .count m c => if m = n then some (c, d.ev) else none
    | .time _ => none
  { count := x.run.vcyc
    run := { x.run with draw := none, fault := none, fatal := false }
    tiles := x.tiles.map fun t => (t, s.tile t)
    feeders := x.feeders.map fun f => (f, s.feeder f)
    cells := s.mem.filter fun c => mine c.1
    poison := s.poison.filter mine
    tickets := (s.reach r.1 r.2).tickets
    berths := s.feeders.flatMap fun f => (f.2.berths.filter (s.memberBerth x)).map fun b => (f.1, b)
    windows := s.tiles.flatMap fun t => s.memberWindows x t.1
    agenda := s.agenda.filterMap due
    retimes := x.links.map fun t => (t, (s.towline t).retime)
    x0 := x.rec_.x0
    y0 := x.rec_.y0 }

/-- A crew leaves its place: cores idle, berths at rest, towlines free, nothing due; its allowance returns to the budget, and its last selection
can still be read (R109, R111, R121). -/
def State.vacate (s : State) (n : Nat) : State :=
  let x := s.slot n
  let keep (d : Due) : Bool := match d.at_ with | .count m _ => m != n | .time _ => true
  let away : Slot :=
    { x with tiles := [], feeders := [], rec_ := { x.rec_ with allow := 0 }, run := { sel := x.run.sel }, ready := false, go := false, told := false
             fits := [], readyFrom := [], halted := [] }
  { s with tiles := mapVals (fun i t => if x.tiles.contains i then releaseTile t else s.restWindows x t) s.tiles
           feeders := mapVals (fun i f =>
             let g := s.restPages x f
             if x.feeders.contains i then releaseFeeder g else g) s.feeders
           towlines := mapVals (fun _ t => if t.owner = some n then { t with owner := none, retime := [] } else t) s.towlines
           agenda := s.agenda.filter keep
           lh := { s.lh with
                   slots := insert s.lh.slots n away, freed := true
                   limitHeld := s.lh.limitHeld.filter (·.1 ≠ n), haltHeld := s.lh.haltHeld.filter (·.1 ≠ n) } }

/-! ### The stop (R240, R244) -/

/-- TIME cycles from v until a crew's state is saved: 16 for the routers, TOWLAT + 16 for the towline ports. -/
def State.saveTime (s : State) (x : Slot) : Nat := 16 + (x.links.map fun t => (s.towline t).lat.toNat).foldl max 0

/-- DRAW_OFF: at v the machinery stands; visiting threads start home, and after the routers and ports have moved what they hold, saving goes on.
A crew with a fault stops by R240. -/
def execDrawOff (crew : BitVec 16) (s : State) : Result :=
  done <|
    match s.slotOfCrew crew with
    | none => s
    | some n =>
      let x := s.slot n
      let s := s.modRun n fun r => { r with stopped := true, live := false, injectStop := true }
      if x.run.fault.isSome then s.soon (.crewFaultStop crew)
      else
        let s := (x.cores.filter fun r => (s.core r).visit.isSome).foldl (fun s r => s.leaveFerry r false) s
        s.afterTime (s.saveTime x) (.drawOffComplete crew)

/-- A member still waits for an answer, or is away. -/
def State.unanswered (s : State) (x : Slot) : Bool := x.cores.any fun r => !(s.core r).reqs.isEmpty || (s.core r).visit.isSome

/-- The save area a crew is given (R108, R246). (log 29, DESIGN CHOICE) -/
def State.withSave (s : State) (n : Nat) : State :=
  s.modSlot n fun x => { x with rec_ := { x.rec_ with save := if x.rec_.save = 0 then Config.saveArea n else x.rec_.save } }

/-- The open DRAW that names a crew. -/
def State.openDraw (s : State) (crew : BitVec 16) : Option HostCmd := s.lh.open_.find? (namesOpen 0x0C crew)

/-- A crew drawn by the host leaves its slot with a save handle; the DRAW completes once every module has saved its part (R86, R109). -/
def State.drawnByHost (s : State) (n : Nat) (x : Slot) : State :=
  let h := s.lh.nextHandle
  let s := { s with lh := { s.lh with saved := s.lh.saved ++ [({ handle := h, asid := x.rec_.asid, slot := s.slot n } : SavedCrew)]
                                      slots := remove s.lh.slots n, nextHandle := h + 1 } }
  let s := match s.openDraw x.rec_.crew with
    | some c => s.finish c.qid c.cid Status.ok h 0
    | none => s
  s.soon .schedulerPass

/-- What a module does once every module of the crew has saved its part: PREEMPTED, FREE with a save handle, or on with the mark (R109, R244). -/
def State.drawEnds (s : State) (n : Nat) : State :=
  let x := s.slot n
  match x.drawn with
  | none => s
  | some v =>
    let away (s : State) (st : SlotState) : State :=
      (s.modSlot n fun x => { x with rec_ := { x.rec_ with start := v.count, state := st } }).vacate n
    match (x.run.draw.map (·.why) : Option DrawWhy) with
    | some .mark => s.soon (.markComplete x.rec_.crew)
    | some .host => (away s .free).drawnByHost n x
    | some .preempt | some .regrade => (away s .preempted).soon .schedulerPass
    | some .fault | none => s

/-- A module of the crew has saved its part, as the anchor hears it; after the last the anchor tells them all (R242, R244). -/
def State.drawnHeard (s : State) (n modIdx : Nat) : State :=
  let add (d : DrawOff) : DrawOff := { d with drawn := if d.drawn.contains modIdx then d.drawn else d.drawn ++ [modIdx] }
  let s := s.modRun n fun r => { r with draw := r.draw.map add }
  let x := s.slot n
  if (List.range x.modules).all fun m => x.run.draw.any (·.drawn.contains m) then
    ((s.modSlot n fun x => { x with readyFrom := [] }).tellAll x (.saved x.rec_.crew)).drawEnds n
  else s

/-- DRAW_OFF_COMPLETE: the routers have filled their spill rings, and saving ends once every request is answered; this module's part is in its
area, the dirty logs are empty, and the anchor hears of it (R109, R183, R205, R244). -/
def execDrawOffComplete (crew : BitVec 16) (s : State) : Result :=
  done <|
    match s.slotOfCrew crew with
    | none => s
    | some n =>
      let x := s.slot n
      if !x.run.stopped then s
      else if x.run.fault.isSome then s.soon (.crewFaultStop crew)
      else if s.unanswered x then s.afterTime 1 (.drawOffComplete crew)
      else
        let s := x.tiles.foldl State.spillTile s
        let v := s.snapshot n
        let s := ((s.withSave n).clearDirty x).modSlot n fun x => { x with drawn := some v }
        if x.modIdx = 0 then s.drawnHeard n 0 else s.tellAnchor x (.drawn crew x.modIdx)

/-- MARK_COMPLETE: the area written last is the current one; undo logs and dirty logs are empty, and the crew resumes in place (R205, R242,
R243). (log 28, DEDUCED) -/
def execMarkComplete (crew : BitVec 16) (s : State) : Result :=
  done <|
    match s.slotOfCrew crew with
    | none => s
    | some n =>
      let x := s.slot n
      match x.drawn with
      | none => s
      | some v =>
        if x.rec_.state ≠ .running || !x.run.stopped then s
        else
          let s := s.modSlot n fun x => { x with current := some v, drawn := none, rewinds := 0, undo := [], ready := true,
                                                 run := { x.run with draw := none, markWish := false }, rec_ := { x.rec_ with start := v.count } }
          (x.tiles.foldl State.unspillTile (s.clearDirty x)).reportReady n

/-! ### Crew faults (R236, R240, R243) -/

/-- The fault as the anchor keeps it: the first report, of one count the lowest member's. -/
def keepFault (old : Option FaultRec) (f : FaultRec) : FaultRec :=
  match old with
  | none => f
  | some g => if g.at_ = f.at_ && f.member < g.member then f else g

/-- A host DRAW of the crew does not come to its end; one overtaken by a KILL completes after the KILL (R88, R125). -/
def State.abortDraw (s : State) (x : Slot) : State :=
  if x.rec_.state = .killing then s
  else match s.openDraw x.rec_.crew with
  | some c => s.finish c.qid c.cid Status.aborted 0 (x.rec_.crew.zeroExtend 64)
  | none => s

/-- CREW_FAULT_REPORT: the first report announces a stop at a + HORIZON, or joins the one announced; a crew that runs no count stops at
once (R240). -/
def execCrewFaultReport (crew : BitVec 16) (cause : BitVec 8) (addr : Word) (member : Nat) (s : State) : Result :=
  done <|
    match s.slotOfCrew crew with
    | none => s
    | some n =>
      let x := s.slot n
      let st := x.rec_.state
      if !(st.placed || (!s.pwr.tripN && (st == .bound || st == .preempted))) then s
      else
        let f := keepFault x.run.fault { cause := cause, addr := addr, member := member, at_ := x.run.vcyc }
        let s := s.modRun n fun r => { r with fault := some f }
        if x.run.fault.isSome then s
        else match x.run.draw with
          | some d =>
            ((s.abortDraw x).modRun n fun r => { r with draw := some { d with why := .fault } }).tellAll x (.draw crew d.v .fault (some (cause, addr)))
          | none =>
            if x.run.stopped || !(st == .running || st == .drawing || st == .killing) then
              (s.tellAll x (.draw crew x.run.vcyc .fault (some (cause, addr)))).soon (.crewFaultStop crew)
            else s.announceDraw n (x.run.vcyc + x.rec_.horizon.zeroExtend 48) .fault

/-- CREW_FAULT_STOP: the machinery stands and its state is discarded; the slot is REWINDING, or KILLING and then FREE. A crew rewound three times
to one mark, and one whose undo log filled, is killed (R240, R241, R243). A halted lockhouse moves no slot (R93). -/
def execCrewFaultStop (crew : BitVec 16) (s : State) : Result :=
  done <|
    match s.slotOfCrew crew with
    | none => s
    | some n =>
      let x := s.slot n
      match x.run.fault with
      | none => s
      | some f =>
        if s.halted then (s.modRun n fun r => { r with stopped := true, live := false }).afterTime 1 (.crewFaultStop crew)
        else
        let s := s.abortDraw x
        let s := s.modSlot n fun x => { x with lastCause := f.cause, lastAddr := f.addr, drawn := none,
                                               run := { x.run with stopped := true, live := false } }
        if x.rec_.onfault && !x.run.fatal && x.rewinds < 3 && x.rec_.state ≠ .killing then
          (s.modSlot n fun x => { x with rec_ := { x.rec_ with state := .rewinding } }).afterFree (.rewind crew)
        else (s.modSlot n fun x => { x with rec_ := { x.rec_ with state := .killing } }).endCrew n f.cause f.addr

/-- One entry of an undo log played back: the line's bytes and poison marks as they were (R243, R253). -/
def State.playBack (s : State) (u : Nat × List Byte × List Nat) : State :=
  let s := s.writeHome (u.1 / 2 ^ 36) (keyed u.1 u.2.1)
  { s with poison := u.2.2 ++ s.poison.filter fun k => !(u.1 ≤ k && k < u.1 + 128) }

/-- REWIND: the undo logs are played back newest first, and the slot is bound again with START at the current mark's count, or 0 (R241). -/
def execRewind (crew : BitVec 16) (s : State) : Result :=
  done <|
    match s.slotOfCrew crew with
    | none => s
    | some n =>
      let x := s.slot n
      if x.rec_.state ≠ .rewinding then s
      else
        let s := (x.undo.foldl State.playBack s).vacate n
        let s := s.modSlot n fun y =>
          { y with undo := [], rewinds := x.rewinds + 1, again := some (x.rec_.x0.toNat / 31, x.rec_.y0.toNat / 32)
                   rec_ := { y.rec_ with state := .bound, start := match x.current with | some v => v.count | none => 0 } }
        s.soon .schedulerPass

end Sys2Proof.Machine
end

