-- ==== Sys2Proof/Machine/Sched.lean ====
section
/-! DEFINITION. Variants, allowances, priorities and power limits: what the anchor and the scheduler firmware decide (spec 01 R27 to R29;
05 R116 to R124). -/

namespace Sys2Proof.Machine

/-! ### Choosing a variant (R116 to R119) -/

/-- The crew's current allowance: the smallest of its modules', as last received (R117, R121). -/
def Slot.allowance (x : Slot) : Nat :=
  match x.allows with
  | [] => x.rec_.allow.toNat
  | a :: r => r.foldl (fun m y => min m y.2.toNat) a.2.toNat

/-- Variants of a class by rising index. -/
def Slot.ofClass (x : Slot) (cls : BitVec 3) : List Variant :=
  (List.range 8).filterMap fun i => x.variants.find? fun v => v.cls == cls && v.index == i

/-- The size of each group at a selection: the greatest of its words, 0 with none. -/
def CrewRun.groupSizes (r : CrewRun) (e : BitVec 48) : List (BitVec 16) :=
  (List.range 8).map fun g => (r.sizes.filter fun w => w.1 == e && w.2.1.toNat == g).foldl
    (fun (m : BitVec 16) w => if m.toNat < w.2.2.toNat then w.2.2 else m) 0

/-- What is broadcast of a pick (R117). -/
def selectionOf (cls : BitVec 3) (v : Variant) (s : List (BitVec 16)) : Selection :=
  let pair := (List.range 8).map fun g => ((s.getD g 0).toNat, (v.cap.getD g 0).toNat)
  let bits (p : Nat × Nat → Bool) : BitVec 8 := BitVec.ofNat 8 (((List.range 8).filter fun g => p (pair.getD g (0, 0))).map (2 ^ ·)).sum
  { cls := cls, index := v.index, bank := v.bank
    size := pair.map fun x => BitVec.ofNat 16 (min x.1 x.2)
    excess := pair.map fun x => BitVec.ofNat 16 (x.1 - x.2)
    empty := bits fun x => x.1 == 0
    ovf := bits fun x => x.2 < x.1 }

/-- The variant that R117 picks, and whether it waits for its energy budget. -/
def pickVariant (vs : List Variant) (s : List (BitVec 16)) (a : Nat) : Option (Variant × Bool) :=
  let covers (v : Variant) : Bool := (List.range 8).all fun g => (s.getD g 0).toNat ≤ (v.cap.getD g 0).toNat
  match vs.find? fun v => covers v && v.est.toNat ≤ a with
  | some v => some (v, false)
  | none => match vs.find? covers with
    | some v => some (v, true)
    | none => vs.getLast?.map fun v => (v, false)

/-- A selection reaches the members of this module, and the switch falls at E + SELLAT (R118). -/
def State.takeSelection (s : State) (n : Nat) (e : BitVec 48) (q : Selection) : State :=
  let x := s.slot n
  (s.modRun n fun r => { r with selNext := some q }).atCount n (e + x.rec_.sellat.zeroExtend 48) (.selectionSwitch x.rec_.crew)

/-- SELECTION_DECIDE: at E + Dmax + 8 the anchor picks, broadcasts the pick, and may announce a selector hold (R117, R118). -/
def execSelectionDecide (crew : BitVec 16) (cls : BitVec 3) (e : BitVec 48) (s : State) : Result :=
  done <|
    match s.slotOfCrew crew with
    | none => s
    | some n =>
      let x := s.slot n
      let sizes := x.run.groupSizes e
      match pickVariant (x.ofClass cls) sizes x.allowance with
      | none => s
      | some (v, waits) =>
        let s := (s.modRun n fun r => { r with sizes := r.sizes.filter (·.1 != e) }).takeSelection n e (selectionOf cls v sizes)
        let s := s.tellAll x (.select crew e (selectionOf cls v sizes))
        if waits then
          let h := x.run.vcyc + x.rec_.horizon.zeroExtend 48
          (s.announceHold n 0 .selector).modRun n fun r => { r with selWait := some (h, v.est.toNat) }
        else s

/-- SELECTION_SWITCH: routers take the bank with the row index at 0, and SELVAR and SELOVF their new values (R118). -/
def execSelectionSwitch (crew : BitVec 16) (s : State) : Result :=
  done <|
    match s.slotOfCrew crew with
    | none => s
    | some n => s.modRun n fun r => match r.selNext with
        | none => r
        | some q => { r with sel := some q, selNext := none, bank := q.bank, row := 0, switchAt := r.vcyc }

/-- ALLOW_CHANGE: the anchor's value of a module's allowance; a selector hold is released once the allowance covers its pick (R117, R121). -/
def execAllowChange (crew : BitVec 16) (modIdx : Nat) (allow : BitVec 16) (s : State) : Result :=
  done <|
    match s.slotOfCrew crew with
    | none => s
    | some n =>
      let s := s.modSlot n fun x => { x with allows := insert x.allows modIdx allow }
      let x := s.slot n
      match x.run.selWait with
      | some (h, est) =>
        if est ≤ x.allowance then (s.releaseHold n h).modRun n fun r => { r with selWait := none } else s
      | none => s

/-! ### The scheduler pass (R123, R124) -/

/-- Insert by an order. -/
def insertBy {α : Type} (before : α → α → Bool) (a : α) : List α → List α
  | [] => [a]
  | b :: r => if before a b then a :: b :: r else b :: insertBy before a r
def sortBy {α : Type} (before : α → α → Bool) (l : List α) : List α := l.foldl (fun r a => insertBy before a r) []

/-- A slot that waits for its start. -/
def Slot.waiting (x : Slot) : Bool := (x.rec_.state == .bound || x.rec_.state == .preempted) && !x.pending

/-- Waiting slots in the order of a pass: peff, then AGE descending, then CREW ascending. -/
def waitsBefore (a b : Nat × Slot) : Bool :=
  let x := a.2
  let y := b.2
  if x.peff ≠ y.peff then y.peff < x.peff
  else if x.rec_.age ≠ y.rec_.age then y.rec_.age.toNat < x.rec_.age.toNat else x.rec_.crew.toNat < y.rec_.crew.toNat

/-- TIME cycles a crew has run since STARTED. -/
def State.ranFor (s : State) (x : Slot) : Nat := (s.time - x.rec_.started).toNat

/-- A running crew's effective priority. -/
def State.prun (s : State) (x : Slot) : Nat := if s.ranFor x < 2 ^ 33 then x.rec_.sprio.toNat else x.rec_.prio.toNat

/-- A running crew that a waiting one may pre-empt. -/
def State.mayPreempt (s : State) (c v : Slot) : Bool :=
  v.rec_.state == .running && !v.run.stopped && v.run.draw.isNone
    && (s.prun v < c.rec_.prio.toNat || (s.prun v < c.peff && 2 ^ 33 ≤ s.ranFor v))

/-- Victims in the order they are taken: lowest PRIO, latest STARTED, highest CREW. -/
def victimBefore (a b : Nat × Slot) : Bool :=
  let x := a.2.rec_
  let y := b.2.rec_
  if x.prio ≠ y.prio then x.prio.toNat < y.prio.toNat
  else if x.started ≠ y.started then y.started.toNat < x.started.toNat else y.crew.toNat < x.crew.toNat

/-- The origin at which a slot could start now; a crew whose image is of another grade stays saved (R29). -/
def State.canStart (s : State) (n : Nat) : Option (Nat × Nat) :=
  if s.budgetFor n < (s.slot n).minEst || (s.gradeBad (s.slotImage (s.slot n)).header).isSome then none else s.originFor n

/-- The state in which some slots have left their places. -/
def State.without (s : State) (vs : List Nat) : State :=
  { s with lh := { s.lh with slots := s.lh.slots.filter fun y => !vs.contains y.1 } }

/-- The shortest run of victims that lets a slot start, with its origin. -/
def State.victims (s : State) (n : Nat) : List (Nat × Slot) → List Nat → Option (List Nat × (Nat × Nat))
  | [], _ => none
  | v :: r, taken =>
    let vs := taken ++ [v.1]
    match (s.without vs).canStart n with
    | some o => some (vs, o)
    | none => s.victims n r vs

/-- The victims that would let a waiting slot start, with its origin (R124 steps 2 and 3). -/
def State.victimsFor (s : State) (n : Nat) : Option (List Nat × (Nat × Nat)) :=
  let c := s.slot n
  s.victims n (sortBy victimBefore (s.lh.slots.filter fun v => v.1 != n && s.mayPreempt c v.2)) []

/-- Every module of a spanning crew may start its part: the anchor's own can, and the others have said that theirs can (R121). -/
def Slot.allFit (x : Slot) (own : Bool) : Bool := own && (List.range x.modules).all fun m => m == 0 || x.fits.contains m

/-- The part of a pass that a crew on several modules adds: a module elsewhere tells the anchor whether it could start its part, and the anchor
lets all start when all could (R121; the messages are log 49, DESIGN CHOICE). -/
def State.passFlight (s : State) (n : Nat) : State :=
  let x := s.slot n
  if x.modules = 1 || x.go then s
  else
    let own := (s.canStart n).isSome || (s.victimsFor n).isSome
    if x.modIdx ≠ 0 then
      if own = x.told then s
      else (s.modSlot n fun x => { x with told := own }).tellAnchor x (.fits x.rec_.crew x.modIdx own)
    else if x.allFit own then (s.modSlot n fun x => { x with go := true }).tellAll x (.place x.rec_.crew) else s

/-- One waiting slot: started, or given victims (R124). A slot whose victims are still being drawn off waits for them. (log 31, DEDUCED) -/
def State.passSlot (s : State) (n : Nat) : State :=
  let s := s.passFlight n
  let x := s.slot n
  let still := x.claim.any fun c => c.2.any fun v => (s.slot v).rec_.state == .drawing
  if still || (1 < x.modules && !x.go) then s
  else
    let s := s.modSlot n fun x => { x with claim := none }
    match s.canStart n with
    | some o => s.placeSlot n o
    | none =>
      match s.victimsFor n with
      | none => s
      | some (vs, o) =>
        let s := s.modSlot n fun x => { x with claim := some (o, vs) }
        vs.foldl (fun s v => (s.modSlot v fun y => { y with rec_ := { y.rec_ with state := .drawing } }).drawCrew v .preempt) s

/-- After a crew has left RUNNING the others' allowances rise, highest PRIO first, up to their ceilings (R121). (log 31, DEDUCED) -/
def State.raiseAllows (s : State) : State :=
  if !s.lh.freed then s
  else
    let run := sortBy (fun (a b : Nat × Slot) => b.2.rec_.prio.toNat < a.2.rec_.prio.toNat) (s.lh.slots.filter fun x => x.2.rec_.state == .running)
    let s := { s with lh := { s.lh with freed := false } }
    run.foldl (fun s x =>
      let a := (s.slot x.1).rec_.allow.toNat
      s.setAllow x.1 (max a (min (ceiling x.2.rec_.eclass) (a + s.freeBudget)))) s

/-- Something of a kind is due at a TIME already. -/
def State.scheduled (s : State) (i : Instr) : Bool := s.agenda.any fun d => d.ev == i && (match d.at_ with | .time _ => true | _ => false)

/-- The next multiple of 2^k after now. -/
def State.nextMultiple (s : State) (k : Nat) : Word := BitVec.ofNat 64 ((s.time.toNat / 2 ^ k + 1) * 2 ^ k)

/-- SCHEDULER_PASS: every 2^20 TIME cycles and after every bind, crew end, draw-off and change of cap (R124). A halted lockhouse commits
nothing, and none starts while the module is re-graded (R29, R93). -/
def execSchedulerPass (s : State) : Result :=
  done <|
    let s := if s.scheduled .schedulerPass then s else s.atTime (s.nextMultiple 20) .schedulerPass
    if s.halted || s.lh.regrading.isSome || s.pwr.step ≠ 6 then s
    else
      let s := (sortBy waitsBefore (s.lh.slots.filter fun x => x.2.waiting)).foldl (fun s x => s.passSlot x.1) s
      s.raiseAllows

/-- AGE_TICK: AGE of each waiting slot, every 2^30 TIME cycles (R123). -/
def execAgeTick (s : State) : Result :=
  done <|
    let tick (_ : Nat) (x : Slot) : Slot :=
      if x.rec_.state = .bound || x.rec_.state = .preempted then
        { x with rec_ := { x.rec_ with age := if x.rec_.age = 0xFFFF then x.rec_.age else x.rec_.age + 1 } }
      else x
    let s := { s with lh := { s.lh with slots := mapVals tick s.lh.slots } }
    if s.scheduled .ageTick then s else s.atTime (s.nextMultiple 30) .ageTick

/-! ### Power and heat (R27, R122) -/

/-- Slots of running crews, lowest PRIO first. -/
def State.runningLow (s : State) : List (Nat × Slot) :=
  sortBy (fun (a b : Nat × Slot) => a.2.rec_.prio.toNat < b.2.rec_.prio.toNat) (s.lh.slots.filter fun x => x.2.rec_.state == .running)

/-- The estimate of a crew's current variant. -/
def Slot.currentEst (x : Slot) : Option Nat :=
  x.run.sel.bind fun q => (x.variants.find? fun v => v.cls == q.cls && v.index == q.index).map (·.est.toNat)

/-- Allowances and the non-core allocations together are 5 % below the cap. -/
def State.belowCap (s : State) : Bool :=
  let sum := (s.lh.slots.map fun x => x.2.rec_.allow.toNat).foldl (· + ·) 630
  sum * 100 ≤ s.lh.powerCap.toNat * 95

/-- A fixed hold of 2^16 TIME cycles at a crew's next crew-level phase boundary, named as a draw-off count is (R122, R125). (log 31, DEDUCED) -/
def State.planHold (s : State) (n : Nat) : State :=
  let x := s.slot n
  if x.modIdx = 0 then s.announceAt n x.run.vcyc { h := x.drawCount x.run.vcyc, len := 65536, why := .warning }
  else s.tellAnchor x (.askHold x.rec_.crew x.modIdx .warning)

/-- The action of a warning: allowances fall to the current variants' estimates, lowest PRIO first, and then, if the sum is still too high, the
lowest crew is held. -/
def State.powerWarn (s : State) : State :=
  let s := s.runningLow.foldl (fun s x =>
    match x.2.currentEst with
      | some e => if e < x.2.rec_.allow.toNat then s.setAllow x.1 e else s
      | none => s) s
  if s.belowCap then s
  else match s.runningLow with
    | x :: _ => s.planHold x.1
    | [] => s

/-- A crew that runs counts. -/
def Slot.counting (x : Slot) : Bool := (x.rec_.state == .running || x.rec_.state == .drawing || x.rec_.state == .killing) && !x.run.stopped

/-- The action of a limit: every crew on the module receives an open hold at once; one that starts later receives it then. -/
def State.limitHold (s : State) : State :=
  let s := { s with lh := { s.lh with limit := true } }
  (s.lh.slots.filter (·.2.counting)).foldl (fun s x => s.limitOne x.1) s

/-- What the firmware does beside a record; a halted lockhouse does nothing (R93). -/
def State.unlessHalted (s : State) (f : State → State) : State := if s.halted then s else f s

/-- POWER_WARNING (R122). -/
def execPowerWarning (mean : Nat) (s : State) : Result :=
  done <| if mean * 100 ≤ s.lh.powerCap.toNat * 95 then s else (s.mcheck (BitVec.ofNat 64 mean) 0 0 4 0 0x05 (Config.noCause 0x05)).unlessHalted State.powerWarn

/-- POWER_LIMIT (R122). -/
def execPowerLimit (mean : Nat) (s : State) : Result :=
  done <| if mean ≤ s.lh.powerCap.toNat then s else (s.mcheck (BitVec.ofNat 64 mean) 0 0 4 0 0x05 (Config.noCause 0x05)).unlessHalted State.limitHold

/-- POWER_LIMIT_RELEASE: below 90 % of the cap the holds are released, highest PRIO first (R122). -/
def execPowerLimitRelease (mean : Nat) (s : State) : Result :=
  done <|
    if s.lh.powerCap.toNat * 90 ≤ mean * 100 || s.halted then s
    else
      let held := sortBy (fun (a b : Nat × BitVec 48) => (s.slot b.1).rec_.prio.toNat < (s.slot a.1).rec_.prio.toNat) s.lh.limitHeld
      let s := { s with lh := { s.lh with limit := false, limitHeld := [] } }
      held.foldl (fun s x => s.lockRelease x.1 .limit x.2) s

/-- Crews placed where a sensor is; low flow of the coolant concerns every running crew (R26; log 55, DESIGN CHOICE). -/
def State.crewsAt (s : State) (x : Sensor) : List Nat :=
  let near (y : Slot) : Bool := match x with
    | .reach rx ry _ => y.tiles.any fun t => s.reachOf t == (rx, ry)
    | .feederDie f => y.feeders.contains f
    | .stack f => y.feeders.contains f
    | .coolant => true
  ((s.lh.slots.filter fun y => y.2.rec_.state == .running && near y.2).map (·.1))

/-- A sensor that the module has: four a reach, one a feeder die and a stack, and the coolant's flow (R26, R27). -/
def State.sensorOk (s : State) : Sensor → Bool
  | .reach rx ry n => s.reachOk rx ry && n < 4
  | .feederDie f => s.feederOk f
  | .stack f => s.feederOk f
  | .coolant => true

/-- A reading's record (R95). -/
def State.sensorRecord (s : State) (x : Sensor) : State :=
  s.mcheck (BitVec.ofNat 64 (Config.sensorNumber x)) 0 0 4 (Config.sensorNumber x) 0x05 (Config.noCause 0x05)

/-- THERMAL_WARNING: reported; planned holds follow at the next phase boundaries of the crews placed there (R26, R27, R122). -/
def execThermalWarning (x : Sensor) (s : State) : Result :=
  onUnit (s.sensorOk x) <|
    (s.sensorRecord x).unlessHalted fun s =>
      let s := s.postEvent Event.thermalWarn (BitVec.ofNat 64 (Config.sensorNumber x)) 0
      (s.crewsAt x).foldl State.planHold s.powerWarn

/-- THERMAL_LIMIT: an emergency hold announced at once (R27, R122). -/
def execThermalLimit (x : Sensor) (s : State) : Result := onUnit (s.sensorOk x) ((s.sensorRecord x).unlessHalted State.limitHold)

/-! ### Ageing and re-grading (R28, R29) -/

/-- Planned voltage of a reach, in units of 0.5 mV, and whether it would exceed 0.78 V (R28). -/
def replanned (v slack : Nat) : Nat × Bool :=
  let v := if slack < 40 then v + 10 else if 64 < slack then v - 5 else v
  let v := max v 1280
  if 1560 < v then (1560, true) else (v, false)

/-- The draw-off of a running crew for a re-grade: at its next phase boundary, once that is known, and after 2^30 TIME cycles without one at a
count the lockhouse names (R29). -/
def State.regradeDraw (s : State) (n : Nat) : State :=
  let x := s.slot n
  if x.run.draw.isSome || x.run.stopped then s
  else
    let a := x.run.vcyc
    let h := a + x.rec_.horizon.zeroExtend 48
    let due := x.run.wish.getD (s.time + 2 ^ 30)
    let drawing (s : State) : State := s.modSlot n fun y => { y with rec_ := { y.rec_ with state := .drawing } }
    if x.boundary.any (fun b => !passed b h) || passedTime due s.time then
      if x.modIdx = 0 then (drawing s).announceDraw n ((x.boundary.filter fun b => !passed b h).getD h) .regrade
      else (drawing s).tellAnchor x (.askDraw x.rec_.crew .regrade)
    else s.modRun n fun r => { r with wish := some due }

/-- A reach needs more than 0.78 V: binding stops, the host is told, and every running crew is drawn off (R29). -/
def State.startRegrade (s : State) (rx ry : Nat) : State :=
  if s.lh.regrading.isSome then s
  else (({ s with lh := { s.lh with regrading := some (rx, ry) } }).postEvent Event.regradeStart (reachWord rx ry) 0).soon .regradeDone

/-- The next re-planning of a reach, with the least slack of the interval that then ends (R28). -/
def State.planVoltage (s : State) (rx ry : Nat) : State :=
  let mine (d : Due) : Bool := match d.ev with | .voltageReplan x y _ => x == rx && y == ry | _ => false
  if s.agenda.any mine then s else s.atTime (s.nextMultiple 33) (.voltageReplan rx ry (Config.slack rx ry (s.nextMultiple 33)))

/-- VOLTAGE_REPLAN of an active reach, every 2^33 TIME cycles, from the least slack of the interval in picoseconds (R28). -/
def execVoltageReplan (rx ry : Nat) (slackPs : Nat) (s : State) : Result :=
  onUnit (s.reachOk rx ry) <|
    let r := s.reach rx ry
    let (v, above) := replanned r.volts slackPs
    let s := (s.setReach rx ry { r with volts := v }).planVoltage rx ry
    if above then s.startRegrade rx ry else s

/-! #### Feeders after a reach column is retired (R18) -/

/-- Number of a feeder after the retirement of a reach column: the four over it and the four below it are disabled, and with column 0 gone the
others count from column 32. -/
def feederAfter (col f : Nat) : Option Nat :=
  if col = 0 then (if f % 32 < 4 then none else some (f - 4)) else if 28 ≤ f % 32 then none else some f

/-- A key of a weight store or core store under its feeder's new number; none of a disabled feeder. -/
def keyAfter (col k : Nat) : Option Nat :=
  if k < 2 ^ 42 then (feederAfter col (k / 2 ^ 36)).map fun f => f * 2 ^ 36 + k % 2 ^ 36
  else if 2 ^ 44 ≤ k && k < 2 ^ 64 then (feederAfter col ((k - 2 ^ 44) / 2 ^ 21)).map fun f => 2 ^ 44 + f * 2 ^ 21 + (k - 2 ^ 44) % 2 ^ 21
  else some k

/-- A weight-store page under its home feeder's new number. -/
def PageMap.after (col : Nat) (p : PageMap) : Option PageMap :=
  if gSpace (BitVec.ofNat 64 (p.page * 2 ^ 21)) ≠ 1 then some p
  else (feederAfter col (pageHome p)).map fun f => { p with phys := BitVec.ofNat 64 (f * stackPages + pageInStack p) }

/-- Feeders, stacks and pages take the numbers of the grade that retires a reach column; what the disabled feeders held is gone
(R18, R29, log 51, DESIGN CHOICE). -/
def State.renumber (s : State) (col : Nat) : State :=
  let line (w : LineWrite) : LineWrite := { w with bytes := w.bytes.filterMap fun b => (keyAfter col b.1).map fun k => (k, b.2) }
  { s with feeders := s.feeders.filterMap fun x => (feederAfter col x.1).map fun f => (f, { x.2 with lineWrites := x.2.lineWrites.map line })
           mem := s.mem.filterMap fun c => (keyAfter col c.1).map fun k => (k, c.2)
           poison := s.poison.filterMap (keyAfter col)
           lh := { s.lh with
                   pages := s.lh.pages.filterMap (PageMap.after col)
                   ifaces := s.lh.ifaces.filterMap fun x => match x.iface with
                     | .feeder f => (feederAfter col f).map fun g => { x with iface := .feeder g }
                     | .towline _ => some x
                   slots := mapVals (fun _ x => { x with undo := x.undo.filterMap fun u => (keyAfter col u.1).map fun k => (k, u.2) }) s.lh.slots } }

/-- The module takes the grade that R18 gives it now; none leaves it out of service. -/
def State.graded (s : State) : State :=
  match s.gradeOf with
  | some (g, some col) =>
    if s.retired = some col then s
    else { s.renumber col with grade := g, retired := some col, tiles := [], pwr := { s.pwr with greeting := 0 } }
  | some (g, none) => { s with grade := g, retired := none }
  | none => s

/-- REGRADE_DONE: running crews are drawn off, and once none holds a place the module is graded again with the reach as fused off, and the host is
told (R29). -/
def execRegradeDone (s : State) : Result :=
  done <|
    match s.lh.regrading with
    | none => s
    | some r =>
      let s := (s.lh.slots.filter fun x => x.2.rec_.state == .running).foldl (fun s x => s.regradeDraw x.1) s
      if s.lh.slots.any fun x => x.2.holdsPlace then s.afterTime 1 .regradeDone
      else
        let s := ({ s with worn := r :: s.worn, lh := { s.lh with regrading := none } }).graded
        let g : BitVec 16 := match s.gradeOf with | some g => g.1 | none => 0
        (({ s with lh := { s.lh with regraded := some g } }).postEvent Event.regradeDone (g.zeroExtend 64) 0).soon .schedulerPass

end Sys2Proof.Machine
end

