-- ==== Sys2Proof/Machine/Flight.lean ====
section
/-! DEFINITION. Messages between the modules of a crew, as a towline delivers them (spec 03 R67, R69, R71; 05 R104, R111, R112, R116, R117, R121,
R125; 10 R240, R242, R244; 13 R314; the messages themselves are log 49, DESIGN CHOICE). -/

namespace Sys2Proof.Machine

/-- What a message does for its crew's slot here. -/
def State.forCrew (s : State) (crew : BitVec 16) (f : State → Nat → State) : State :=
  match s.slotOfCrew crew with
  | some n => f s n
  | none => s

/-- A message from a towline port reaches the members of this module within 32 cycles (R69, log 5, DESIGN CHOICE). -/
def State.spread (s : State) (i : Instr) : State :=
  let (d, s) := s.freeBelow 32
  s.afterTime (d + 1) i

/-- The anchor announces the open hold that a lockhouse elsewhere asks for, and keeps its count for the release. -/
def State.holdFor (s : State) (n modIdx : Nat) (why : HoldWhy) : State :=
  let m := (s.slot n).holdNow 0 why
  (s.announceAt n (s.slot n).run.vcyc m).modRun n fun r => { r with asked := r.asked ++ [(modIdx, why, m.h)] }

/-- That lockhouse lets its hold go. -/
def State.dropFor (s : State) (n modIdx : Nat) (why : HoldWhy) : State :=
  match (s.slot n).run.asked.find? fun a => a.1 == modIdx && a.2.1 == why with
  | none => s
  | some a => (s.releaseHold n a.2.2).modRun n fun r => { r with asked := r.asked.erase a }

/-- A draw-off that a lockhouse elsewhere asks of the anchor. -/
def State.drawFor (s : State) (n : Nat) (why : DrawWhy) : State :=
  if why = .mark then s.wishMark n
  else
    let x := s.slot n
    if x.rec_.state ≠ .running || x.run.draw.isSome || x.run.stopped then s
    else (s.modSlot n fun y => { y with rec_ := { y.rec_ with state := .drawing } }).drawCrew n why

/-- The planned hold that a lockhouse elsewhere asks for: at the crew's next phase boundary (R122). -/
def State.warnFor (s : State) (n modIdx : Nat) (why : HoldWhy) : State := if why = .warning then s.planHold n else s.holdFor n modIdx why

/-- A draw-off that the anchor has announced: late once its count has been run; with a fault the crew stops by R240. -/
def State.drawHeard (s : State) (tl n : Nat) (v : BitVec 48) (why : DrawWhy) (fault : Option (BitVec 8 × Word)) : State :=
  let s := s.modRun n fun r =>
    { r with fault := r.fault.or (fault.map fun f => { cause := f.1, addr := f.2, member := 0, at_ := v }) }
  let x := s.slot n
  if x.run.fault.isSome && (x.run.stopped || !x.counting) then s.soon (.crewFaultStop x.rec_.crew)
  else if passed v x.run.vcyc then s.seqFault n Cause.late (BitVec.ofNat 64 tl)
  else if x.run.draw.isSome then s.modRun n fun r => { r with draw := r.draw.map fun d => { d with why := why } }
  else
    let s := if why = .mark || why = .fault then s
      else s.modSlot n fun y => { y with rec_ := { y.rec_ with state := .drawing } }
    s.drawHere n v why

/-- The saved crew of a number is given up, with its pins (R105, R110). -/
def State.discardSaved (s : State) (v : SavedCrew) : State :=
  let ps := unpin s.lh.pages v.asid v.slot.pins
  { s with lh := { s.lh with saved := s.lh.saved.filter (·.handle != v.handle), pages := ps, ifaces := unlockFree ps s.lh.ifaces
                             localNums := s.freeNumber v.slot.rec_.crew } }

/-- A message for the lockhouse, not for the sequencers. -/
def forLockhouse : Notice → Bool
  | .bindRequest _ | .bindResponse _ _ _ _ _ | .bindRelease _ | .bound _ _ | .fits _ _ _ | .place _ | .ready _ _ _ | .drawn _ _ | .saved _
  | .halted _ _ | .ended _ _ _ | .discard _ => true
  | _ => false

/-- What a message does. -/
def State.heed (s : State) (tl : Nat) : Notice → State
  | .bindRequest b => s.soon (.bindRequest b)
  | .bindResponse crew m status result addr => s.soon (.bindResponse crew m status result addr)
  | .bindRelease crew => s.forCrew crew State.unbind
  | .bound crew h => s.forCrew crew fun s n => ((s.setHorizon n h).takeSaved crew).soon .schedulerPass
  | .fits crew m ok => s.forCrew crew fun s n =>
      (s.modSlot n fun x => { x with fits := if ok then x.fits.filter (· ≠ m) ++ [m] else x.fits.filter (· ≠ m) }).soon .schedulerPass
  | .place crew => s.forCrew crew fun s n => (s.modSlot n fun x => { x with go := true }).soon .schedulerPass
  | .ready crew m members => s.forCrew crew fun s n => s.readyHeard n m members
  | .start crew t0 => s.forCrew crew fun s n => s.startAt n t0
  | .allow crew m a => s.soon (.allowChange crew m a)
  | .hold crew a m => s.spread (.holdAnnounce crew a m (some tl))
  | .askHold crew m why => s.forCrew crew fun s n => s.warnFor n m why
  | .endHold crew m why => s.forCrew crew fun s n => s.dropFor n m why
  | .release crew h len => s.spread (.holdRelease crew ⟨h, len⟩ (some tl))
  | .phase crew count m member => s.forCrew crew fun s n => s.phaseReport n (.there m member) 3 count
  | .size crew count cls grp w => s.forCrew crew fun s n => s.sizeWord n cls grp w count
  | .select crew e q => s.forCrew crew fun s n => s.takeSelection n e q
  | .mark crew count m member => s.forCrew crew fun s n => s.markReport n (.there m member) count
  | .askDraw crew why => s.forCrew crew fun s n => s.drawFor n why
  | .draw crew v why fault => s.forCrew crew fun s n => s.drawHeard tl n v why fault
  | .drawn crew m => s.forCrew crew fun s n => s.drawnHeard n m
  | .saved crew => s.forCrew crew State.drawEnds
  | .report crew cause addr member => s.soon (.crewFaultReport crew cause addr member)
  | .halted crew m => s.forCrew crew fun s n => (s.modSlot n fun x => { x with halted := x.halted.filter (· ≠ m) ++ [m] }).checkEnd n
  | .ended crew cause addr => s.forCrew crew fun s n => s.endCrew n cause addr
  | .discard crew => match s.savedOf crew with
    | some v => s.discardSaved v
    | none => s

/-- A message arrives on a towline; what is for a halted lockhouse waits (R93). -/
def State.takeNotice (s : State) (tl : Nat) (m : Notice) : State :=
  if s.halted && forLockhouse m then { s with lh := { s.lh with mail := s.lh.mail ++ [(tl, m)] } } else s.heed tl m

/-- The crew whose hold or draw-off a message announces: such a message lost is LATE (R69). -/
def announces : Notice → Option (BitVec 16)
  | .hold crew _ _ => some crew
  | .draw crew _ _ _ => some crew
  | _ => none

end Sys2Proof.Machine
end

