-- ==== Sys2Proof/Machine/Power.lean ====
section
/-! DEFINITION. Rails, the power-on sequence, the greeting, reset, and losses of rails (spec 01 R24 to R31; 03 R59, R61; 04 R97; 07 R180, R181,
R184). -/

namespace Sys2Proof.Machine

/-! ### TIME loaded (R59, R61) -/

/-- A due entry keeps its distance from TIME. -/
def Due.shift (d : Due) (by_ : Word) : Due := match d.at_ with | .time t => { d with at_ := .time (t + by_) } | .count _ _ => d

def Core.shiftTime (by_ : Word) (c : Core) : Core :=
  { c with reqs := c.reqs.map fun o => { o with sent := o.sent + by_ }, visit := c.visit.map fun v => { v with since := v.since + by_ }
           waits := c.waits.map fun w => (match w.1 with | .btake r v t => .btake r v (t + by_) | x => x, w.2) }

def DirLanes.shift (by_ : Word) (l : DirLanes) : DirLanes := { l with step := l.step.map (· + by_) }

/-- TIME is loaded: what waits for a TIME waits as long as before, and STARTED moves by the same difference (R61). -/
def State.loadTime (s : State) (t : Word) : State :=
  let d := t - s.time
  { s with time := t
           agenda := s.agenda.map (·.shift d)
           tiles := mapVals (fun _ x => { x with stager := x.stager.shiftTime d, worker := x.worker.shiftTime d,
                                                 outHolds := x.outHolds.map fun h => { h with since := h.since + d } }) s.tiles
           feeders := mapVals (fun _ x => { x with cores := x.cores.map (Core.shiftTime d) }) s.feeders
           pwr := { s.pwr with lasersOut := s.pwr.lasersOut.map fun l => (l.1, l.2 + d) }
           towlines := mapVals (fun _ x => { x with outLanes := x.outLanes.shift d, inLanes := x.inLanes.shift d }) s.towlines
           lh := { s.lh with slots := mapVals (fun _ x => { x with rec_ := { x.rec_ with started := x.rec_.started + d }
                                                                   run := { x.run with wish := x.run.wish.map (· + d) } }) s.lh.slots } }

/-! ### Power-on (R25, R97) -/

/-- What a flash bank holds. -/
def Lockhouse.bank (h : Lockhouse) (b : Bool) : List Byte := (if b then h.bankB else h.bankA).getD (Config.firmware b)
def State.bootedFirmware (s : State) : List Byte := s.lh.bank s.lh.bankActive
/-- The active bank, or the other when only its signature holds (R97). -/
def Lockhouse.bootBank (h : Lockhouse) : Option Bool :=
  if Config.slhVerify Config.vendorRoot (h.bank h.bankActive) then some h.bankActive
  else if Config.slhVerify Config.vendorRoot (h.bank !h.bankActive) then some !h.bankActive else none
/-- Measurements M0 to M4 (R97): ROM, booted firmware, grid descriptor, defect map, routes and flight configuration. -/
def State.routeDigest (s : State) : BitVec 256 := digest (Config.routeBytes s.lh.routes (s.flight.zeroExtend 64))
def State.measureAll (s : State) : Vector (BitVec 256) 5 :=
  ((((Vector.replicate 5 Config.romDigest).set 1 (digest s.bootedFirmware)).set 2 (digest s.gridBytes)).set 3 (digest (Config.defectBytes s.defects))).set 4
    s.routeDigest

/-- Exactly n bytes. -/
def fit (n : Nat) (bs : List Byte) : List Byte := (bs ++ List.replicate (n - bs.length) 0).take n

/-- The identity key's seeds, derived by SHAKE256 from the fused secret (R96). -/
def identitySeeds : List Byte := shake256 Config.fusedSecret 96

/-- What the attestation certificate is over, and the certificate: attestation public key, power-on count, M0 to M3, and the identity key's
signature of them (R97, R98). -/
def Lockhouse.certified (h : Lockhouse) : List Byte :=
  fit 32 (Config.slhPublic128 h.attKey) ++ leBytes 8 h.bootCount.toNat ++ (h.measure.toList.take 4).flatMap fun m => leBytes 32 m.toNat
def Lockhouse.certificate (h : Lockhouse) : List Byte := h.certified ++ fit 29792 (Config.slhSign256 identitySeeds h.certified)
/-- The identity certificate: the identity key, and the vendor's signature of it (R98). -/
def identityCert : List Byte := fit 64 (Config.slhPublic256 identitySeeds) ++ fit 29792 Config.identitySig

/-- Step 2: the copies vote, a bank's signature holds, measurements are taken, and the attestation key is drawn and certified; with no bank that
holds the lockhouse stays booting and writes to the console. -/
def State.bootStep (s : State) : State :=
  match s.lh.bootBank with
  | none => s.emit .console
  | some b =>
    let s := { s with lh := { s.lh with bankActive := b } }
    let k := Config.attKey s.free
    let s := { s with lh := { s.lh with phase := .triplex, measure := s.measureAll, attKey := k }, free := s.free + 1, pwr := { s.pwr with step := 3 } }
    let s := { s with lh := { s.lh with cert := s.lh.certificate } }
    s.afterFree .powerSequenceStep

/-- Every rail of the active reaches is in regulation. -/
def State.reachesGood (s : State) : Bool :=
  (List.range 8).all fun rx => (List.range 6).all fun ry => !s.reachOk rx ry || ((s.reach rx ry).coreGood && (s.reach rx ry).transitGood)

/-- PGOOD: high while every active rail is in regulation (R30). -/
def State.pgood (s : State) : Bool :=
  s.pwr.rails.control && s.pwr.rails.feeder && s.pwr.rails.hbm && s.pwr.rails.laser && s.pwr.pgood && s.reachesGood

/-- Step 3: transit rails, then core rails, come on; once every active reach's are good every unit measures its depth (Config), and the
synchronising pulse loads TIME (R25, R59). The step does not end while a rail is lost. -/
def State.railStep (s : State) : State :=
  if !s.reachesGood then s
  else
  let (t, s) := s.takeWord
  let s := s.loadTime t
  let s := { s with pwr := { s.pwr with pgood := true, off := false, step := 4, rails := { s.pwr.rails with feeder := true, hbm := true, laser := true } }
                    tiles := mapVals (fun _ (x : Tile) => { x with timeSkew := 0 }) s.tiles
                    feeders := mapVals (fun _ (x : Feeder) => { x with timeSkew := 0 }) s.feeders }
  s.afterFree .powerSequenceStep

/-- Step 4: lasers stable, stacks trained; the greeting begins with self-test (R180). -/
def State.trainStep (s : State) : State :=
  let s := { s with pwr := { s.pwr with step := 5, greeting := 0 } }
  s.afterTime (2 ^ 16) .greetingPhase

/-- Step 5 ends: the module is graded, boot firmware fills the route tables (R176), READY is posted, and what the firmware does at fixed times begins (R18, R28, R60, R89, R123, R124). -/
def State.readyStep (s : State) : State :=
  let s := s.graded
  let s := { s with pwr := { s.pwr with step := 6, greeting := 2, routes := s.free + 1 }, free := s.free + 1 }
  let s := s.postEvent Event.ready ((match s.gradeOf with | some g => g.1 | none => 0).zeroExtend 64) 0
  let s := if s.scheduled .timeCheckPulse then s else s.afterTime (2 ^ 20) .timeCheckPulse
  let s := if s.scheduled .schedulerPass then s else s.atTime (s.nextMultiple 20) .schedulerPass
  let s := if s.scheduled .ageTick then s else s.atTime (s.nextMultiple 30) .ageTick
  ((List.range 8).flatMap fun rx => (List.range 6).map fun ry => (rx, ry)).foldl (fun s r => if s.reachOk r.1 r.2 then s.planVoltage r.1 r.2 else s) s

/-- POWER_ENABLE: PWR_EN goes high and step 1 begins; THERMTRIP_N is released (R25, R30). -/
def execPowerEnable (s : State) : Result :=
  done <|
    if s.pwr.pwrEn then s
    else
      let s := s.graded
      let s := { s with pwr := { s.pwr with pwrEn := true, tripN := true, step := 1 }, lh := { s.lh with bootCount := s.lh.bootCount + 1 } }
      s.afterFree .powerSequenceStep

/-- POWER_SEQUENCE_STEP: the step under way ends and the next begins (R25). -/
def execPowerSequenceStep (s : State) : Result :=
  done <|
    match s.pwr.step with
    | 1 => ({ s with pwr := { s.pwr with step := 2, rails := { s.pwr.rails with control := true } } }).afterFree .powerSequenceStep
    | 2 => s.bootStep
    | 3 => s.railStep
    | 4 => s.trainStep
    | 5 => if s.pwr.greeting = 2 then s.readyStep else s
    | _ => s

/-- GREETING_PHASE: at 2^16 health is latched and HELLOs are exchanged over every wire, what the self-test found being free; at 2^17 NBRSTAT is fixed,
and grading ends step 5 (R180). -/
def execGreetingPhase (s : State) : Result :=
  done <|
    if s.pwr.step ≠ 5 then s
    else match s.pwr.greeting with
      | 0 =>
        let s := { s with pwr := { s.pwr with greeting := 1, health := s.free + 1 }, free := s.free + 1
                          tiles := mapVals (fun _ (t : Tile) => { t with heard := [] }) s.tiles }
        s.afterTime (2 ^ 16) .greetingPhase
      | 1 => ({ s with pwr := { s.pwr with greeting := 2 } }).soon .powerSequenceStep
      | _ => s

/-! ### Rails off and reset (R27, R30) -/

/-- Cells of tile stores, chambers and core stores. -/
def isTileKey (k : Nat) : Bool := 2 ^ 42 ≤ k && k < 2 ^ 64

/-- Every crew and all tile state are lost. -/
def State.loseTiles (s : State) : State :=
  { s with mem := s.mem.filter fun c => !isTileKey c.1, poison := s.poison.filter fun k => !isTileKey k
           tiles := [], feeders := mapVals (fun _ f => ({ present := f.present } : Feeder)) s.feeders, agenda := [], work := [] }

/-- Reset pulses shorter than 10 µs have no effect (R31): 12,500 cycles at 1.25 GHz. -/
def resetCycles : Nat := 12500

/-- The lockhouse as step 2 finds it: the log, the flash and the weight store are kept (R30, R97). -/
def Lockhouse.restarted (h : Lockhouse) : Lockhouse :=
  { queues := State.reset.lh.queues, log := h.log, lost := h.lost, nextSeq := h.nextSeq, bootCount := h.bootCount
    bankA := h.bankA, bankB := h.bankB, bankActive := xor h.bankActive h.staged }

/-- A parked lane is used again only after the next power-on (R46). -/
def DirLanes.kept (l : DirLanes) : DirLanes :=
  match l.parked with
  | some p => { rot := BitVec.ofNat 5 p, next := BitVec.ofNat 5 p, goal := BitVec.ofNat 5 p, parked := some p, dark := l.dark }
  | none => { dark := l.dark }

/-- RESET_PULSE (R30, R31). (log 30, DEDUCED) -/
def execResetPulse (cycles : Nat) (s : State) : Result :=
  done <|
    if cycles < resetCycles || !s.pwr.pwrEn then s
    else
      let s := s.loseTiles
      let s := { s with lh := s.lh.restarted
                        towlines := mapVals (fun _ (t : Towline) => { ({} : Towline) with outLanes := t.outLanes.kept, inLanes := t.inLanes.kept }) s.towlines
                        reaches := mapVals (fun _ r => { r with tickets := [] }) s.reaches
                        pwr := { s.pwr with step := 2, greeting := 0, health := 0, routes := 0, lasersOut := [] } }
      s.afterFree .powerSequenceStep

/-- POWER_DISABLE: PWR_EN low turns every rail off; flash, host memory and what leaves the module stay (R30). (log 30, DEDUCED) -/
def execPowerDisable (s : State) : Result :=
  done <|
    { State.reset with
      time := s.time, grade := s.grade, modNum := s.modNum, isRef := s.isRef, defects := s.defects, retired := s.retired, worn := s.worn
      mem := s.mem.filter fun c => 2 ^ 64 ≤ c.1
      lh := { State.reset.lh with bootCount := s.lh.bootCount, bankA := s.lh.bankA, bankB := s.lh.bankB
                                  bankActive := xor s.lh.bankActive s.lh.staged }
      reaches := mapVals (fun _ r => ({ volts := r.volts } : Reach)) s.reaches
      free := s.free, inputs := s.inputs, outbox := s.outbox }

/-- A crew fault that the lockhouse finds at a rail. -/
def State.railFault (s : State) (n : Nat) (rx ry : Nat) : State :=
  let w := reachWord rx ry
  s.unitFault (some n) 4 (reachKey rx ry) (s.anchorTile (s.slot n)) Cause.late w

/-- What the control die goes on with when every other rail is off: what its firmware does for slots. -/
def controlDie : Instr → Bool
  | .crewFaultReport _ _ _ _ | .crewFaultStop _ | .rewind _ | .schedulerPass | .ageTick | .completionWrite _ => true
  | _ => false

/-- Every rail but the control die's off: what tiles, feeders, stacks and towlines held is lost. -/
def State.railsOff (s : State) : State :=
  { s with pwr := { s.pwr with pgood := false, off := true, step := 0, lasersOut := [], rails := { s.pwr.rails with feeder := false, hbm := false, laser := false } }
           reaches := mapVals (fun _ r => { r with tickets := [] }) s.reaches
           tiles := [], feeders := [], towlines := mapVals (fun _ (_ : Towline) => {}) s.towlines
           agenda := s.agenda.filter fun d => controlDie d.ev
           work := s.work.filter fun w => match w with | .ev i => controlDie i | _ => false
           mem := s.mem.filter fun c => 2 ^ 64 ≤ c.1, poison := [] }

/-- THERMAL_TRIP: THERMTRIP_N is low until PWR_EN is cycled, every rail but the control die's goes off, and every crew on the module takes a crew
fault, as of a lost rail (R27, R30, R184). (log 30, DEDUCED) -/
def execThermalTrip (x : Sensor) (s : State) : Result :=
  onUnit (s.sensorOk x) <|
    let s := s.sensorRecord x
    let s := { s with pwr := { s.pwr with tripN := false } }.railsOff
    (s.lh.slots.filter fun y => y.2.rec_.state != .free).foldl (fun (s : State) y =>
      let o := s.reachOf (s.anchorTile y.2)
      (s.railFault y.1 o.1 o.2).modRun y.1 fun r => { r with stopped := true, live := false }) s

/-- Logical tiles of a reach. -/
def State.reachTiles (s : State) (rx ry : Nat) : List Nat :=
  (List.range 32).flatMap fun j => (List.range 31).map fun i => s.idOf (31 * (rx - s.firstReach) + i) (32 * ry + j)

/-- A crew has a tile in use in a reach. -/
def State.usesReach (s : State) (x : Slot) (rx ry : Nat) : Bool :=
  let img := s.slotImage x
  (s.reachTiles rx ry).any fun t => x.tiles.contains t && img.tileUsed x.modIdx (s.xOf t - x.rec_.x0.toNat) (s.yOf t - x.rec_.y0.toNat)

/-- CORE_RAIL_LOSS: routers keep running; tile interfaces and cores do not, and crews with tiles in use there take LATE (R184). -/
def execCoreRailLoss (rx ry : Nat) (s : State) : Result :=
  onUnit (s.reachOk rx ry) <|
    let hit := (s.lh.slots.filter fun x => x.2.holdsPlace && s.usesReach x.2 rx ry).map (·.1)
    let ids := s.reachTiles rx ry
    let s := s.setReach rx ry { s.reach rx ry with coreGood := false }
    let s := ids.foldl (fun s t => s.stopCores [.tile t true, .tile t false]) s
    let s := s.mcheck (reachWord rx ry) 0 0 4 (reachKey rx ry) 0x05 (Config.noCause 0x05)
    hit.foldl (fun s n => s.railFault n rx ry) s

/-- CORE_RAIL_RETURN: placement may use the reach's tiles again (R184); a power-on that waits for the rail goes on (R25). -/
def execCoreRailReturn (rx ry : Nat) (s : State) : Result :=
  onUnit (s.reachOk rx ry) <|
    let s := s.setReach rx ry { s.reach rx ry with coreGood := true }
    if s.pwr.step = 3 then s.soon .powerSequenceStep else s.soon .schedulerPass

/-- A block still arriving at taps that have lost their rail: nothing more of it is written (R24). -/
def Block.dropLight (b : Block) : Block := if b.full then b else { b with lost := true }

/-- Boot firmware rewrites the route tables that led through some tiles, and its own entries (R184). -/
def State.reroute (s : State) (ids : List Nat) : State :=
  { s with pwr := { s.pwr with routes := if s.pwr.routes = 0 then 0 else s.free + 1 }, free := s.free + 1
           tiles := mapVals (fun i t => { t with rtab := s.rerouted i t.rtab ids }) s.tiles
           feeders := mapVals (fun i f => { f with rtab := s.rerouted (s.feederTile i) f.rtab ids }) s.feeders
           towlines := mapVals (fun i t => { t with rtab := s.rerouted (s.towlineTile i 1) t.rtab ids }) s.towlines }

/-- A reach without its transit rail: its routers and taps stop, the routers are holes, what they held is lost, route tables lead around it, and
every crew whose rectangle includes a tile there takes LATE (R24, R184). -/
def State.loseTransit (s : State) (rx ry : Nat) : State :=
    let ids := s.reachTiles rx ry
    let hit := (s.lh.slots.filter fun x => x.2.holdsPlace && x.2.tiles.any fun t => s.reachOf t == (rx, ry)).map (·.1)
    let s := s.setReach rx ry { s.reach rx ry with transitGood := false, hole := true }
    let s := ids.foldl (fun s t => s.modTile t fun t =>
      { t with dyn := [], outHolds := [], links := [], presents := [], red := none, ejecting := [], blocks := t.blocks.map Block.dropLight }) s
    let s := s.reroute ids
    let s := s.mcheck (reachWord rx ry) 0 0 4 (reachKey rx ry) 0x05 (Config.noCause 0x05)
    hit.foldl (fun s n => s.railFault n rx ry) s

/-- TRANSIT_RAIL_LOSS (R184). -/
def execTransitRailLoss (rx ry : Nat) (s : State) : Result := onUnit (s.reachOk rx ry) (s.loseTransit rx ry)

/-- TRANSIT_CONVERTER_LOSS: logged; the second converter's loss is that of the rail (R24). -/
def execTransitConverterLoss (rx ry : Nat) (second : Bool) (s : State) : Result :=
  onUnit (s.reachOk rx ry) <|
    let r := s.reach rx ry
    let s := s.mcheck (reachWord rx ry) 0 0 4 (reachKey rx ry) 0x05 (Config.noCause 0x05)
    match r.converterOut with
    | none => s.setReach rx ry { r with converterOut := some second }
    | some k => if k = second then s else s.loseTransit rx ry

end Sys2Proof.Machine
end

