-- ==== Sys2Proof/Machine/Links.lean ====
section
/-! DEFINITION. Towlines: frames, replay, retiming, lane rotation and weak lanes (spec 02 R32 to R49; 03 R66, R69). -/

namespace Sys2Proof.Machine

/-! ### Lanes (R33, R44 to R47) -/

/-- The physical lane that carries a logical lane (R33). -/
def lanePhys (rot : BitVec 5) (l : Nat) : Nat := if l < rot.toNat then l else l + 1

/-- A lane without signal carries traffic: every frame is uncorrectable (R47). -/
def DirLanes.unreadable (l : DirLanes) : Bool := (List.range 16).any fun k => l.dark.contains (lanePhys l.rot k)

/-- The lanes of a direction of a towline; `out`: the one this module sends on. -/
def Towline.lanes (x : Towline) (out : Bool) : DirLanes := if out then x.outLanes else x.inLanes
def Towline.setLanes (x : Towline) (out : Bool) (l : DirLanes) : Towline := if out then { x with outLanes := l } else { x with inLanes := l }

/-- A frame has passed: the position of the next one is in force, and the one after that is known (R36, R44). -/
def DirLanes.advance (l : DirLanes) (after : BitVec 5) : DirLanes := { l with rot := l.next, next := after }

/-- Both ends at a position, with nothing announced. -/
def DirLanes.stand (l : DirLanes) (p : Nat) : DirLanes :=
  { l with rot := BitVec.ofNat 5 p, next := BitVec.ofNat 5 p, goal := BitVec.ofNat 5 p }

/-- One position toward another. -/
def toward (p g : Nat) : Nat := if p < g then p + 1 else if g < p then p - 1 else p

/-- TIME cycles of a fast step, of a period of an ordinary one, and from its start to the end of the comparison, without and with the calibration
row (R44, R46). -/
def fastStep : Nat := 2 ^ 17
def lanePeriod : Nat := 2 ^ 24
def fastCompare : Nat := 2 ^ 16
def laneCompare : Nat := 2 ^ 23 + 2 ^ 16

/-- The comparison of the next step ends after d TIME cycles; whether a symbol then differs is free (log 5, DESIGN CHOICE). -/
def State.stepAfter (s : State) (tl : Nat) (out : Bool) (d : Nat) : State :=
  let t := s.time + BitVec.ofNat 64 d
  let (differ, s) := s.takeBool
  (s.modTowline tl fun x => x.setLanes out { x.lanes out with step := some t }).atTime t (.laneRotationStep ⟨tl, out⟩ differ)

/-- A record that names a lane (R46). -/
def State.laneRecord (s : State) (tl lane : Nat) : State := s.mcheck (BitVec.ofNat 64 lane) 0 0 2 tl 0x06 (Config.noCause 0x06)

/-- The shadow has reached the weak lane: it is parked, and recorded (R46). -/
def State.park (s : State) (tl : Nat) (out : Bool) (lane : Nat) : State :=
  (s.modTowline tl fun x => x.setLanes out { (x.lanes out).stand lane with walkTo := none, parked := some lane, step := none }).laneRecord tl lane

/-- A lane is weak: with none parked or walked to, the shadow walks toward it; a second one is recorded only (R46). (log 32, DEDUCED) -/
def State.findWeak (s : State) (tl : Nat) (out : Bool) (lane : Nat) : State :=
  let l := (s.towline tl).lanes out
  if l.parked.isSome || l.walkTo.isSome then s.laneRecord tl lane
  else if l.rot.toNat = lane && l.next = l.rot && l.goal = l.rot then s.park tl out lane
  else (s.modTowline tl fun x => x.setLanes out { l with walkTo := some lane }).stepAfter tl out fastCompare

/-- Positions after a frame; a walk ends at its lane, and a lane without signal that the shadow leaves is a lane to park (R46, R47). -/
def State.lanesOn (s : State) (tl : Nat) (out : Bool) (after : BitVec 5) : State :=
  let l := (s.towline tl).lanes out
  let m := l.advance after
  let s := s.modTowline tl fun x => x.setLanes out m
  if m.rot = l.rot then s
  else if m.walkTo = some m.rot.toNat then s.park tl out m.rot.toNat
  else if l.dark.contains l.rot.toNat then s.findWeak tl out l.rot.toNat
  else s

/-- The next position of an ordinary step: up to 16 and back down to 0 (R44). -/
def DirLanes.ordinary (l : DirLanes) : DirLanes :=
  let down : Bool := if l.goal.toNat = 16 then true else if l.goal = 0 then false else l.down
  { l with down := down, goal := if down then l.goal - 1 else l.goal + 1 }

/-- A fast step: the sender's next headers announce the position; at the receiver a walk whose frames cannot be read moves by itself, both ends
counting the same step (R46, R47). (log 32, DEDUCED) -/
def State.walkStep (s : State) (tl : Nat) (out : Bool) (lane : Nat) : State :=
  let l := (s.towline tl).lanes out
  if out then s.modTowline tl fun x => x.setLanes out { l with goal := BitVec.ofNat 5 (toward l.goal.toNat lane) }
  else if l.unreadable then
    let p := toward l.rot.toNat lane
    let s := s.modTowline tl fun x => x.setLanes out (l.stand p)
    if p = lane then s.park tl out lane else s
  else s

/-- LANE_ROTATION_STEP: the comparison of a step ends. The next position is announced unless a symbol differed; the receiver of a direction follows
what the sender announces (R44 to R46). A lane without signal compares with nothing. -/
def execLaneRotationStep (d : TowDir) (differ : Bool) (s : State) : Result :=
  onUnit (towlineOk d.tl) <|
    let tl := d.tl
    let out := d.out
    let x := s.towline tl
    let l := x.lanes out
    if !x.up || l.step ≠ some s.time then s
    else match l.walkTo with
      | some lane =>
        let s := s.stepAfter tl out fastStep
        if differ && !l.dark.contains lane then s else s.walkStep tl out lane
      | none =>
        if !out || l.parked.isSome then s
        else
          let s := s.stepAfter tl out lanePeriod
          if differ then s else s.modTowline tl fun x => x.setLanes out (x.lanes out).ordinary

/-- WEAK_LANE: more than 1,024 corrected symbols in 2^24 TIME cycles (R46); of an outgoing lane the far end's receiver tells (log 52, DESIGN
CHOICE). -/
def execWeakLane (d : TowDir) (lane : Nat) (s : State) : Result := onUnit (towlineOk d.tl && lane < 17) (s.findWeak d.tl d.out lane)

/-- LANE_SIGNAL_LOSS: on a lane with traffic every frame is uncorrectable until the lane is parked; the shadow has no traffic (R47). -/
def execLaneSignalLoss (d : TowDir) (lane : Nat) (s : State) : Result :=
  onUnit (towlineOk d.tl && lane < 17) <|
    let l := (s.towline d.tl).lanes d.out
    if l.dark.contains lane then s
    else
      let s := s.modTowline d.tl fun x => x.setLanes d.out { l with dark := lane :: l.dark }
      if lane = l.rot.toNat then s else s.findWeak d.tl d.out lane

/-! ### Sending (R34 to R39) -/

/-- Flit slots that a packet takes: its head, and its payload if it has one. -/
def packetSlots (p : Packet) : Nat := if p.len = 0 then 1 else 2

/-- The packets that fit into n slots, in order, and those left; a packet's head and payload lie in one frame (log 52, DESIGN CHOICE). -/
def fillSlots : Nat → List Packet → List Packet × List Packet
  | _, [] => ([], [])
  | n, p :: r =>
    if n < packetSlots p then ([], p :: r)
    else
      let (a, b) := fillSlots (n - packetSlots p) r
      (p :: a, b)

/-- Slots of a frame (R34). -/
def frameSlots : Nat := 39
/-- Frames a sender keeps for replay (R39). -/
def keptFrames : Nat := 64

/-- What a header says of the reverse direction: the oldest uncorrectable frame not yet named, else the last one received (R36, R39). -/
def Towline.ackOf (x : Towline) : BitVec 12 := x.nacks.headD x.ackSeq

/-- A frame leaves under this header: the lanes go on, and the frame it names is named (R36, R39, R44). -/
def State.leaves (s : State) (tl : Nat) (f : Frame) : State :=
  ((s.lanesOn tl true (s.towline tl).outLanes.goal).modTowline tl fun x => { x with nacks := x.nacks.drop 1 }).emit (.frame tl f)

/-- The next new frame of a towline, and the towline after it: static flits by count, at most 15 cycles after the first, then crews' announcements
and messages, then dynamic packets, then idle slots (R34 to R36, R69). (log 32, DEDUCED) -/
def State.buildFrame (s : State) (x : Towline) : Frame × Towline :=
  let crew : BitVec 16 := match x.owner with | some n => (s.slot n).rec_.crew | none => 0
  let now : BitVec 48 := match x.owner with | some n => (s.slot n).run.vcyc | none => 0
  let first : BitVec 48 := match x.staticOut with | o :: _ => o.count | [] => now
  let fits (o : StaticOut) : Bool := (o.count - first).toNat ≤ 15
  let outs := (x.staticOut.takeWhile fits).take frameSlots
  let notes := x.notes.take (frameSlots - outs.length)
  let (pkts, left) := fillSlots (frameSlots - outs.length - notes.length) x.dynOut
  let used := outs.length + notes.length + (pkts.map packetSlots).foldl (· + ·) 0
  let f : Frame :=
    { vstamp := first, seq := x.seqNext, ackseq := x.ackOf, nack := !x.nacks.isEmpty, rot := x.outLanes.goal, crewTag := crew, resv := false
      slots := outs.map (fun o => .static o.port ((o.count - first).extractLsb' 0 4) o.flit) ++ notes.map .notice ++ pkts.map .dynamic
        ++ List.replicate (frameSlots - used) .idle }
  (f, { x with staticOut := x.staticOut.drop outs.length, notes := x.notes.drop notes.length, dynOut := left, seqNext := x.seqNext + 1
               sent := (x.sent ++ [(⟨f, 1⟩ : SentFrame)]).drop (x.sent.length + 1 - keptFrames) })

/-- FRAME_SEND: at a frame period's end the frame leaves; a frame named by a NACK goes before any new one (R34, R39). -/
def execFrameSend (tl : Nat) (s : State) : Result :=
  onUnit (towlineOk tl) <|
    let x := s.towline tl
    if !x.up then s
    else match x.replayQ with
      | q :: r => (s.setTowline tl { x with replayQ := r }).soon (.frameReplay tl q)
      | [] =>
        let (f, x) := s.buildFrame x
        (s.setTowline tl x).leaves tl f

/-- Dynamic packets of a frame, in slot order. -/
def framePackets (f : Frame) : List Packet := f.slots.filterMap fun y => match y with | .dynamic p => some p | _ => none

/-- A towline declared down: recorded and told to the host; its crew takes LATE, and the requests that wait on it, those in frames that were not
delivered among them, are answered (R42). -/
def State.towlineDown (s : State) (tl : Nat) (named : BitVec 12) : State :=
  let x := s.towline tl
  let lost := (x.sent.filter fun f => f.frame.seq == named || x.replayQ.contains f.frame.seq).flatMap fun f => framePackets f.frame
  let idle (l : DirLanes) : DirLanes := { l with step := none }
  let s := s.setTowline tl { x with up := false, dynOut := [], notes := [], staticOut := [], sent := [], replayQ := [], nacks := []
                                    outLanes := idle x.outLanes, inLanes := idle x.inLanes }
  let s := (s.mcheck (BitVec.ofNat 64 tl) 0 0 2 tl 0x06 (Config.noCause 0x06)).postEvent Event.towlineDown (BitVec.ofNat 64 tl) 0
  let s := match x.owner with
    | some n => s.unitFault (some n) 2 tl (s.anchorTile (s.slot n)) Cause.late (BitVec.ofNat 64 tl)
    | none => s
  (lost ++ x.dynOut).foldl (fun s p => match p.req with
    | some q => s.answer (.towline tl) q .nack
    | none => s) s

/-- FRAME_REPLAY: the named frame is sent again, its header's ROT and ACKSEQ as of now; one that would need an eighth sending takes the towline
down (R36, R39, R42). -/
def execFrameReplay (tl : Nat) (seq : BitVec 12) (s : State) : Result :=
  onUnit (towlineOk tl) <|
    let x := s.towline tl
    match x.sent.find? fun f => f.frame.seq == seq with
    | none => s
    | some f =>
      if 7 ≤ f.sendings then s.towlineDown tl seq
      else
        let again (g : SentFrame) : SentFrame := if g.frame.seq = seq then { g with sendings := g.sendings + 1 } else g
        let s := s.setTowline tl { x with sent := x.sent.map again }
        s.leaves tl { f.frame with ackseq := x.ackOf, nack := !x.nacks.isEmpty, rot := x.outLanes.goal }

/-! ### Receiving (R37, R39, R41, R42, R47 to R51, R66) -/

/-- A frame that counts as uncorrectable (R35, R37, R39, R47). -/
def Towline.frameBad (x : Towline) (f : Frame) (bad : Bool) : Bool :=
  bad || f.resv || 16 < f.rot.toNat || f.slots.any (· == .reserved) || x.inLanes.unreadable

/-- The timing error measured on a frame (R66), in 1/256 cycle. -/
def State.timingError (s : State) (tl : Nat) (n : Nat) (stamp : BitVec 48) : Int :=
  let x := s.slot n
  s.driftAcc x.run - Config.farAcc tl x.rec_.crew stamp + Config.fibre tl s.time

/-- A crew fault found at a towline port. -/
def State.portFault (s : State) (tl n : Nat) (cause : BitVec 8) : State :=
  s.unitFault (some n) 2 tl (s.anchorTile (s.slot n)) cause (BitVec.ofNat 64 tl)

/-- A static flit goes into the retiming buffer, to be handed over at its count (R41); one whose count has been run is beyond the bound of R41. -/
def State.retimeFlit (s : State) (tl n : Nat) (f : Frame) (port : BitVec 2) (offs : BitVec 4) (flit : Flit) : State :=
  let c := f.vstamp + offs.zeroExtend 48 + (s.towline tl).lat.zeroExtend 48
  let run := (s.slot n).run
  if passed c run.vcyc || (c == run.vcyc && run.live) then s.portFault tl n Cause.driftLimit
  else (s.modTowline tl fun x => { x with retime := x.retime ++ [⟨c, port, flit⟩] }).atCount n c (.staticFlitHandoff tl)

/-- A dynamic packet that arrives: carried on to another module, translated here, or delivered (R48, R49, R51). -/
def State.packetArrives (s : State) (tl : Nat) (p : Packet) : State :=
  if !s.isHere p.dstMod then s.launchPacket (.towline tl) p
  else match p.req with
    | some q =>
      if gSpace q.gaddr = 1 then s.launchPacket (.towline tl) (reqPacket q s.modNum 1 (s.entryFeeder (s.towlineTile tl 1)))
      else s.soon (.remoteRequestReceive (.towline tl) q)
    | none => s.launchPacket (.towline tl) p

/-- The frame's static flits belong to a crew bound here, or are discarded with a record (R38); the timing error is measured on a frame that holds
some (R66, log 52, DESIGN CHOICE). -/
def State.takeStatics (s : State) (tl : Nat) (f : Frame) : State :=
  let flits := f.slots.filterMap fun x => match x with | .static p o g => some (p, o, g) | _ => none
  if flits.isEmpty then s
  else match s.slotOfCrew f.crewTag with
    | none => s.mcheck (BitVec.ofNat 64 tl) 0 f.crewTag 2 tl 0x06 (Config.noCause 0x06)
    | some n =>
      let e := s.timingError tl n f.vstamp
      let s := if 1024 < e.natAbs then s.portFault tl n Cause.driftLimit else s
      flits.foldl (fun s g => s.retimeFlit tl n f g.1 g.2.1 g.2.2) s

/-- A frame uncorrectable for the second time: static flits lost are LATE, and so is each announcement (R42, R69). -/
def State.lostTwice (s : State) (tl : Nat) (fr : Frame) : State :=
  let static : Bool := fr.slots.any fun y => match y with | .static _ _ _ => true | _ => false
  let told := fr.slots.filterMap fun y => match y with | .notice n => announces n | _ => none
  let s := match (s.towline tl).owner with
    | some n => if static then s.portFault tl n Cause.late else s
    | none => s
  (told.eraseDups).foldl (fun s crew => s.forCrew crew fun s n => s.portFault tl n Cause.late) s

/-- What a dynamic slot carries arrives. -/
def State.takeSlot (s : State) (tl : Nat) : FrameSlot → State
  | .dynamic p => s.packetArrives tl p
  | .notice n => s.takeNotice tl n
  | _ => s

/-- FRAME_RECEIVE: an uncorrectable frame is discarded and named in a later header; another sets the position two frames on and is taken in slot
order (R35 to R42, R44, R47). -/
def execFrameReceive (tl : Nat) (fr : Frame) (bad : Bool) (s : State) : Result :=
  onUnit (towlineOk tl) <|
    let x := s.towline tl
    if !x.up then s
    else if x.frameBad fr bad then
      let before := lookupD x.badSeqs fr.seq.toNat 0
      let s := s.setTowline tl { x with nacks := if x.nacks.contains fr.seq then x.nacks else x.nacks ++ [fr.seq]
                                        badSeqs := insert x.badSeqs fr.seq.toNat (before + 1) }
      let s := s.lanesOn tl false x.inLanes.next
      if before = 1 then s.lostTwice tl fr else s
    else
      let s := s.setTowline tl { x with ackSeq := fr.seq, badSeqs := remove x.badSeqs fr.seq.toNat
                                        replayQ := if fr.nack && !x.replayQ.contains fr.ackseq then x.replayQ ++ [fr.ackseq] else x.replayQ }
      let s := (s.lanesOn tl false fr.rot).takeStatics tl fr
      fr.slots.foldl (fun s y => s.takeSlot tl y) s

end Sys2Proof.Machine
end

