-- ==== Sys2Proof/Machine/HostPort.lean ====
section
/-! DEFINITION. The host's ports: apertures and submissions, BAR0 registers, completion rings; and the vote, halts and restarts of the
lockhouse (spec 04 R76 to R85, R90 to R94). -/

namespace Sys2Proof.Machine

/-! ### Apertures (R76, R79 to R82) -/

/-- A write that a port discards is recorded with its offset. -/
def State.portRecord (s : State) (port off : Nat) : State := s.mcheck (BitVec.ofNat 64 off) 0 0 5 port 0x03 (Config.noCause 0x03)

/-- The queue whose aperture a port decodes at an offset. -/
def State.aperture (s : State) (port off : Nat) : Option Queue :=
  (s.queue? (off / 4096)).bind fun q => if q.port = port then some q else none

/-- A port of the host, and an offset within an aperture space of n bytes. -/
def portOk (port off n : Nat) : Bool := port < 4 && off < n

/-- Sizes of BAR0 and BAR2, and the offset of CQHEAD. -/
def bar0Size : Nat := 2 ^ 20
def bar2Size : Nat := 2 ^ 27
def cqheadOff : Nat := 0x40
/-- The MSI-X table in BAR0: 2,048 vectors of 16 bytes. -/
def msixBase : Nat := 0x10000
def msixEnd : Nat := msixBase + 2048 * 16

/-- What a host reads at an offset of BAR2: zero (R8, R76, R79). -/
def readBar2 (_port _off : Nat) : Word := 0

/-- A submission entry (R83). -/
def parseCmd (qid : Nat) (bs : List Byte) : HostCmd :=
  let w (k : Nat) : Word := BitVec.ofNat 64 (leNat ((bs.drop (8 * k)).take 8))
  { qid := qid, cid := (w 0).extractLsb' 16 16, opc := (w 0).extractLsb' 0 8, flags := (w 0).extractLsb' 8 8, resv := (w 0).extractLsb' 32 32
    w1 := w 1, w2 := w 2, w3 := w 3, w4 := w 4, w5 := w 5, w6 := w 6, w7 := w 7 }

/-- A discarded entry counts in DROPPED, which wraps at 2^32 (R80, R81; no end of the count is stated, log 53, DESIGN CHOICE). -/
def State.dropEntry (s : State) (q : Queue) : State := s.setQueue { q with dropped := q.dropped + 1 }

/-- An entry accepted: in flight until its completion is written; a halted lockhouse's ports answer it (R81, R93). One that arrives during a restart
waits for its end (log 53, DESIGN CHOICE). -/
def State.acceptEntry (s : State) (q : Queue) (c : HostCmd) : State :=
  let s := s.setQueue { q with inflight := q.inflight + 1 }
  if s.lh.phase = .halted then s.complete c Status.voteHalt 0 (BitVec.ofNat 64 (s.lh.disputed.getD 0))
  else { s with lh := { s.lh with accepted := s.lh.accepted ++ [c] } }

/-- SUBMIT: one write request at an aperture: an entry of 64 bytes at the SUBMIT port is accepted while fewer than DEPTH commands are in flight
(R76, R79 to R81). The aperture offset that R80 logs is taken as the offset in BAR2, as in R76 (log 53, DESIGN CHOICE). -/
def execSubmit (port off : Nat) (data : List Byte) (s : State) : Result :=
  onUnit (portOk port off bar2Size) <|
    if !s.pwr.pwrEn then s
    else match s.aperture port off with
      | none => s.portRecord port off
      | some q =>
        if off % 4096 ≠ 0 || data.length ≠ 64 then
          let s := s.portRecord port off
          if off % 4096 < cqheadOff then s.dropEntry q else s
        else if q.depth ≤ q.inflight then s.dropEntry q
        else s.acceptEntry q (parseCmd q.qid data)

/-- CQHEAD moves forward, at most to the last completion written, and what waited is written (R82). -/
def execCqheadWrite (port off : Nat) (val : Word) (s : State) : Result :=
  onUnit (portOk port off bar2Size) <|
    if !s.pwr.pwrEn then s
    else match s.aperture port off with
      | none => s.portRecord port off
      | some q =>
        let v : BitVec 32 := val.extractLsb' 0 32
        if off % 4096 ≠ cqheadOff || (BitVec.ofNat 32 q.written - q.cqhead).toNat < (v - q.cqhead).toNat then s.portRecord port off
        else (s.setQueue { q with cqhead := v }).flush q.qid (v - q.cqhead).toNat

/-- COMPLETION_WRITE: the oldest completion or event that waits for a queue's ring goes to its slot, words 1 to 3 before word 0 (R82, R84). -/
def execCompletionWrite (qid : Nat) (s : State) : Result := done (s.flushOne qid)

/-! ### BAR0 (R78, R94) -/

/-- A write to LHCTL: a 1 to RESTART starts a restart of a halted lockhouse that no restart has halted again; any other is logged. -/
def State.writeLhctl (s : State) (port : Nat) (val : Word) : State :=
  if val.getLsbD 0 && s.lh.phase = .halted && !s.lh.spent then { s with lh := { s.lh with phase := .restarting } }
  else s.portRecord port 0x08

/-- LHCTL_RESTART (R94). -/
def execLhctlRestart (port : Nat) (val : Word) (s : State) : Result :=
  onUnit (port < 4) <| if !s.pwr.pwrEn then s else s.writeLhctl port val

/-- What waits for an administrative ring is written once it is there: its 256 events and DEPTH completions at most. -/
def State.ringChanged (s : State) (port : Nat) : State := s.flush port 320

/-- BAR0_WRITE: the port's ring registers, LHCTL, the MSI-X table; LHSTAT is read-only, and other offsets are ignored and logged (R76, R78). (log 24, DEDUCED) -/
def execBar0Write (port off : Nat) (val : Word) (s : State) : Result :=
  onUnit (portOk port off bar0Size) <|
    let p := Fin.ofNat 4 port
    if !s.pwr.pwrEn then s
    else if msixBase ≤ off then
      if off < msixEnd then { s with lh := { s.lh with msix := insert s.lh.msix (port * bar0Size + off / 8 * 8) val } } else s
    else if off = 0 then s
    else if off = 0x08 then s.writeLhctl port val
    else if off = 0x10 then ({ s with lh := { s.lh with admBase := s.lh.admBase.set p (val &&& ~~~0xFFF) } }).ringChanged port
    else if off = 0x18 then ({ s with lh := { s.lh with admCfg := s.lh.admCfg.set p (val &&& 0xF07FF) } }).ringChanged port
    else s.portRecord port off

/-- STATE of LHSTAT (R78). -/
def LhPhase.code : LhPhase → BitVec 8
  | .booting => 0
  | .triplex => 1
  | .duplex => 2
  | .halted => 3
  | .restarting => 4

/-- LHSTAT, the same on every port (R78). -/
def State.lhstat (s : State) : Word :=
  s.lh.lost ++ BitVec.ofNat 16 (s.lh.log.filter (·.unread)).length ++ s.lh.evlost ++ (0 : BitVec 5) ++ s.lh.out ++ (0 : BitVec 8) ++ s.lh.phase.code

/-- What a host reads at a BAR0 offset: LHCTL is write-only and reads zero (R8); a vector nothing has written reads zero (log 4, DESIGN CHOICE); of the other offsets no value is stated (R78). -/
def State.readBar0 (s : State) (port off : Nat) : Option Word :=
  let p := Fin.ofNat 4 port
  if off = 0 then some s.lhstat
  else if off = 0x08 then some 0
  else if off = 0x10 then some s.lh.admBase[p]
  else if off = 0x18 then some s.lh.admCfg[p]
  else if msixBase ≤ off && off < msixEnd then some (lookupD s.lh.msix (port * bar0Size + off / 8 * 8) 0)
  else none

/-- ALERT_N: low, false, while a machine-check record or a thermal warning is unread (R30). (log 24, DEDUCED) -/
def State.alertN (s : State) : Bool := !(s.lh.log.any (·.unread) || s.lh.events.any (·.status == Event.thermalWarn))

/-! ### The vote (R90 to R92) -/

def votedOk : Voted → Bool
  | .walker n => n < 8
  | _ => true

/-- Copies in the vote. -/
def State.liveCopies (s : State) : List Nat := (List.range 3).filter fun i => !s.lh.out.getLsbD i

/-- What copy i presents of a commit. -/
def copyWord (c0 c1 c2 : Option Word) (i : Nat) : Option Word := if i = 0 then c0 else if i = 1 then c1 else c2

/-- A value that two copies in the vote present. -/
def agreed (live : List Nat) (w : Nat → Option Word) : Option Word :=
  live.findSome? fun i => match w i with
    | some v => if 2 ≤ (live.filter fun j => w j = some v).length then some v else none
    | none => none

/-- A copy goes out of the vote and is resynchronised within 2^18 TIME cycles (R91, R92). -/
def State.copyOut (s : State) (i addr : Nat) : State :=
  let a := BitVec.ofNat 64 addr
  let s := { s with lh := { s.lh with phase := .duplex, out := BitVec.ofNat 3 (2 ^ i) } }
  let s := (s.mcheck a 0 0 3 i 0x04 (Config.noCause 0x04)).postEvent Event.duplex (BitVec.ofNat 64 i) a
  let (d, s) := s.freeBelow (2 ^ 18)
  s.afterTime (d + 1) .resyncDone

/-- The next count of a crew that runs counts, or of one about to start. -/
def Slot.nextCount (x : Slot) : BitVec 48 := if x.counting then x.run.vcyc + (if x.run.live then 1 else 0) else x.rec_.start

/-- The anchors of this module's bound timed crews announce an open hold at their next count (R93). -/
def State.haltHolds (s : State) : State :=
  (s.lh.slots.filter fun x => x.2.modIdx == 0 && (x.2.counting || x.2.ready) && !(s.timedMembers x.2).isEmpty).foldl (fun (s : State) x =>
    let m : HoldMsg := { h := x.2.nextCount + x.2.rec_.horizon.zeroExtend 48, len := 0, why := .halt }
    let s := s.announceAt x.1 x.2.nextCount m
    { s with lh := { s.lh with haltHeld := s.lh.haltHeld ++ [(x.1, m.h)] } }) s

/-- What the ports' interface hardware does when the lockhouse halts: commands in flight complete VOTE_HALT, the host is told, and the halt is
recorded (R93). -/
def State.haltTold (s : State) (addr : Nat) (live : List Nat) : State :=
  let a := BitVec.ofNat 64 addr
  let cs := s.lh.accepted ++ s.lh.open_
  let s := { s with lh := { s.lh with accepted := [], open_ := [] } }
  let s := cs.foldl (fun s c => s.complete c Status.voteHalt 0 a) s
  let s := s.postEvent Event.halt (BitVec.ofNat 64 ((live.map (2 ^ ·)).foldl (· + ·) 0)) a
  s.mcheck a 0 0 3 (live.headD 0) 0x04 (Config.noCause 0x04)

/-- The lockhouse halts: crews are held, and the ports tell the host (R93). -/
def State.voteHalt (s : State) (addr : Nat) : State :=
  (({ s with lh := { s.lh with phase := .halted, disputed := some addr } }).haltHolds).haltTold addr s.liveCopies

/-- The voter's action on a commit at a state word (R91). -/
def State.vote (s : State) (addr : Nat) (w : Nat → Option Word) : State :=
  if s.lh.phase ≠ .triplex && s.lh.phase ≠ .duplex then s
  else
    let live := s.liveCopies
    match agreed live w with
    | none => s.voteHalt addr
    | some v =>
      let s := { s with lh := { s.lh with words := insert s.lh.words addr v } }
      match live.find? fun i => w i ≠ some v with
      | some i => s.copyOut i addr
      | none => s

/-- VOTE_COMMIT: every copy in the vote has presented the commit (R91). (log 37, DESIGN CHOICE) -/
def execVoteCommit (m : Voted) (addr : Nat) (c0 c1 c2 : Option Word) (s : State) : Result :=
  onUnit (votedOk m) <|
    let w := copyWord c0 c1 c2
    if s.liveCopies.all fun i => (w i).isSome then s.vote addr w else s

/-- VOTE_TIMEOUT: 64 TIME cycles after the first copy a copy that has not presented its commit counts as disagreeing (R91). -/
def execVoteTimeout (m : Voted) (addr : Nat) (c0 c1 c2 : Option Word) (s : State) : Result :=
  onUnit (votedOk m) (s.vote addr (copyWord c0 c1 c2))

/-- RESYNC_DONE: the restored copy joins, and the lockhouse is triplex again (R92). -/
def execResyncDone (s : State) : Result :=
  done <|
    if s.lh.phase ≠ .duplex then s
    else
      let i := ((List.range 3).find? (s.lh.out.getLsbD ·)).getD 0
      ({ s with lh := { s.lh with phase := .triplex, out := 0 } }).postEvent Event.triplex (BitVec.ofNat 64 i) 0

/-! ### Restart (R94) -/

/-- Walks left waiting are issued again. -/
def State.reissueWalks (s : State) : State :=
  s.lh.ifaces.foldl (fun (s : State) x =>
    (((x.walks.filter fun w => !w.2).map fun w => (w.1.asid, gPage w.1.gaddr)).eraseDups).foldl (fun (s : State) k =>
      s.afterFree (.pageWalkDone x.iface k.1 (BitVec.ofNat 64 (k.2 * 2 ^ 21)))) s) s

/-- The crew whose record lay in the disputed word takes VOTE_FAIL: one that runs counts stops by R240; one that runs none is rewound or killed as it
is (R75, R94). (log 45, DEDUCED) -/
def State.voteFail (s : State) (n addr : Nat) : State :=
  let x := s.slot n
  let a := BitVec.ofNat 64 addr
  if x.counting || x.ready then s.unitFault (some n) 3 0 (s.anchorTile x) Cause.voteFail a
  else
    let s := s.mcheck a x.rec_.asid x.rec_.crew 3 0 0x01 Cause.voteFail
    (s.modRun n fun r => { r with fault := some (r.fault.getD { cause := Cause.voteFail, addr := a, member := 0, at_ := r.vcyc }) }).soon
      (.crewFaultStop x.rec_.crew)

/-- What the halt kept waiting: messages to the lockhouse, crews whose cores have all halted, and crews ready for their T0 (R94). -/
def State.catchUp (s : State) : State :=
  let mail := s.lh.mail
  let s := mail.foldl (fun s m => s.takeNotice m.1 m.2) { s with lh := { s.lh with mail := [] } }
  let s := (s.lh.slots.map (·.1)).foldl (fun s n => s.checkEnd n) s
  s.soon .schedulerPass

/-- LOCKHOUSE_RESTART_DONE: the copies agree again and the signatures hold: walks are reissued, held crews released, and what waited goes on; else the
lockhouse halts again, until RESET_N (R94). -/
def execLockhouseRestartDone (agree : Bool) (s : State) : Result :=
  done <|
    if s.lh.phase ≠ .restarting then s
    else if !agree || s.lh.bootBank.isNone then
      ({ s with lh := { s.lh with phase := .halted, spent := true } }).haltTold (s.lh.disputed.getD 0) s.liveCopies
    else
      let hit : Option Nat := s.lh.disputed.bind Config.wordSlot
      let addr := s.lh.disputed.getD 0
      let held := s.lh.haltHeld
      let (r, s) := s.takeWord
      let s := { s with lh := { s.lh with phase := .triplex, out := 0, disputed := none, haltHeld := [] } }
      let s := (s.postEvent Event.triplex r 0).reissueWalks
      let s := held.foldl (fun (s : State) x => s.releaseHold x.1 x.2) s
      let s := match hit with
        | some n => if (lookup? s.lh.slots n).isSome then s.voteFail n addr else s
        | none => s
      s.catchUp

end Sys2Proof.Machine
end

