-- ==== Sys2Proof/Machine/HostCmd.lean ====
section
/-! DEFINITION. The host's commands (spec 04 R83 to R89, R95 to R98; 02 R40, R49; 05 R101, R105, R109, R110, R120, R125; 09 R216 to R218; 10 R246
to R249). -/

namespace Sys2Proof.Machine

/-! ### Checks before a command (R83, R86) -/

/-- Operand fields of a word: low bit and width, rising. -/
abbrev Fields := List (Nat × Nat)

/-- Low bits and widths of the reserved fields of an n-bit word. -/
def gaps (n : Nat) : Nat → Fields → Fields
  | pos, [] => if pos < n then [(pos, n - pos)] else []
  | pos, (lo, w) :: r => if pos < lo then (pos, lo - pos) :: gaps n (lo + w) r else gaps n (lo + w) r

/-- The byte of a word at which its first reserved field that is not zero begins. -/
def badGap (w : Word) (fs : Fields) : Option Nat :=
  ((gaps 64 0 fs).find? fun g => w.toNat / 2 ^ g.1 % 2 ^ g.2 ≠ 0).map fun g => g.1 / 8

def wholeWord : Fields := [(0, 64)]

/-- The byte of the entry at which its first reserved field that is not zero begins; `flags` are the FLAGS bits the command defines. -/
def malformedAt (c : HostCmd) (flags : BitVec 8) (ops : List Fields) : Option Nat :=
  if c.flags &&& ~~~flags ≠ 0 then some 1
  else if c.resv ≠ 0 then some 4
  else ((([c.w1, c.w2, c.w3, c.w4, c.w5, c.w6, c.w7] : List Word).zip (ops ++ List.replicate 7 [])).zipIdx.findSome? fun x =>
    (badGap x.1.1 x.1.2).map fun b => 8 * (x.2 + 1) + b)

/-- The queue a command came on. -/
def State.queueOf (s : State) (c : HostCmd) : Queue :=
  (s.queue? c.qid).getD { qid := c.qid, port := 0, asid := 0, admin := false, ring := 0, depth := 0, size := 0, vec := 0, dropped := 0, cqhead := 0,
                          written := 0, inflight := 0, waiting := [] }

/-- A status with its logged address. -/
def State.deny (s : State) (c : HostCmd) (status : BitVec 8) (log : Nat) : State := s.complete c status 0 (BitVec.ofNat 64 log)

/-- A command whose reserved fields are zero, on a queue that may give it; a tenant command on an administrative queue acts in that queue's ASID (R86,
log 53, DESIGN CHOICE). -/
def State.command (s : State) (c : HostCmd) (admin : Bool) (ops : List Fields) (f : State → State) (flags : BitVec 8 := 0) : Result :=
  done <|
    match malformedAt c flags ops with
    | some b => s.deny c Status.malformed b
    | none => if admin && !(s.queueOf c).admin then s.deny c Status.privilege (4096 * c.qid) else f s

/-- A host buffer: its address a multiple of 8, and answering (R86). -/
def State.withBuffer (s : State) (c : HostCmd) (a : Word) (n : Nat) (f : State → State) : State :=
  if a.toNat % 8 ≠ 0 then s.deny c Status.range a.toNat
  else if !Config.hostOk a n then s.deny c Status.hostDma a.toNat
  else f s

def State.hostWrite (s : State) (a : Word) (bs : List Byte) : State := { s with mem := writeCells s.mem (keyed (Config.hostKey a.toNat) bs) }
def State.hostRead (s : State) (a : Word) (n : Nat) : List Byte := readCells s.mem (Config.hostKey a.toNat) n

/-! ### Queues and events (R86, R87, R89) -/

/-- What IDENTIFY writes: descriptor, fingerprint, module and flight numbers, measurements, versions. (log 9, DESIGN CHOICE) -/
def State.identityBytes (s : State) : List Byte :=
  s.gridBytes ++ leBytes 8 s.fingerprint.toNat ++ leBytes 2 s.modNum.toNat ++ leBytes 2 s.flight.toNat
    ++ (s.lh.measure.toList.flatMap fun m => leBytes 32 m.toNat) ++ Config.versions s.bootedFirmware

/-- IDENTIFY. -/
def execIdentify (c : HostCmd) (s : State) : Result :=
  s.command c false [wholeWord] fun s => s.withBuffer c c.w1 4096 fun s =>
    (s.hostWrite c.w1 (fit 4096 s.identityBytes)).completeOk c (s.grade.zeroExtend 64)

/-- CREATE_QUEUE. (log 23, DEDUCED) -/
def execCreateQueue (c : HostCmd) (s : State) : Result :=
  s.command c true [[(0, 15), (16, 2), (20, 1), (32, 16)], wholeWord, [(0, 9), (16, 4), (32, 11)]] fun s =>
    let n := (c.w1.extractLsb' 0 15).toNat
    let depth := (c.w3.extractLsb' 0 9).toNat
    let size := (c.w3.extractLsb' 16 4).toNat
    if (s.queue? n).isSome then s.deny c Status.badQueue n
    else if depth = 0 || 256 < depth then s.deny c Status.range depth
    else if 2 ^ size < depth + 64 then s.deny c Status.range size
    else if c.w2.toNat % 4096 ≠ 0 then s.deny c Status.range c.w2.toNat
    else
      let q : Queue := { qid := n, port := (c.w1.extractLsb' 16 2).toNat, asid := c.w1.extractLsb' 32 16, admin := c.w1.getLsbD 20, ring := c.w2
                         depth := depth, size := size, vec := c.w3.extractLsb' 32 11, dropped := 0, cqhead := 0, written := 0, inflight := 0
                         waiting := [] }
      ({ s with lh := { s.lh with queues := s.lh.queues ++ [q] } }).completeOk c 0

/-- Every command in flight on a queue completes ABORTED, as far as its ring has room, and the queue is gone (R87). (log 23, DEDUCED) -/
def State.deleteQueue (s : State) (n : Nat) : State :=
  let mine (x : HostCmd) : Bool := x.qid == n
  let cs := s.lh.open_.filter mine ++ s.lh.accepted.filter mine
  let s := { s with lh := { s.lh with accepted := s.lh.accepted.filter (!mine ·), open_ := s.lh.open_.filter (!mine ·) } }
  let s := cs.foldl (fun s x => s.deny x Status.aborted n) s
  { s with lh := { s.lh with queues := s.lh.queues.filter (·.qid ≠ n) } }

/-- DELETE_QUEUE. -/
def execDeleteQueue (c : HostCmd) (s : State) : Result :=
  s.command c true [[(0, 15)]] fun s =>
    let n := (c.w1.extractLsb' 0 15).toNat
    match s.queue? n with
    | none => s.deny c Status.badQueue n
    | some q =>
      if n < 4 then s.deny c Status.badQueue n
      else if n = c.qid then (s.deny c Status.aborted n).deleteQueue n
      else (s.deleteQueue n).completeOk c (BitVec.ofNat 64 q.inflight)

/-- QUERY_QUEUE: a tenant queue may name only itself; another is PRIVILEGE (R86, log 53, DESIGN CHOICE). -/
def execQueryQueue (c : HostCmd) (s : State) : Result :=
  s.command c false [[(0, 15)]] fun s =>
    let n := (c.w1.extractLsb' 0 15).toNat
    if !(s.queueOf c).admin && n ≠ c.qid then s.deny c Status.privilege (4096 * c.qid)
    else match s.queue? n with
      | none => s.deny c Status.badQueue n
      | some q => s.completeOk c (q.dropped ++ (0 : BitVec 23) ++ BitVec.ofNat 9 q.inflight)

/-- EVENTS: administrative events go to a port's queue; EVLOST is cleared (R89). -/
def execEvents (c : HostCmd) (s : State) : Result :=
  s.command c true [[(0, 2)]] fun s =>
    let p : BitVec 2 := c.w1.extractLsb' 0 2
    (({ s with lh := { s.lh with evPort := p, evlost := 0 } }).ringChanged p.toNat).completeOk c 0

/-! ### Address spaces and pages (R86, R87, R110, R216, R217, R246) -/

/-- ASPACE create. -/
def State.aspaceNew (s : State) (c : HostCmd) (a : BitVec 16) : State :=
  if s.lh.aspaces.any (·.1 == a) then s.deny c Status.busy a.toNat
  else ({ s with lh := { s.lh with aspaces := s.lh.aspaces ++ [(a, c.w3)] } }).completeOk c 0

/-- ASPACE destroy: one that owns a bound or saved crew is BUSY; its mappings go. -/
def State.aspaceGone (s : State) (c : HostCmd) (a : BitVec 16) : State :=
  if !s.lh.aspaces.any (·.1 == a) then s.deny c Status.range a.toNat
  else if s.lh.slots.any (·.2.rec_.asid == a) || s.lh.saved.any (·.asid == a) then s.deny c Status.busy a.toNat
  else
    let keep (e : TlbEntry) : Bool := e.asid != a
    let drop (x : IfaceState) : IfaceState := { x with l1 := x.l1.filter keep, l2 := x.l2.filter keep }
    let lh := { s.lh with aspaces := s.lh.aspaces.filter (·.1 != a), pages := s.lh.pages.filter (·.asid != a), ifaces := s.lh.ifaces.map drop }
    ({ s with lh := lh }).completeOk c 0

/-- The two forms of ASPACE: a W2 above 1 is RANGE. (log 23, DEDUCED) -/
def State.aspace (s : State) (c : HostCmd) : State :=
  let a : BitVec 16 := c.w1.extractLsb' 0 16
  match c.w2.toNat with
  | 0 => s.aspaceNew c a
  | 1 => s.aspaceGone c a
  | n => s.deny c Status.range n

def aspaceFields : List Fields := [[(0, 16)], wholeWord, wholeWord]
/-- ASPACE with W2 = 0 -/
def execAspaceCreate (c : HostCmd) (s : State) : Result := s.command c true aspaceFields fun s => s.aspace c
/-- ASPACE with W2 = 1 -/
def execAspaceDestroy (c : HostCmd) (s : State) : Result := s.command c true aspaceFields fun s => s.aspace c

/-- Physical pages that MAP refuses: the reserve, stacks and tiles that are not there, bits of a window's page that must be zero (R216, R246). -/
def State.physBad (s : State) (space : BitVec 3) (p : Nat) : Bool :=
  if space = 1 then !s.feederOk (p / stackPages) || stackPages - 768 ≤ p % stackPages
  else 2 ^ 32 ≤ p || p / 16 % 2 ^ 12 ≠ 0 || !s.tileOk (p / 2 ^ 16)

/-- The berth of a page just mapped is at rest (R217). -/
def State.restPage (s : State) (p : PageMap) : State :=
  if gSpace (BitVec.ofNat 64 (p.page * 2 ^ 21)) = 1 then
    s.modFeeder (pageHome p) fun f => { f with berths := f.berths.filter (·.page ≠ pageInStack p) }
  else s

/-- Page k of a range, and the refusal of one page: its physical page is bad, or its address is mapped. -/
def mapEntry (e : PageMap) (k : Nat) : PageMap := { e with page := e.page + k, phys := e.phys + BitVec.ofNat 64 k }
def State.mapRefusal (s : State) (p : PageMap) : Option (BitVec 8 × Nat) :=
  let a := p.page * 2 ^ 21
  if s.physBad (gSpace (BitVec.ofNat 64 a)) p.phys.toNat then some (Status.range, p.phys.toNat)
  else if (s.pageOf p.asid (BitVec.ofNat 64 a)).isSome then some (Status.busy, a)
  else none

/-- One page mapped, or the refusal with the number of pages mapped before it. -/
def State.mapStep (s : State) (p : PageMap) (k : Nat) : Option (BitVec 8 × Nat) → State × Option (BitVec 8 × Nat × Nat)
  | some r => (s, some (r.1, r.2, k))
  | none => (({ s with lh := { s.lh with pages := s.lh.pages ++ [p] } }).restPage p, none)
def State.mapOne (s : State) (e : PageMap) (k : Nat) : State × Option (BitVec 8 × Nat × Nat) :=
  s.mapStep (mapEntry e k) k (s.mapRefusal (mapEntry e k))

/-- n pages from a page number and a physical page on, up to the first refusal. -/
def State.mapFrom (s : State) (e : PageMap) (n : Nat) : State × Option (BitVec 8 × Nat × Nat) :=
  (List.range n).foldl (fun x k => if x.2.isSome then x else x.1.mapOne e k) (s, none)

/-- A range of pages that MAP and UNMAP refuse: another module's, no space, not aligned, or past the last virtual page. -/
def State.pagesBad (s : State) (a : Word) (n : Nat) : Bool :=
  gMod a ≠ s.modNum || 1 < (gSpace a).toNat || gOff a ≠ 0 || 2 ^ 27 < (a.extractLsb' 21 27).toNat + n

/-- MAP. -/
def execMapPages (c : HostCmd) (s : State) : Result :=
  s.command c true [wholeWord, wholeWord, [(0, 35)], [(0, 16)]] fun s =>
    let asid : BitVec 16 := c.w4.extractLsb' 0 16
    let n := (c.w3.extractLsb' 0 32).toNat
    if s.pagesBad c.w1 n then s.deny c Status.range c.w1.toNat
    else if !s.lh.aspaces.any (·.1 == asid) then s.deny c Status.range asid.toNat
    else
      let e : PageMap := { asid := asid, page := gPage c.w1, phys := c.w2, write := c.w3.getLsbD 32, atomic := c.w3.getLsbD 33, repl := c.w3.getLsbD 34, pins := 0 }
      match s.mapFrom e n with
      | (s, none) => s.completeOk c (BitVec.ofNat 64 n)
      | (s, some r) => s.complete c r.1 (BitVec.ofNat 64 r.2.2) (BitVec.ofNat 64 r.2.1)

/-- n pages unmapped in order, with every interface's entries for them; a pinned one stops it, and one that is not mapped is passed over and not counted
(R87, log 53, DESIGN CHOICE). Answers the number unmapped. -/
def State.unmapFrom (s : State) (asid : BitVec 16) : Nat → Nat → Nat → State × Nat × Option Nat
  | 0, _, done_ => (s, done_, none)
  | n + 1, page, done_ =>
    match s.lh.pages.find? fun p => p.asid == asid && p.page == page with
    | none => s.unmapFrom asid n (page + 1) done_
    | some p =>
      if p.pins ≠ 0 then (s, done_, some page)
      else (({ s with lh := { s.lh with pages := s.lh.pages.filter (· != p) } }).dropEntries asid page).unmapFrom asid n (page + 1) (done_ + 1)

/-- UNMAP. -/
def execUnmapPages (c : HostCmd) (s : State) : Result :=
  s.command c true [wholeWord, [], [(0, 32)], [(0, 16)]] fun s =>
    let n := (c.w3.extractLsb' 0 32).toNat
    if s.pagesBad c.w1 n then s.deny c Status.range c.w1.toNat
    else match s.unmapFrom (c.w4.extractLsb' 0 16) n (gPage c.w1) 0 with
      | (s, k, none) => s.completeOk c (BitVec.ofNat 64 k)
      | (s, k, some p) => s.complete c Status.busy (BitVec.ofNat 64 k) (BitVec.ofNat 64 (p * 2 ^ 21))

/-! ### Copies (R86, R87, R205, R216, R218) -/

/-- Key of a byte of a weight-store page, where a page under migration has it (R233). -/
def State.copyKey (s : State) (p : PageMap) (a : Word) : Nat :=
  match s.migrationOf p.asid a with
  | some m => if m.step = 1 && gOff a / 128 < m.copied then pageKey { p with phys := m.newPhys } (gOff a) else pageKey p (gOff a)
  | none => pageKey p (gOff a)

/-- The global address of the window or page that an address lies in (R50, R85). -/
def windowStart (a : Word) : Word := a &&& ~~~0x1FFFFF

/-- What stands against copying n bytes at an address that lie in one page (R87, R218). -/
def State.copyNo (s : State) (asid : BitVec 16) (into : Bool) (a : Word) (n : Nat) : Option (BitVec 8 × Word) :=
  match s.pageOf asid a with
  | none => some (Status.translation, a)
  | some p =>
    if into && !p.write then some (Status.translation, a)
    else if gSpace a = 1 then
      let rests : Bool := s.pageRests p || (((s.feeder (pageHome p)).berth? (pageInStack p)).any fun b => b.holder.any (·.kind == 6))
      if into && !rests then some (Status.berth, windowStart a) else none
    else
      let t := s.tile (p.phys.extractLsb' 16 16).toNat
      let d := t.win (p.phys.extractLsb' 0 4)
      if t.asid ≠ asid || !d.valid || d.size < gOff a + n then some (Status.translation, a)
      else if into && d.holder ≠ 6 then some (Status.berth, windowStart a)
      else none

/-- Bytes put into one page. -/
def State.copyPut (s : State) (asid : BitVec 16) (a : Word) (bs : List Byte) : State :=
  match s.pageOf asid a with
  | none => s
  | some p =>
    if gSpace a = 1 then
      s.writeHome (pageHome p) (bs.zipIdx.map fun x => (s.copyKey p (a + BitVec.ofNat 64 x.2), x.1))
    else
      let id := (p.phys.extractLsb' 16 16).toNat
      let at_ := ((s.tile id).win (p.phys.extractLsb' 0 4)).base + gOff a
      (s.modTile id fun t => { t with stores := t.stores ++ [{ due := 2, owner := none, bytes := (layout at_ bs.length).zip bs, bad := [] }] }).markDirty
        (.tile id true) at_

/-- Bytes of one page, up to the first poisoned granule or sector, and its address. -/
def State.copyGet (s : State) (asid : BitVec 16) (a : Word) (n : Nat) : List Byte × Option Word :=
  match s.pageOf asid a with
  | none => ([], none)
  | some p =>
    if gSpace a = 1 then
      let key (i : Nat) : Nat := s.copyKey p (a + BitVec.ofNat 64 i)
      let bad := (List.range n).find? fun i => s.poison.contains (key i / 16 * 16)
      let f := pageHome p
      (((List.range (bad.getD n)).map fun i => s.latestWeight f (key i)), bad.map fun i => a + BitVec.ofNat 64 i &&& ~~~0xF)
    else
      let id := (p.phys.extractLsb' 16 16).toNat
      let r : CoreRef := .tile id true
      let at_ := ((s.tile id).win (p.phys.extractLsb' 0 4)).base + gOff a
      let addrs := layout at_ n
      let bad := (List.range n).find? fun i => (s.poisonedAt r [addrs.getD i 0]).isSome
      (((addrs.take (bad.getD n)).map (s.latest r)), bad.map fun i => a + BitVec.ofNat 64 i &&& ~~~0x7)

/-- The pieces of a range that lie in one page each: offset from its start, and length. -/
def pagePieces (a : Word) (n : Nat) : List (Nat × Nat) :=
  (List.range ((gOff a + n + (2 ^ 21 - 1)) / 2 ^ 21)).map fun i =>
    let lo := if i = 0 then 0 else i * 2 ^ 21 - gOff a
    (lo, min n ((i + 1) * 2 ^ 21 - gOff a) - lo)

/-- The first refusal of a range. -/
def State.copyRefused (s : State) (asid : BitVec 16) (into : Bool) (a : Word) (n : Nat) : Option (BitVec 8 × Word) :=
  (pagePieces a n).findSome? fun p => s.copyNo asid into (a + BitVec.ofNat 64 p.1) p.2

/-- COPY_OUT page by page: nothing is written from the first poisoned granule or sector on. -/
def State.copyOutAll (s : State) (asid : BitVec 16) (host a : Word) : List (Nat × Nat) → State × Option Word
  | [] => (s, none)
  | p :: r =>
    let (bs, bad) := s.copyGet asid (a + BitVec.ofNat 64 p.1) p.2
    let s := s.hostWrite (host + BitVec.ofNat 64 p.1) bs
    match bad with
    | some x => (s, some x)
    | none => s.copyOutAll asid host a r

/-- A copy's lengths: 8 B to 2^30 B, a multiple of 8. -/
def copyLenBad (n : Word) : Bool := n.toNat < 8 || 2 ^ 30 < n.toNat || n.toNat % 8 ≠ 0

/-- COPY_IN. -/
def execCopyIn (c : HostCmd) (s : State) : Result :=
  s.command c false [wholeWord, wholeWord, wholeWord] fun s =>
    let n := c.w3.toNat
    let asid := (s.queueOf c).asid
    if copyLenBad c.w3 then s.deny c Status.range n
    else s.withBuffer c c.w1 n fun s =>
      let bs := s.hostRead c.w1 n
      if gMod c.w2 ≠ s.modNum then
        match Config.farCopy c.w2 s.free with
        | some r => ({ s with free := s.free + 1 }).complete c r.1 0 r.2
        | none => (({ s with free := s.free + 1 }).emit (.farStore c.w2 bs)).completeOk c 0
      else match s.copyRefused asid true c.w2 n with
        | some r => s.complete c r.1 0 r.2
        | none =>
          ((pagePieces c.w2 n).foldl (fun (s : State) p => s.copyPut asid (c.w2 + BitVec.ofNat 64 p.1) ((bs.drop p.1).take p.2)) s).completeOk c 0

/-- The completion of a COPY_OUT, POISONED at the first poisoned byte. -/
def State.copyOutDone (s : State) (c : HostCmd) : Option Word → State
  | none => s.completeOk c 0
  | some a => s.complete c Status.poisoned 0 a

/-- COPY_OUT from another module (log 1, DESIGN CHOICE). -/
def State.copyOutFar (s : State) (c : HostCmd) (n : Nat) : State :=
  match Config.farCopy c.w2 s.free with
  | some r => ({ s with free := s.free + 1 }).complete c r.1 0 r.2
  | none => (({ s with free := s.free + 1 }).hostWrite c.w1 (fit n (Config.farBytes c.w2 n))).completeOk c 0

/-- COPY_OUT from this module. -/
def State.copyOutHere (s : State) (c : HostCmd) (n : Nat) : Option (BitVec 8 × Word) → State
  | some r => s.complete c r.1 0 r.2
  | none =>
    let x := s.copyOutAll (s.queueOf c).asid c.w1 c.w2 (pagePieces c.w2 n)
    x.1.copyOutDone c x.2

/-- COPY_OUT. -/
def execCopyOut (c : HostCmd) (s : State) : Result :=
  s.command c false [wholeWord, wholeWord, wholeWord] fun s =>
    if copyLenBad c.w3 then s.deny c Status.range c.w3.toNat
    else s.withBuffer c c.w1 c.w3.toNat fun s =>
      if gMod c.w2 ≠ s.modNum then s.copyOutFar c c.w3.toNat
      else s.copyOutHere c c.w3.toNat (s.copyRefused (s.queueOf c).asid false c.w2 c.w3.toNat)

/-! ### Crews (R86 to R88, R101, R109, R110, R112, R125) -/

/-- Launch options, by field (R101). -/
def optFields : Fields := [(0, 11), (12, 3), (32, 32)]

/-- LAUNCH: the image's address and length, a multiple of 8 up to 2^32 B; the checks and the bind are those of R103 to R110. -/
def execLaunch (c : HostCmd) (s : State) : Result :=
  s.command c false [wholeWord, wholeWord, optFields] fun s =>
    if 2 ^ 32 < c.w2.toNat || c.w2.toNat % 8 ≠ 0 then s.deny c Status.range c.w2.toNat
    else s.startBind c { asid := (s.queueOf c).asid, addr := c.w1, length := c.w2.toNat, opts := c.w3, mods := launchMods c.w3 s.flight, modIdx := 0 } none

/-- The slot of a crew bound in the queue's address space. -/
def State.ownCrew (s : State) (c : HostCmd) (crew : BitVec 16) : Option Nat :=
  (s.lh.slots.find? fun x => x.2.rec_.crew == crew && x.2.rec_.state != .free && x.2.rec_.asid == (s.queueOf c).asid).map (·.1)

/-- The saved crew of a handle in the queue's address space, on its anchor's module. (log 49, DESIGN CHOICE) -/
def State.ownSaved (s : State) (c : HostCmd) (h : Word) : Option SavedCrew :=
  s.lh.saved.find? fun v => v.handle == h && v.asid == (s.queueOf c).asid && v.slot.modIdx == 0

/-- The number that KILL's report bears among members: after every member's. -/
def killMember : Nat := 2 ^ 32

/-- A crew is killed: one that runs counts stops as by a fault with cause 0x00; another ends at once. -/
def State.killCrew (s : State) (n : Nat) : State :=
  let x := s.slot n
  let runs : Bool := x.rec_.state == .running || x.rec_.state == .drawing || x.rec_.state == .killing
  if runs then
    let s := s.modSlot n fun x => { x with rec_ := { x.rec_ with state := .killing }, run := { x.run with fatal := true } }
    if x.modIdx = 0 then s.soon (.crewFaultReport x.rec_.crew 0 0 killMember) else s.tellAnchor x (.report x.rec_.crew 0 0 killMember)
  else s.endCrew n 0 0

/-- KILL: completes when the crew is gone. -/
def execKill (c : HostCmd) (s : State) : Result :=
  s.command c false [[(0, 16)]] fun s =>
    let crew : BitVec 16 := c.w1.extractLsb' 0 16
    match s.ownCrew c crew with
    | none => s.deny c Status.noCrew crew.toNat
    | some n => (s.keepOpen c).killCrew n

/-- DRAW: a running crew is drawn off; one drawing, drawn or not running is BUSY. -/
def execDraw (c : HostCmd) (s : State) : Result :=
  s.command c false [[(0, 16)]] fun s =>
    let crew : BitVec 16 := c.w1.extractLsb' 0 16
    match s.ownCrew c crew with
    | none => s.deny c Status.noCrew crew.toNat
    | some n =>
      if (s.slot n).rec_.state ≠ .running then s.deny c Status.busy crew.toNat
      else ((s.keepOpen c).modSlot n fun x => { x with rec_ := { x.rec_ with state := .drawing } }).drawCrew n .host

/-- RESUME: a saved crew is bound again, with its number, count and pins; refused, it stays saved. -/
def execResume (c : HostCmd) (s : State) : Result :=
  s.command c false [wholeWord, [], optFields] fun s =>
    match s.ownSaved c c.w1 with
    | none => s.deny c Status.noCrew c.w1.toNat
    | some v =>
      let x := v.slot
      if (s.slotOfCrew x.rec_.crew).isSome then s.deny c Status.busy c.w1.toNat
      else
        let q : BindAsk := { asid := v.asid, addr := x.img, length := x.imgLen, opts := c.w3, mods := launchMods c.w3 s.flight, modIdx := x.modIdx }
        let s := s.startBind c q (some x)
        match s.slotOfCrew x.rec_.crew with
        | some n => if (s.slot n).pending then s else { s with lh := { s.lh with saved := s.lh.saved.filter (·.handle != v.handle) } }
        | none => s

/-- DISCARD: a saved crew is given up, with its pins and its number (R105, R110). (log 24, DEDUCED) -/
def execDiscard (c : HostCmd) (s : State) : Result :=
  s.command c false [wholeWord] fun s =>
    match s.ownSaved c c.w1 with
    | none => s.deny c Status.noCrew c.w1.toNat
    | some v =>
      let x := v.slot
      if (s.slotOfCrew x.rec_.crew).isSome then s.deny c Status.busy c.w1.toNat
      else ((s.discardSaved v).tellAll x (.discard x.rec_.crew)).completeOk c 0

/-- Slot state codes (R109). -/
def SlotState.code : SlotState → BitVec 4
  | .free => 0
  | .bound => 1
  | .starting => 2
  | .running => 3
  | .drawing => 4
  | .preempted => 5
  | .rewinding => 6
  | .killing => 7

/-- A bind record as its 512 bits (R108). -/
def Bind.bits (b : Bind) : BitVec 512 :=
  b.towlines ++ b.mods ++ b.crew ++ b.asid ++ b.start ++ b.horizon ++ b.sellat ++ b.pounds ++ b.x0 ++ b.y0 ++ b.wm1 ++ b.hm1 ++ b.image ++ b.save ++ b.age
    ++ (0 : BitVec 14) ++ b.sprio ++ b.started ++ b.eclass ++ b.prio ++ (if b.onfault then (1 : BitVec 1) else 0) ++ (if b.fixed then (1 : BitVec 1) else 0)
    ++ b.state.code ++ (0 : BitVec 4) ++ b.allow ++ (0 : BitVec 32)

/-- The status buffer (R109). -/
def Slot.statusBytes (x : Slot) : List Byte :=
  let count : BitVec 48 := if x.holdsPlace then x.run.vcyc else x.rec_.start
  let sel : Word := match x.run.sel with | some q => selvarWord q 0 | none => 0
  leBytes 64 x.rec_.bits.toNat ++ leBytes 8 count.toNat ++ leBytes 8 sel.toNat ++ [x.lastCause] ++ List.replicate 175 0

/-- CREW_STATUS. -/
def execCrewStatus (c : HostCmd) (s : State) : Result :=
  s.command c false [[(0, 16)], wholeWord] fun s =>
    let crew : BitVec 16 := c.w1.extractLsb' 0 16
    match s.ownCrew c crew with
    | none => s.deny c Status.noCrew crew.toNat
    | some n => s.withBuffer c c.w2 256 fun s =>
        (s.hostWrite c.w2 (s.slot n).statusBytes).completeOk c ((s.slot n).rec_.state.code.zeroExtend 64)

/-! ### Flight and routes (R40, R43, R49, R61) -/

/-- A towline as calibration leaves it: TOWLAT is 3 F + 68 (R40). -/
def calibrateLine (free t : Nat) (x : Towline) : Towline :=
  match Config.calibrated free t with
  | some (f, peer) => { x with up := true, lat := 3 * f + 68, peer := peer }
  | none => { x with up := false, lat := 0, peer := 0xFF }

/-- The rotation timers of a towline's direction start with TIME cycle 0 of a step (R44, R45). -/
def State.startLanes (s : State) (t : Nat) : State :=
  if (s.towline t).up && (s.towline t).outLanes.parked.isNone && (s.towline t).outLanes.walkTo.isNone then s.stepAfter t true laneCompare else s

/-- CALIBRATE: no crew that spans modules may be bound; latencies are set by the flight map, TIME is loaded from the reference module, and lane
rotation begins (R40, R44, R61). -/
def execCalibrate (c : HostCmd) (s : State) : Result :=
  s.command c true [[(0, 5)], wholeWord] fun s =>
    if s.lh.slots.any fun x => 1 < x.2.modules then s.deny c Status.flight (c.w1.extractLsb' 0 5).toNat
    else s.withBuffer c c.w2 Config.flightMapLen fun s =>
      let number : BitVec 5 := c.w1.extractLsb' 0 5
      let (mods, ref) := Config.flightMap (s.hostRead c.w2 Config.flightMapLen) number
      let (t, s) := s.takeWord
      let s := { s with flight := number, isRef := ref, towlines := (List.range 64).map fun i => (i, calibrateLine s.free i (s.towline i))
                        lh := { s.lh with flightMods := mods } }
      let s := if ref then s else s.loadTime t
      let s := (List.range 64).foldl State.startLanes s
      let s := { s with lh := { s.lh with measure := s.lh.measure.set 4 s.routeDigest } }
      s.completeOk c ((s.towline 0).lat.zeroExtend 64)

/-- Values of a route entry that the lockhouse writes (R49). -/
def routeOk (v : Byte) : Bool := v.toNat < 64 || v = 0x7E || v = 0x7F

/-- ROUTE: entries in order up to the first reserved value; those from 6,144 on keep 0x7E (R49, R87). -/
def execRoute (c : HostCmd) (s : State) : Result :=
  s.command c true [[(0, 13)], [(0, 14)], wholeWord] fun s =>
    let first := (c.w1.extractLsb' 0 13).toNat
    let n := (c.w2.extractLsb' 0 14).toNat
    if 8192 < first + n then s.deny c Status.range n
    else s.withBuffer c c.w3 n fun s =>
      let bs := s.hostRead c.w3 n
      let good := bs.takeWhile routeOk
      let put (l : List (Nat × BitVec 8)) (x : Byte × Nat) : List (Nat × BitVec 8) := if first + x.2 < 6144 then insert l (first + x.2) x.1 else l
      let s := { s with lh := { s.lh with routes := good.zipIdx.foldl put s.lh.routes } }
      let s := { s with lh := { s.lh with measure := s.lh.measure.set 4 s.routeDigest } }
      if good.length = n then s.completeOk c 0 else s.deny c Status.malformed 24

/-! ### Pounds (R248, R249) -/

def poundFields : List Fields := [[(0, 32)], wholeWord]

/-- The rectangle of W1: x0, y0, x1, y1. -/
def poundRect (w : Word) : Nat × Nat × Nat × Nat :=
  ((w.extractLsb' 0 8).toNat, (w.extractLsb' 8 8).toNat, (w.extractLsb' 16 8).toNat, (w.extractLsb' 24 8).toNat)
def Pound.rect (p : Pound) : Nat × Nat × Nat × Nat := (p.x0, p.y0, p.x1, p.y1)

def State.setPound (s : State) (p : Pound) : State :=
  { s with lh := { s.lh with pounds := s.lh.pounds.map fun x => if x.num = p.num then p else x } }

/-- POUNDS in the bind records of placed crews, as the pounds now stand (R108). -/
def State.markPounds (s : State) : State :=
  let mark (_ : Nat) (x : Slot) : Slot :=
    if x.holdsPlace then { x with rec_ := { x.rec_ with pounds := s.poundBits x.rec_.x0.toNat x.rec_.y0.toNat x.width x.height } } else x
  { s with lh := { s.lh with slots := mapVals mark s.lh.slots } }

/-- POUND define: the lowest number free (R248). A seventeenth pound logs 16 (R85, log 53, DESIGN CHOICE). -/
def State.poundNew (s : State) (c : HostCmd) : State :=
  let r := poundRect c.w1
  if r.2.2.1 < r.1 || r.2.2.2 < r.2.1 || s.cols ≤ r.2.2.1 || 192 ≤ r.2.2.2 then s.deny c Status.range c.w1.toNat
  else match s.lh.pounds.find? fun p => relMeets p.rect r with
    | some p => s.deny c Status.busy p.num
    | none => match (List.range 16).find? fun k => !s.lh.pounds.any (·.num == k) with
      | none => s.deny c Status.noResource 16
      | some k =>
        let p : Pound := { num := k, x0 := r.1, y0 := r.2.1, x1 := r.2.2.1, y1 := r.2.2.2, state := .defined, cmd := none }
        (({ s with lh := { s.lh with pounds := s.lh.pounds ++ [p] } }).markPounds).completeOk c (BitVec.ofNat 64 k)

/-- Fence, reset and release, by the pound's state; a command under way on the pound makes it BUSY. -/
def State.poundAct (s : State) (c : HostCmd) : State :=
  match s.lh.pounds.find? fun p => p.rect == poundRect c.w1 with
  | none => s.deny c Status.range c.w1.toNat
  | some p =>
    if p.cmd.isSome then s.deny c Status.busy p.num
    else match c.w2.toNat, p.state with
      | 1, .defined => ((s.setPound { p with cmd := some (c.qid, c.cid) }).keepOpen c).afterTime (2 ^ 10) (.poundFenceEffect p.num)
      | 2, .fenced =>
        let (d, s) := ((s.setPound { p with state := .resetting, cmd := some (c.qid, c.cid) }).keepOpen c).freeBelow (2 ^ 20)
        s.afterTime (d + 1) (.poundResetDone p.num)
      | 3, .defined => (({ s with lh := { s.lh with pounds := s.lh.pounds.filter (·.num ≠ p.num) } }).markPounds).completeOk c (BitVec.ofNat 64 p.num)
      | 3, .fenced => (s.setPound { p with state := .defined }).completeOk c (BitVec.ofNat 64 p.num)
      | _, _ => s.deny c Status.busy p.num

/-- The four forms of POUND: a W2 above 3 is MALFORMED. -/
def State.pound (s : State) (c : HostCmd) : State :=
  if 3 < c.w2.toNat then s.deny c Status.malformed 16 else if c.w2 = 0 then s.poundNew c else s.poundAct c

/-- POUND with W2 = 0 -/
def execPoundDefine (c : HostCmd) (s : State) : Result := s.command c true poundFields fun s => s.pound c
/-- POUND with W2 = 1 -/
def execPoundFence (c : HostCmd) (s : State) : Result := s.command c true poundFields fun s => s.pound c
/-- POUND with W2 = 2 -/
def execPoundReset (c : HostCmd) (s : State) : Result := s.command c true poundFields fun s => s.pound c
/-- POUND with W2 = 3 -/
def execPoundRelease (c : HostCmd) (s : State) : Result := s.command c true poundFields fun s => s.pound c

/-- The command of a pound completes OK with its number. -/
def State.poundDone (s : State) (p : Pound) : State :=
  let s := s.setPound { p with state := .fenced, cmd := none }
  match p.cmd with
  | some (q, cid) => s.finish q cid Status.ok (BitVec.ofNat 64 p.num) 0
  | none => s

/-- POUND_FENCE_EFFECT: 2^10 TIME cycles after acceptance every crew whose rectangle meets the pound takes DRAW, its number as address (R249). -/
def execPoundFenceEffect (pound : Nat) (s : State) : Result :=
  done <|
    match s.lh.pounds.find? fun p => p.num == pound && p.state == .defined && p.cmd.isSome with
    | none => s
    | some p =>
      let hit := s.lh.slots.filter fun x => x.2.holdsPlace && x.2.tiles.any fun t => p.x0 ≤ s.xOf t && s.xOf t ≤ p.x1 && p.y0 ≤ s.yOf t && s.yOf t ≤ p.y1
      let s := s.poundDone p
      hit.foldl (fun (s : State) x => s.unitFault (some x.1) 3 0 (s.anchorTile x.2) Cause.draw (BitVec.ofNat 64 pound)) s

/-- POUND_RESET_DONE: every tile of the pound is cleared by R247, and it is FENCED again (R249). -/
def execPoundResetDone (pound : Nat) (s : State) : Result :=
  done <|
    match s.lh.pounds.find? fun p => p.num == pound && p.state == .resetting with
    | none => s
    | some p =>
      let ids := (List.range (p.y1 + 1 - p.y0)).flatMap fun j => (List.range (p.x1 + 1 - p.x0)).map fun i => s.idOf (p.x0 + i) (p.y0 + j)
      (s.clearTiles ids).poundDone p

/-! ### Power, log, firmware, attestation (R86, R95, R97, R98, R120, R124) -/

/-- POWER: a cap of 1,600 to 3,200, and a scheduler pass. -/
def execPower (c : HostCmd) (s : State) : Result :=
  s.command c true [[(0, 16)]] fun s =>
    let n := (c.w1.extractLsb' 0 16).toNat
    if n < 1600 || 3200 < n then s.deny c Status.range n
    else (({ s with lh := { s.lh with powerCap := BitVec.ofNat 16 n } }).completeOk c (BitVec.ofNat 64 n)).soon .schedulerPass

/-- A machine-check record as its 256 bits (R95). -/
def McRec.bits (r : McRec) : BitVec 256 :=
  r.time ++ r.addr ++ r.asid ++ r.crew ++ r.unit ++ r.index ++ r.kind ++ r.cause ++ r.repeat_ ++ r.seq

/-- The n oldest unread records marked read. -/
def markRead : Nat → List McRec → List McRec
  | _, [] => []
  | 0, l => l
  | n + 1, r :: l => if r.unread then { r with unread := false } :: markRead n l else r :: markRead (n + 1) l

/-- READ_LOG. -/
def execReadLog (c : HostCmd) (s : State) : Result :=
  s.command c true [wholeWord, [(0, 11)]] fun s =>
    let n := (c.w2.extractLsb' 0 11).toNat
    if n = 0 || 1024 < n then s.deny c Status.range n
    else s.withBuffer c c.w1 (32 * n) fun s =>
      let rs := (s.lh.log.filter (·.unread)).take n
      let s := s.hostWrite c.w1 (rs.flatMap fun r => leBytes 32 r.bits.toNat)
      ({ s with lh := { s.lh with log := markRead n s.lh.log, lost := 0 } }).completeOk c (BitVec.ofNat 64 rs.length)

/-- FW_STAGE: an image whose signature holds goes to the inactive bank (R87, R97). -/
def execFwStage (c : HostCmd) (s : State) : Result :=
  s.command c true [wholeWord, wholeWord] fun s =>
    let n := c.w2.toNat
    if 2 ^ 24 < n || n % 8 ≠ 0 then s.deny c Status.range n
    else s.withBuffer c c.w1 n fun s =>
      let bs := s.hostRead c.w1 n
      if !Config.slhVerify Config.vendorRoot bs then s.complete c Status.auth 0 (Config.sigOffset bs)
      else
        let lh := if s.lh.bankActive then { s.lh with bankA := some bs, staged := true } else { s.lh with bankB := some bs, staged := true }
        ({ s with lh := lh }).completeOk c 0

/-- Bytes 0 to 255 of a report (R98). -/
def State.reportBytes (s : State) (c : HostCmd) (nonce : List Byte) : List Byte :=
  let crew : List Byte := match s.ownCrew c (c.w4.extractLsb' 0 16) with
    | some n => leBytes 32 (s.slot n).digest.toNat ++ leBytes 2 (s.slot n).rec_.crew.toNat
    | none => List.replicate 34 0
  nonce ++ (s.lh.measure.toList.flatMap fun m => leBytes 32 m.toNat) ++ leBytes 8 s.fingerprint.toNat ++ leBytes 2 s.grade.toNat
    ++ leBytes 2 s.modNum.toNat ++ leBytes 4 s.lhstat.toNat ++ leBytes 8 s.time.toNat ++ crew ++ List.replicate 6 0

/-- ATTEST: the report, and with CHAIN the two certificates; a buffer too short gets nothing (R87, R98). -/
def execAttest (c : HostCmd) (s : State) : Result :=
  s.command c false [wholeWord, wholeWord, wholeWord, [(0, 16)]] (flags := 1) fun s =>
    let chain := c.flags.getLsbD 0
    let n := if chain then 77160 else 17344
    if c.w2.toNat < n || c.w2.toNat % 8 ≠ 0 then s.deny c Status.range c.w2.toNat
    else s.withBuffer c c.w1 n fun s => s.withBuffer c c.w3 32 fun s =>
      let r := s.reportBytes c (s.hostRead c.w3 32)
      let certs : List Byte := if chain then fit 29960 s.lh.cert ++ identityCert else []
      (s.hostWrite c.w1 (r ++ fit 17088 (Config.slhSign128 s.lh.attKey r) ++ certs)).completeOk c (BitVec.ofNat 64 n)

/-! ### The command processor (R81, R86, R88) -/

/-- An opcode that no command has. -/
def State.unassigned (s : State) (c : HostCmd) : State := s.deny c Status.malformed 0

/-- A command by its opcode and, where two rows of the table share one, by W2. -/
def runCommand (c : HostCmd) (s : State) : Result :=
  match c.opc.toNat with
  | 0x01 => execIdentify c s
  | 0x02 => execCreateQueue c s
  | 0x03 => execDeleteQueue c s
  | 0x04 => execQueryQueue c s
  | 0x05 => if c.w2 = 1 then execAspaceDestroy c s else execAspaceCreate c s
  | 0x06 => execMapPages c s
  | 0x07 => execUnmapPages c s
  | 0x08 => execCopyIn c s
  | 0x09 => execCopyOut c s
  | 0x0A => execLaunch c s
  | 0x0B => execKill c s
  | 0x0C => execDraw c s
  | 0x0D => execResume c s
  | 0x0E => execDiscard c s
  | 0x0F => execCrewStatus c s
  | 0x10 => execCalibrate c s
  | 0x11 => execRoute c s
  | 0x12 => if c.w2 = 1 then execPoundFence c s else if c.w2 = 2 then execPoundReset c s else if c.w2 = 3 then execPoundRelease c s else execPoundDefine c s
  | 0x13 => execPower c s
  | 0x14 => execReadLog c s
  | 0x15 => execAttest c s
  | 0x16 => execFwStage c s
  | 0x17 => execEvents c s
  | _ => done (s.unassigned c)

/-- What a command names, as R88 orders commands by it. -/
inductive Named where
  | crew (k : BitVec 16)
  | handle (h : Word)
  | space (a : BitVec 16)
  | queue (q : Nat)
  deriving DecidableEq, Repr

/-- What a command names; LAUNCH and the copies act in their queue's address space. -/
def State.names (s : State) (c : HostCmd) : List Named :=
  match c.opc.toNat with
  | 0x02 | 0x03 | 0x04 => [.queue (c.w1.extractLsb' 0 15).toNat]
  | 0x05 => [.space (c.w1.extractLsb' 0 16)]
  | 0x06 | 0x07 => [.space (c.w4.extractLsb' 0 16)]
  | 0x08 | 0x09 | 0x0A => [.space (s.queueOf c).asid]
  | 0x0B | 0x0C | 0x0F => [.crew (c.w1.extractLsb' 0 16)]
  | 0x0D | 0x0E => [.handle c.w1]
  | 0x15 => [.crew (c.w4.extractLsb' 0 16)]
  | _ => []

/-- An earlier command, waiting or under way, that a later one comes after: one that names the same thing, but for a KILL during a DRAW, and for a DRAW
during a DRAW, which is BUSY (R87, R88). -/
def State.after (s : State) (c o : HostCmd) : Bool :=
  let drawing : Bool := match s.names c with
    | [.crew k] => s.lh.open_.any (namesOpen 0x0C k)
    | _ => false
  let passes : Bool := drawing && ((c.opc == 0x0B && (o.opc == 0x0C || o.opc == 0x0F)) || (c.opc == 0x0C && o.opc == 0x0C))
  (s.names c).any (s.names o).contains && !passes

/-- A DELETE_QUEUE finds no command of its queue half done, and keeps back what came on that queue after it (R87). (log 23, DEDUCED) -/
def State.queueKeeps (s : State) (c : HostCmd) (before : List HostCmd) : Bool :=
  (c.opc == 0x03 && s.lh.open_.any fun o => s.names c == [.queue o.qid]) || before.any fun o => o.opc == 0x03 && s.names o == [.queue c.qid] && o.qid != c.qid

/-- A command whose turn has come, `before` being those that wait and were accepted before it; a DRAW after a stop already announced; none binds
before step 5 of R25 has ended or while the module is graded again (R25, R29, R88). -/
def State.mayRun (s : State) (before : List HostCmd) (c : HostCmd) : Bool :=
  let stopping : Bool := c.opc == 0x0C && (match s.ownCrew c (c.w1.extractLsb' 0 16) with
    | some n => (s.slot n).rec_.state == .running && ((s.slot n).run.draw.isSome || (s.slot n).run.stopped)
    | none => false)
  let binds : Bool := c.opc == 0x0A || c.opc == 0x0D
  !(before ++ s.lh.open_).any (s.after c) && !s.queueKeeps c before && !stopping && !(binds && !s.mayBind)

/-- The next command that the command processor carries out, and the state without it. -/
def State.nextCommand (s : State) : Option (HostCmd × State) :=
  if s.lh.phase ≠ .triplex && s.lh.phase ≠ .duplex then none
  else (s.lh.accepted.zipIdx.find? fun x => s.mayRun (s.lh.accepted.take x.2) x.1).map fun x =>
    (x.1, { s with lh := { s.lh with accepted := s.lh.accepted.eraseIdx x.2 } })

end Sys2Proof.Machine
end

