-- ==== Sys2Proof/Machine/Scalar.lean ====
section
/-! DEFINITION. The S column: scalar arithmetic (spec 13 R321 to R325). Results are written one cycle after entry, products three,
quotients and remainders eighteen (R292). -/

namespace Sys2Proof.Machine

/-- A scalar word whose result of latency n is a function of the state at entry (R303). -/
def scalar (i : Instr) (s : State) (n : Nat) (d : Reg) (f : State → Word) : Result :=
  guarded i s fun s => s.laterG n d (f s)

/-- A division: the result and DZ are written together at E + 18 (R322). -/
def division (i : Instr) (s : State) (d b : Reg) (f : State → Word) : Result :=
  guarded i s fun s => (s.laterG 18 d (f s)).laterFlags 18 (divFlags (s.g b))

/-- ADD: g[SA] + g[SB], modulo 2^64 (R321). -/
def execAdd (d a b : Reg) (s : State) : Result := scalar (.add d a b) s 1 d fun s => s.g a + s.g b
/-- SUB: g[SA] - g[SB], modulo 2^64 (R321). -/
def execSub (d a b : Reg) (s : State) : Result := scalar (.sub d a b) s 1 d fun s => s.g a - s.g b
/-- ADDI: g[SA] + sext(IMM32) (R323). -/
def execAddi (d a : Reg) (imm : BitVec 32) (s : State) : Result := scalar (.addi d a imm) s 1 d fun s => s.g a + imm.signExtend 64
/-- MUL: bits 63:0 of the product (R321). -/
def execMul (d a b : Reg) (s : State) : Result := scalar (.mul d a b) s 3 d fun s => s.g a * s.g b
/-- MULH: bits 127:64 of the signed product (R321). -/
def execMulh (d a b : Reg) (s : State) : Result := scalar (.mulh d a b) s 3 d fun s => valMulh (s.g a) (s.g b)
/-- MULHSU: bits 127:64 of signed by unsigned (R321). -/
def execMulhsu (d a b : Reg) (s : State) : Result := scalar (.mulhsu d a b) s 3 d fun s => valMulhsu (s.g a) (s.g b)
/-- DIV (R322). -/
def execDiv (d a b : Reg) (s : State) : Result := division (.div d a b) s d b fun s => valDiv (s.g a) (s.g b)
/-- DIVU (R322). -/
def execDivu (d a b : Reg) (s : State) : Result := division (.divu d a b) s d b fun s => valDivu (s.g a) (s.g b)
/-- REM (R322). -/
def execRem (d a b : Reg) (s : State) : Result := division (.rem d a b) s d b fun s => valRem (s.g a) (s.g b)
/-- REMU (R322). -/
def execRemu (d a b : Reg) (s : State) : Result := division (.remu d a b) s d b fun s => valRemu (s.g a) (s.g b)
/-- AND (R321). -/
def execAnd (d a b : Reg) (s : State) : Result := scalar (.and d a b) s 1 d fun s => s.g a &&& s.g b
/-- OR (R321). -/
def execOr (d a b : Reg) (s : State) : Result := scalar (.or d a b) s 1 d fun s => s.g a ||| s.g b
/-- XOR (R321). -/
def execXor (d a b : Reg) (s : State) : Result := scalar (.xor d a b) s 1 d fun s => s.g a ^^^ s.g b
/-- ANDN: g[SA] and not g[SB] (R321). -/
def execAndn (d a b : Reg) (s : State) : Result := scalar (.andn d a b) s 1 d fun s => s.g a &&& ~~~(s.g b)
/-- ANDI: g[SA] op sext(IMM32) (R323). -/
def execAndi (d a : Reg) (imm : BitVec 32) (s : State) : Result := scalar (.andi d a imm) s 1 d fun s => s.g a &&& imm.signExtend 64
/-- ORI: g[SA] op sext(IMM32) (R323). -/
def execOri (d a : Reg) (imm : BitVec 32) (s : State) : Result := scalar (.ori d a imm) s 1 d fun s => s.g a ||| imm.signExtend 64
/-- XORI: g[SA] op sext(IMM32) (R323). -/
def execXori (d a : Reg) (imm : BitVec 32) (s : State) : Result := scalar (.xori d a imm) s 1 d fun s => s.g a ^^^ imm.signExtend 64
/-- SHL: shift by g[SB][5:0] (R321). -/
def execShl (d a b : Reg) (s : State) : Result := scalar (.shl d a b) s 1 d fun s => valShl (s.g a) (low6 (s.g b))
/-- SHR: shift by g[SB][5:0] (R321). -/
def execShr (d a b : Reg) (s : State) : Result := scalar (.shr d a b) s 1 d fun s => valShr (s.g a) (low6 (s.g b))
/-- SHA: shift by g[SB][5:0] (R321). -/
def execSha (d a b : Reg) (s : State) : Result := scalar (.sha d a b) s 1 d fun s => valSha (s.g a) (low6 (s.g b))
/-- SHLI: shift by n (R323). -/
def execShli (d a : Reg) (n : BitVec 6) (s : State) : Result := scalar (.shli d a n) s 1 d fun s => valShl (s.g a) n.toNat
/-- SHRI: shift by n (R323). -/
def execShri (d a : Reg) (n : BitVec 6) (s : State) : Result := scalar (.shri d a n) s 1 d fun s => valShr (s.g a) n.toNat
/-- SHAI: shift by n (R323). -/
def execShai (d a : Reg) (n : BitVec 6) (s : State) : Result := scalar (.shai d a n) s 1 d fun s => valSha (s.g a) n.toNat
/-- ROT: rotate right by g[SB][5:0] (R321). -/
def execRot (d a b : Reg) (s : State) : Result := scalar (.rot d a b) s 1 d fun s => valRot (s.g a) (low6 (s.g b))
/-- MIN (R321). -/
def execMin (d a b : Reg) (s : State) : Result := scalar (.min d a b) s 1 d fun s => valMin (s.g a) (s.g b)
/-- MAX (R321). -/
def execMax (d a b : Reg) (s : State) : Result := scalar (.max d a b) s 1 d fun s => valMax (s.g a) (s.g b)
/-- MINU (R321). -/
def execMinu (d a b : Reg) (s : State) : Result := scalar (.minu d a b) s 1 d fun s => valMinu (s.g a) (s.g b)
/-- MAXU (R321). -/
def execMaxu (d a b : Reg) (s : State) : Result := scalar (.maxu d a b) s 1 d fun s => valMaxu (s.g a) (s.g b)
/-- SLT: 1 if signed less, else 0 (R321). -/
def execSlt (d a b : Reg) (s : State) : Result := scalar (.slt d a b) s 1 d fun s => valBool ((s.g a).slt (s.g b))
/-- SLTU: 1 if unsigned less, else 0 (R321). -/
def execSltu (d a b : Reg) (s : State) : Result := scalar (.sltu d a b) s 1 d fun s => valBool ((s.g a).ult (s.g b))
/-- SEQ: 1 if equal, else 0 (R321). -/
def execSeq (d a b : Reg) (s : State) : Result := scalar (.seq d a b) s 1 d fun s => valBool (s.g a == s.g b)
/-- SEL: g[SC] ≠ 0 selects g[SA], else g[SB] (R321). -/
def execSel (d a b c : Reg) (s : State) : Result := scalar (.sel d a b c) s 1 d fun s => if s.g c ≠ 0 then s.g a else s.g b
/-- CLZ (R321). -/
def execClz (d a : Reg) (s : State) : Result := scalar (.clz d a) s 1 d fun s => valClz (s.g a)
/-- CTZ (R321). -/
def execCtz (d a : Reg) (s : State) : Result := scalar (.ctz d a) s 1 d fun s => valCtz (s.g a)
/-- POPC (R321). -/
def execPopc (d a : Reg) (s : State) : Result := scalar (.popc d a) s 1 d fun s => valPopc (s.g a)
/-- LI: sext(IMM42) (R324). -/
def execLi (d : Reg) (imm : BitVec 42) (s : State) : Result := scalar (.li d imm) s 1 d fun _ => imm.signExtend 64
/-- LIH: cat(IMM42[21:0], g[DST][41:0]) (R324). -/
def execLih (d : Reg) (imm : BitVec 22) (s : State) : Result := scalar (.lih d imm) s 1 d fun s => valLih (s.g d) imm
/-- ADDX: g[SA] + (g[SB] << s) (R324). -/
def execAddx (d a b : Reg) (n : BitVec 3) (s : State) : Result := scalar (.addx d a b n) s 1 d fun s => valAddx (s.g a) (s.g b) n
/-- EXTB (R323). -/
def execExtb (sgn : Bool) (d a : Reg) (pos lenM1 : BitVec 6) (s : State) : Result := scalar (.extb sgn d a pos lenM1) s 1 d fun s => valExtb sgn (s.g a) pos lenM1
/-- INSB: reads g[DST] as a source (R323). -/
def execInsb (d a : Reg) (pos lenM1 : BitVec 6) (s : State) : Result := scalar (.insb d a pos lenM1) s 1 d fun s => valInsb (s.g d) (s.g a) pos lenM1
/-- KMOV kD, gA (R325). -/
def execKmovToK (d : KReg) (a : Reg) (s : State) : Result := guarded (.kmovToK d a) s fun s => s.laterK 1 d (s.g a)
/-- KMOV gD, kA (R325). -/
def execKmovToG (d : Reg) (a : KReg) (s : State) : Result := scalar (.kmovToG d a) s 1 d fun s => s.k a
/-- KOP (R325). -/
def execKop (op : KopOp) (d a b : KReg) (s : State) : Result :=
  guarded (.kop op d a b) s fun s => s.laterK 1 d (valKop op (s.k a) (s.k b))

end Sys2Proof.Machine
end

