-- ==== Sys2Proof/Machine/Dispatch.lean ====
section
/-! DEFINITION. The meaning of every row of the opcode table, one arm a row. -/

namespace Sys2Proof.Machine

def exec (i : Instr) (s : State) : Host.Outcome State Fault Refusal :=
  match i with
  | .syswr n a => Sys2Proof.Machine.execSyswr n a s
  | .windescWrite half a => Sys2Proof.Machine.execWindescWrite half a s
  | .tapcfgWrite ix a => Sys2Proof.Machine.execTapcfgWrite ix a s
  | .arrmapWrite ix a => Sys2Proof.Machine.execArrmapWrite ix a s
  | .cvmodeWrite a => Sys2Proof.Machine.execCvmodeWrite a s
  | .fflagsWrite a => Sys2Proof.Machine.execFflagsWrite a s
  | .rfmtWrite ix a => Sys2Proof.Machine.execRfmtWrite ix a s
  | .ejdescWrite ix a => Sys2Proof.Machine.execEjdescWrite ix a s
  | .rtabWrite half a => Sys2Proof.Machine.execRtabWrite half a s
  | .votelogClear a => Sys2Proof.Machine.execVotelogClear a s
  | .ejflagsClear a => Sys2Proof.Machine.execEjflagsClear a s
  | .sysrd d n => Sys2Proof.Machine.execSysrd d n s
  | .bra tgt => Sys2Proof.Machine.execBra tgt s
  | .bcc c a b tgt => Sys2Proof.Machine.execBcc c a b tgt s
  | .bpr c k tgt => Sys2Proof.Machine.execBpr c k tgt s
  | .jmp a => Sys2Proof.Machine.execJmp a s
  | .jmpLink d a => Sys2Proof.Machine.execJmpLink d a s
  | .call a tgt => Sys2Proof.Machine.execCall a tgt s
  | .ret a => Sys2Proof.Machine.execRet a s
  | .loop a tgt => Sys2Proof.Machine.execLoop a tgt s
  | .loops p dim tgt => Sys2Proof.Machine.execLoops p dim tgt s
  | .trap imm => Sys2Proof.Machine.execTrap imm s
  | .breakTrap imm => Sys2Proof.Machine.execBreakTrap imm s
  | .waitv a imm => Sys2Proof.Machine.execWaitv a imm s
  | .phase level => Sys2Proof.Machine.execPhase level s
  | .size a cls => Sys2Proof.Machine.execSize a cls s
  | .slpost sl n => Sys2Proof.Machine.execSlpost sl n s
  | .slwait sl n => Sys2Proof.Machine.execSlwait sl n s
  | .slset sl a imm => Sys2Proof.Machine.execSlset sl a imm s
  | .slget d sl => Sys2Proof.Machine.execSlget d sl s
  | .add d a b => Sys2Proof.Machine.execAdd d a b s
  | .sub d a b => Sys2Proof.Machine.execSub d a b s
  | .addi d a imm => Sys2Proof.Machine.execAddi d a imm s
  | .mul d a b => Sys2Proof.Machine.execMul d a b s
  | .mulh d a b => Sys2Proof.Machine.execMulh d a b s
  | .mulhsu d a b => Sys2Proof.Machine.execMulhsu d a b s
  | .div d a b => Sys2Proof.Machine.execDiv d a b s
  | .divu d a b => Sys2Proof.Machine.execDivu d a b s
  | .rem d a b => Sys2Proof.Machine.execRem d a b s
  | .remu d a b => Sys2Proof.Machine.execRemu d a b s
  | .and d a b => Sys2Proof.Machine.execAnd d a b s
  | .or d a b => Sys2Proof.Machine.execOr d a b s
  | .xor d a b => Sys2Proof.Machine.execXor d a b s
  | .andn d a b => Sys2Proof.Machine.execAndn d a b s
  | .andi d a imm => Sys2Proof.Machine.execAndi d a imm s
  | .ori d a imm => Sys2Proof.Machine.execOri d a imm s
  | .xori d a imm => Sys2Proof.Machine.execXori d a imm s
  | .shl d a b => Sys2Proof.Machine.execShl d a b s
  | .shr d a b => Sys2Proof.Machine.execShr d a b s
  | .sha d a b => Sys2Proof.Machine.execSha d a b s
  | .shli d a n => Sys2Proof.Machine.execShli d a n s
  | .shri d a n => Sys2Proof.Machine.execShri d a n s
  | .shai d a n => Sys2Proof.Machine.execShai d a n s
  | .rot d a b => Sys2Proof.Machine.execRot d a b s
  | .min d a b => Sys2Proof.Machine.execMin d a b s
  | .max d a b => Sys2Proof.Machine.execMax d a b s
  | .minu d a b => Sys2Proof.Machine.execMinu d a b s
  | .maxu d a b => Sys2Proof.Machine.execMaxu d a b s
  | .slt d a b => Sys2Proof.Machine.execSlt d a b s
  | .sltu d a b => Sys2Proof.Machine.execSltu d a b s
  | .seq d a b => Sys2Proof.Machine.execSeq d a b s
  | .sel d a b c => Sys2Proof.Machine.execSel d a b c s
  | .clz d a => Sys2Proof.Machine.execClz d a s
  | .ctz d a => Sys2Proof.Machine.execCtz d a s
  | .popc d a => Sys2Proof.Machine.execPopc d a s
  | .li d imm => Sys2Proof.Machine.execLi d imm s
  | .lih d imm => Sys2Proof.Machine.execLih d imm s
  | .addx d a b sv => Sys2Proof.Machine.execAddx d a b sv s
  | .extb sgn d a pos lenM1 => Sys2Proof.Machine.execExtb sgn d a pos lenM1 s
  | .insb d a pos lenM1 => Sys2Proof.Machine.execInsb d a pos lenM1 s
  | .kmovToK d a => Sys2Proof.Machine.execKmovToK d a s
  | .kmovToG d a => Sys2Proof.Machine.execKmovToG d a s
  | .kop op d a b => Sys2Proof.Machine.execKop op d a b s
  | .ld sz uns t m => Sys2Proof.Machine.execLd sz uns t m s
  | .st sz t m => Sys2Proof.Machine.execSt sz t m s
  | .vld fold t m k => Sys2Proof.Machine.execVld fold t m k s
  | .vst fold t m k => Sys2Proof.Machine.execVst fold t m k s
  | .vlds fold t base off sv k => Sys2Proof.Machine.execVlds fold t base off sv k s
  | .vgath fold t base off vi k => Sys2Proof.Machine.execVgath fold t base off vi k s
  | .vscat fold t base off vi k => Sys2Proof.Machine.execVscat fold t base off vi k s
  | .pcfg p base idx off => Sys2Proof.Machine.execPcfg p base idx off s
  | .pclose p => Sys2Proof.Machine.execPclose p s
  | .pstat d p => Sys2Proof.Machine.execPstat d p s
  | .pseek p b => Sys2Proof.Machine.execPseek p b s
  | .amo op uns dword t base off ix => Sys2Proof.Machine.execAmo op uns dword t base off ix s
  | .winqAddr d a => Sys2Proof.Machine.execWinqAddr d a s
  | .winqNum d w => Sys2Proof.Machine.execWinqNum d w s
  | .lutld base idx off => Sys2Proof.Machine.execLutld base idx off s
  | .vadd ty sat fold vd va b k => Sys2Proof.Machine.execVadd ty sat fold vd va b k s
  | .vsub ty sat fold vd va b k => Sys2Proof.Machine.execVsub ty sat fold vd va b k s
  | .vmul ty sat fold vd va b k => Sys2Proof.Machine.execVmul ty sat fold vd va b k s
  | .vfma ty sat fold vd va vb vc k => Sys2Proof.Machine.execVfma ty sat fold vd va vb vc k s
  | .vfms ty sat fold vd va vb vc k => Sys2Proof.Machine.execVfms ty sat fold vd va vb vc k s
  | .vmin ty fold vd va b k => Sys2Proof.Machine.execVmin ty fold vd va b k s
  | .vmax ty fold vd va b k => Sys2Proof.Machine.execVmax ty fold vd va b k s
  | .vabs ty sat fold vd va k => Sys2Proof.Machine.execVabs ty sat fold vd va k s
  | .vneg ty sat fold vd va k => Sys2Proof.Machine.execVneg ty sat fold vd va k s
  | .vand fold vd va b k => Sys2Proof.Machine.execVand fold vd va b k s
  | .vor fold vd va b k => Sys2Proof.Machine.execVor fold vd va b k s
  | .vxor fold vd va b k => Sys2Proof.Machine.execVxor fold vd va b k s
  | .vshl fold vd va b k => Sys2Proof.Machine.execVshl fold vd va b k s
  | .vshr fold vd va b k => Sys2Proof.Machine.execVshr fold vd va b k s
  | .vsha fold vd va b k => Sys2Proof.Machine.execVsha fold vd va b k s
  | .vcmp c ty fold kd va b k => Sys2Proof.Machine.execVcmp c ty fold kd va b k s
  | .vsel fold vd va vb k => Sys2Proof.Machine.execVsel fold vd va vb k s
  | .vcvt dst src fold vd va k => Sys2Proof.Machine.execVcvt dst src fold vd va k s
  | .vrcp fold vd va k => Sys2Proof.Machine.execVrcp fold vd va k s
  | .vrsq fold vd va k => Sys2Proof.Machine.execVrsq fold vd va k s
  | .vsqrt fold vd va k => Sys2Proof.Machine.execVsqrt fold vd va k s
  | .vexp2 fold vd va k => Sys2Proof.Machine.execVexp2 fold vd va k s
  | .vlog2 fold vd va k => Sys2Proof.Machine.execVlog2 fold vd va k s
  | .vtanh fold vd va k => Sys2Proof.Machine.execVtanh fold vd va k s
  | .vsigm fold vd va k => Sys2Proof.Machine.execVsigm fold vd va k s
  | .vredadd ty sat fold vd va k => Sys2Proof.Machine.execVredadd ty sat fold vd va k s
  | .vredmax ty fold vd va k => Sys2Proof.Machine.execVredmax ty fold vd va k s
  | .vredmin ty fold vd va k => Sys2Proof.Machine.execVredmin ty fold vd va k s
  | .vscan op ty sat fold vd va k => Sys2Proof.Machine.execVscan op ty sat fold vd va k s
  | .vargmax ty fold vd va k => Sys2Proof.Machine.execVargmax ty fold vd va k s
  | .vperm fold vd va vb k => Sys2Proof.Machine.execVperm fold vd va vb k s
  | .vbcast fold vd va e k => Sys2Proof.Machine.execVbcast fold vd va e k s
  | .vsplatG fold vd ga k => Sys2Proof.Machine.execVsplatG fold vd ga k s
  | .vsplatImm fold vd imm k => Sys2Proof.Machine.execVsplatImm fold vd imm k s
  | .viota fold vd imm k => Sys2Proof.Machine.execViota fold vd imm k s
  | .vmov fold vd va k => Sys2Proof.Machine.execVmov fold vd va k s
  | .vmovG gd va e => Sys2Proof.Machine.execVmovG gd va e s
  | .vmovE vd ga e => Sys2Proof.Machine.execVmovE vd ga e s
  | .vcomp fold vd kd va k => Sys2Proof.Machine.execVcomp fold vd kd va k s
  | .vlut fold vd va k => Sys2Proof.Machine.execVlut fold vd va k s
  | .vhash fold vd va vb seed k => Sys2Proof.Machine.execVhash fold vd va vb seed k s
  | .vpda vd va vb w => Sys2Proof.Machine.execVpda vd va vb w s
  | .vtmask fold kd va vb w => Sys2Proof.Machine.execVtmask fold kd va vb w s
  | .vsample fold vd va vb vc topk k => Sys2Proof.Machine.execVsample fold vd va vb vc topk k s
  | .mzero z => Sys2Proof.Machine.execMzero z s
  | .mmul kg z ch pa gm1 => Sys2Proof.Machine.execMmul kg z ch pa gm1 s
  | .mmulw kg z ch pa pb gm1 => Sys2Proof.Machine.execMmulw kg z ch pa pb gm1 s
  | .marm ch => Sys2Proof.Machine.execMarm ch s
  | .mdisarm ch => Sys2Proof.Machine.execMdisarm ch s
  | .mrel ch => Sys2Proof.Machine.execMrel ch s
  | .mdrain z o => Sys2Proof.Machine.execMdrain z o s
  | .mdrainV z vd => Sys2Proof.Machine.execMdrainV z vd s
  | .mdcfgSet c => Sys2Proof.Machine.execMdcfgSet c s
  | .mdcfgTok c => Sys2Proof.Machine.execMdcfgTok c s
  | .msums acc vd => Sys2Proof.Machine.execMsums acc vd s
  | .mldz z vs => Sys2Proof.Machine.execMldz z vs s
  | .mstz vd z => Sys2Proof.Machine.execMstz vd z s
  | .finj a t g => Sys2Proof.Machine.execFinj a t g s
  | .fpref a l => Sys2Proof.Machine.execFpref a l s
  | .fupd op fmt w sv c nM1 => Sys2Proof.Machine.execFupd op fmt w sv c nM1 s
  | .fred op fmt d a nM1 => Sys2Proof.Machine.execFred op fmt d a nM1 s
  | .fgrp a g => Sys2Proof.Machine.execFgrp a g s
  | .tsend a imm => Sys2Proof.Machine.execTsend a imm s
  | .tsendP p => Sys2Proof.Machine.execTsendP p s
  | .tsendV va q => Sys2Proof.Machine.execTsendV va q s
  | .tredV isInt va => Sys2Proof.Machine.execTredV isInt va s
  | .tredMem isInt a imm => Sys2Proof.Machine.execTredMem isInt a imm s
  | .tej j a => Sys2Proof.Machine.execTej j a s
  | .tdsend d a b c len => Sys2Proof.Machine.execTdsend d a b c len s
  | .tdrecv d a => Sys2Proof.Machine.execTdrecv d a s
  | .tdrecvNb d a => Sys2Proof.Machine.execTdrecvNb d a s
  | .trtab e a b => Sys2Proof.Machine.execTrtab e a b s
  | .timeT d => Sys2Proof.Machine.execTimeT d s
  | .timeV d => Sys2Proof.Machine.execTimeV d s
  | .timeOff d => Sys2Proof.Machine.execTimeOff d s
  | .holdrq l => Sys2Proof.Machine.execHoldrq l s
  | .berthW w b => Sys2Proof.Machine.execBerthW w b s
  | .berthG a b => Sys2Proof.Machine.execBerthG a b s
  | .bviewW w b => Sys2Proof.Machine.execBviewW w b s
  | .bviewG a b => Sys2Proof.Machine.execBviewG a b s
  | .btakeW w => Sys2Proof.Machine.execBtakeW w s
  | .btakeG a => Sys2Proof.Machine.execBtakeG a s
  | .btakeViewW w => Sys2Proof.Machine.execBtakeViewW w s
  | .btakeViewG a => Sys2Proof.Machine.execBtakeViewG a s
  | .tkt d n => Sys2Proof.Machine.execTkt d n s
  | .tserve a n => Sys2Proof.Machine.execTserve a n s
  | .tadv n => Sys2Proof.Machine.execTadv n s
  | .rld sz uns d a imm => Sys2Proof.Machine.execRld sz uns d a imm s
  | .rst sz a b imm => Sys2Proof.Machine.execRst sz a b imm s
  | .ramo op uns dword d a b c imm => Sys2Proof.Machine.execRamo op uns dword d a b c imm s
  | .completionWrite qid => Sys2Proof.Machine.execCompletionWrite qid s
  | .bindRequest b => Sys2Proof.Machine.execBindRequest b s
  | .poundFenceEffect pound => Sys2Proof.Machine.execPoundFenceEffect pound s
  | .voteCommit m addr c0 c1 c2 => Sys2Proof.Machine.execVoteCommit m addr c0 c1 c2 s
  | .voteTimeout m addr c0 c1 c2 => Sys2Proof.Machine.execVoteTimeout m addr c0 c1 c2 s
  | .pageWalkDone ix asid gaddr => Sys2Proof.Machine.execPageWalkDone ix asid gaddr s
  | .vcycBroadcast crew => Sys2Proof.Machine.execVcycBroadcast crew s
  | .frameReplay tl seq => Sys2Proof.Machine.execFrameReplay tl seq s
  | .staticFlitHandoff tl => Sys2Proof.Machine.execStaticFlitHandoff tl s
  | .remoteRequestReceive ix q => Sys2Proof.Machine.execRemoteRequestReceive ix q s
  | .remoteTimeout core tag => Sys2Proof.Machine.execRemoteTimeout core tag s
  | .remoteAnswer core tag a => Sys2Proof.Machine.execRemoteAnswer core tag a s
  | .pageMigration asid gaddr home => Sys2Proof.Machine.execPageMigration asid gaddr home s
  | .migrationClose page => Sys2Proof.Machine.execMigrationClose page s
  | .ferryOffer core tag f => Sys2Proof.Machine.execFerryOffer core tag f s
  | .ferryReturn core => Sys2Proof.Machine.execFerryReturn core s
  | .dispatchReady crew => Sys2Proof.Machine.execDispatchReady crew s
  | .crewStart crew => Sys2Proof.Machine.execCrewStart crew s
  | .holdAnnounce crew a m via => Sys2Proof.Machine.execHoldAnnounce crew a m via s
  | .holdStart crew => Sys2Proof.Machine.execHoldStart crew s
  | .holdRelease crew x via => Sys2Proof.Machine.execHoldRelease crew x via s
  | .holdEnd crew => Sys2Proof.Machine.execHoldEnd crew s
  | .driftPause crew => Sys2Proof.Machine.execDriftPause crew s
  | .weightReadRetry f line => Sys2Proof.Machine.execWeightReadRetry f line s
  | .weightReadData f line => Sys2Proof.Machine.execWeightReadData f line s
  | .selectionDecide crew cls e => Sys2Proof.Machine.execSelectionDecide crew cls e s
  | .selectionSwitch crew => Sys2Proof.Machine.execSelectionSwitch crew s
  | .phaseCheckTimeout crew level count => Sys2Proof.Machine.execPhaseCheckTimeout crew level count s
  | .crewFaultReport crew cause addr member => Sys2Proof.Machine.execCrewFaultReport crew cause addr member s
  | .crewFaultStop crew => Sys2Proof.Machine.execCrewFaultStop crew s
  | .rewind crew => Sys2Proof.Machine.execRewind crew s
  | .drawOff crew => Sys2Proof.Machine.execDrawOff crew s
  | .drawOffInjectStop crew => Sys2Proof.Machine.execDrawOffInjectStop crew s
  | .drawOffComplete crew => Sys2Proof.Machine.execDrawOffComplete crew s
  | .markComplete crew => Sys2Proof.Machine.execMarkComplete crew s
  | .laneRotationStep d differ => Sys2Proof.Machine.execLaneRotationStep d differ s
  | .dirtyLineEvict f line badSectors => Sys2Proof.Machine.execDirtyLineEvict f line badSectors s
  | .finjCopy f id => Sys2Proof.Machine.execFinjCopy f id s
  | .injectionModulate f id => Sys2Proof.Machine.execInjectionModulate f id s
  | .deliveryStart tile lane lams tag f t light only => Sys2Proof.Machine.execDeliveryStart tile lane lams tag f t light only s
  | .deliveryComplete tile block => Sys2Proof.Machine.execDeliveryComplete tile block s
  | .staticFlitHop tile => Sys2Proof.Machine.execStaticFlitHop tile s
  | .tokenEject tile ejd rfx flits => Sys2Proof.Machine.execTokenEject tile ejd rfx flits s
  | .dynPacketHop tile => Sys2Proof.Machine.execDynPacketHop tile s
  | .dynPacketDeliver tile p => Sys2Proof.Machine.execDynPacketDeliver tile p s
  | .ticketRequest rx ry q => Sys2Proof.Machine.execTicketRequest rx ry q s
  | .berthOfferArrive core region view => Sys2Proof.Machine.execBerthOfferArrive core region view s
  | .btakeTimeout core => Sys2Proof.Machine.execBtakeTimeout core s
  | .portFetch core p => Sys2Proof.Machine.execPortFetch core p s
  | .waitvExpire core => Sys2Proof.Machine.execWaitvExpire core s
  | .slwaitProceed core => Sys2Proof.Machine.execSlwaitProceed core s
  | .phaseWake core => Sys2Proof.Machine.execPhaseWake core s
  | .waitiWake core => Sys2Proof.Machine.execWaitiWake core s
  | .tdrecvWake core => Sys2Proof.Machine.execTdrecvWake core s
  | .tserveWake w => Sys2Proof.Machine.execTserveWake w s
  | .fenceRelease core => Sys2Proof.Machine.execFenceRelease core s
  | .rfenceRelease core => Sys2Proof.Machine.execRfenceRelease core s
  | .poundResetDone pound => Sys2Proof.Machine.execPoundResetDone pound s
  | .coreRailReturn rx ry => Sys2Proof.Machine.execCoreRailReturn rx ry s
  | .bindResponse crew modIdx status result addr => Sys2Proof.Machine.execBindResponse crew modIdx status result addr s
  | .allowChange crew modIdx allow => Sys2Proof.Machine.execAllowChange crew modIdx allow s
  | .frameSend tl => Sys2Proof.Machine.execFrameSend tl s
  | .resyncDone => Sys2Proof.Machine.execResyncDone s
  | .powerEnable => Sys2Proof.Machine.execPowerEnable s
  | .powerSequenceStep => Sys2Proof.Machine.execPowerSequenceStep s
  | .greetingPhase => Sys2Proof.Machine.execGreetingPhase s
  | .powerDisable => Sys2Proof.Machine.execPowerDisable s
  | .regradeDone => Sys2Proof.Machine.execRegradeDone s
  | .timeCheckPulse => Sys2Proof.Machine.execTimeCheckPulse s
  | .referenceLoss => Sys2Proof.Machine.execReferenceLoss s
  | .schedulerPass => Sys2Proof.Machine.execSchedulerPass s
  | .ageTick => Sys2Proof.Machine.execAgeTick s
  | .nop => Sys2Proof.Machine.execNop s
  | .halt => Sys2Proof.Machine.execHalt s
  | .markp => Sys2Proof.Machine.execMarkp s
  | .eret => Sys2Proof.Machine.execEret s
  | .waiti => Sys2Proof.Machine.execWaiti s
  | .fence => Sys2Proof.Machine.execFence s
  | .mdcfgClr => Sys2Proof.Machine.execMdcfgClr s
  | .drift => Sys2Proof.Machine.execDrift s
  | .rfence => Sys2Proof.Machine.execRfence s
  | .submit port off data => Sys2Proof.Machine.execSubmit port off data s
  | .cqheadWrite port off val => Sys2Proof.Machine.execCqheadWrite port off val s
  | .lhctlRestart port val => Sys2Proof.Machine.execLhctlRestart port val s
  | .lockhouseRestartDone agree => Sys2Proof.Machine.execLockhouseRestartDone agree s
  | .bar0Write port off val => Sys2Proof.Machine.execBar0Write port off val s
  | .identify c => Sys2Proof.Machine.execIdentify c s
  | .createQueue c => Sys2Proof.Machine.execCreateQueue c s
  | .deleteQueue c => Sys2Proof.Machine.execDeleteQueue c s
  | .queryQueue c => Sys2Proof.Machine.execQueryQueue c s
  | .aspaceCreate c => Sys2Proof.Machine.execAspaceCreate c s
  | .aspaceDestroy c => Sys2Proof.Machine.execAspaceDestroy c s
  | .mapPages c => Sys2Proof.Machine.execMapPages c s
  | .unmapPages c => Sys2Proof.Machine.execUnmapPages c s
  | .copyIn c => Sys2Proof.Machine.execCopyIn c s
  | .copyOut c => Sys2Proof.Machine.execCopyOut c s
  | .launch c => Sys2Proof.Machine.execLaunch c s
  | .kill c => Sys2Proof.Machine.execKill c s
  | .draw c => Sys2Proof.Machine.execDraw c s
  | .resume c => Sys2Proof.Machine.execResume c s
  | .discard c => Sys2Proof.Machine.execDiscard c s
  | .crewStatus c => Sys2Proof.Machine.execCrewStatus c s
  | .calibrate c => Sys2Proof.Machine.execCalibrate c s
  | .route c => Sys2Proof.Machine.execRoute c s
  | .poundDefine c => Sys2Proof.Machine.execPoundDefine c s
  | .poundFence c => Sys2Proof.Machine.execPoundFence c s
  | .poundReset c => Sys2Proof.Machine.execPoundReset c s
  | .poundRelease c => Sys2Proof.Machine.execPoundRelease c s
  | .power c => Sys2Proof.Machine.execPower c s
  | .readLog c => Sys2Proof.Machine.execReadLog c s
  | .attest c => Sys2Proof.Machine.execAttest c s
  | .fwStage c => Sys2Proof.Machine.execFwStage c s
  | .events c => Sys2Proof.Machine.execEvents c s
  | .hello tile edge code => Sys2Proof.Machine.execHello tile edge code s
  | .resetPulse cycles => Sys2Proof.Machine.execResetPulse cycles s
  | .thermalWarning x => Sys2Proof.Machine.execThermalWarning x s
  | .thermalLimit x => Sys2Proof.Machine.execThermalLimit x s
  | .thermalTrip x => Sys2Proof.Machine.execThermalTrip x s
  | .powerWarning mean => Sys2Proof.Machine.execPowerWarning mean s
  | .powerLimit mean => Sys2Proof.Machine.execPowerLimit mean s
  | .powerLimitRelease mean => Sys2Proof.Machine.execPowerLimitRelease mean s
  | .voltageReplan rx ry slackPs => Sys2Proof.Machine.execVoltageReplan rx ry slackPs s
  | .coreRailLoss rx ry => Sys2Proof.Machine.execCoreRailLoss rx ry s
  | .transitRailLoss rx ry => Sys2Proof.Machine.execTransitRailLoss rx ry s
  | .transitConverterLoss rx ry second => Sys2Proof.Machine.execTransitConverterLoss rx ry second s
  | .laserFailover laser => Sys2Proof.Machine.execLaserFailover laser s
  | .frameReceive tl fr bad => Sys2Proof.Machine.execFrameReceive tl fr bad s
  | .scrubRead tile addr found => Sys2Proof.Machine.execScrubRead tile addr found s
  | .weakLane d lane => Sys2Proof.Machine.execWeakLane d lane s
  | .laneSignalLoss d lane => Sys2Proof.Machine.execLaneSignalLoss d lane s

end Sys2Proof.Machine
end

