-- ==== Sys2Proof/Machine/Issue.lean ====
section
/-! DEFINITION. A core's cycle: fetching and checking a bundle, issuing it, entering what is due, and the bookkeeping that the
passing of a cycle brings (spec 08 R186 to R189; 10 R237, R251; 12 R284 to R287, R293, R296; 16 R395). -/

namespace Sys2Proof.Machine

/-! ### Fetch (R284, R287, R296) -/

/-- A word of a bundle and its byte address. -/
structure BWord where
  addr : Nat
  word : Word
  deriving DecidableEq, Repr

/-- A word that is fetched: outside a valid window, or in one without UR in user mode, it is WINDOW; a poisoned one is ECC_CONSUMED
(R252). -/
def State.fetchWord (s : State) (r : CoreRef) (w : Nat) : Except (BitVec 8 × Word) (Word × State) :=
  let a := 8 * w
  let bad : Except (BitVec 8 × Word) (Word × State) := .error (Cause.window, BitVec.ofNat 64 a)
  if Config.storeSize < a + 8 then bad
  else match s.windowAt r a with
    | none => bad
    | some (_, d) =>
      if !d.has (a + 7) || (!(s.core r).keeper && !d.ur) then bad
      else match s.poisonedAt r ((List.range 8).map (a + ·)) with
        | some _ => .error (Cause.eccConsumed, BitVec.ofNat 64 a)
        | none =>
          let (bs, s) := s.fetchBytes r a 8
          .ok (wordOfBytes bs, s)

/-- The words of a bundle from a word address: through the first with L clear, at most `n`. -/
def State.fetchBundle (s : State) (r : CoreRef) (w : Nat) : Nat → Except (BitVec 8 × Word) (List BWord × State)
  | 0 => .ok ([], s)
  | n + 1 =>
    match s.fetchWord r w with
    | .error e => .error e
    | .ok (x, s) =>
      if x.getLsbD 63 then
        match s.fetchBundle r (w + 1) n with
        | .error e => .error e
        | .ok (rest, s) => .ok (⟨8 * w, x⟩ :: rest, s)
      else .ok ([⟨8 * w, x⟩], s)

/-! ### The registers a word names (R395) -/

def memNames : MemOp → List Reg
  | .addr b i _ => [b, i]
  | .port _ => []

/-- The g registers that a word's fields name. -/
def gNames : Instr → List Reg
  | .syswr _ a | .windescWrite _ a | .tapcfgWrite _ a | .arrmapWrite _ a | .cvmodeWrite a | .fflagsWrite a | .rfmtWrite _ a
  | .ejdescWrite _ a | .rtabWrite _ a | .votelogClear a | .ejflagsClear a => [a]
  | .sysrd d _ | .slget d _ | .pstat d _ | .winqNum d _ | .timeT d | .timeV d | .timeOff d | .tkt d _ | .li d _ | .lih d _ => [d]
  | .bcc _ a b _ | .jmpLink a b | .winqAddr a b => [a, b]
  | .jmp a | .call a _ | .ret a | .loop a _ | .waitv a _ | .size a _ | .slset _ a _ | .pseek _ a => [a]
  | .add d a b | .sub d a b | .mul d a b | .mulh d a b | .mulhsu d a b | .div d a b | .divu d a b | .rem d a b | .remu d a b
  | .and d a b | .or d a b | .xor d a b | .andn d a b | .shl d a b | .shr d a b | .sha d a b | .rot d a b | .min d a b | .max d a b
  | .minu d a b | .maxu d a b | .slt d a b | .sltu d a b | .seq d a b | .addx d a b _ => [d, a, b]
  | .addi d a _ | .andi d a _ | .ori d a _ | .xori d a _ | .shli d a _ | .shri d a _ | .shai d a _ | .clz d a | .ctz d a | .popc d a
  | .extb _ d a _ _ | .insb d a _ _ => [d, a]
  | .sel d a b c => [d, a, b, c]
  | .kmovToK _ a | .kmovToG a _ => [a]
  | .ld _ _ t m | .st _ t m => t :: memNames m
  | .vld _ _ m _ | .vst _ _ m _ => memNames m
  | .vlds _ _ b _ s _ => [b, s]
  | .vgath _ _ b _ _ _ | .vscat _ _ b _ _ _ => [b]
  | .pcfg _ b i _ | .lutld b i _ => [b, i]
  | .amo _ _ _ t b _ i => [t, b, i]
  | .vsplatG _ _ a _ | .vmovG a _ _ | .vmovE _ a _ | .mdrain _ a => [a]
  | .finj a b _ | .fpref a b | .fred _ _ a b _ | .trtab _ a b | .berthG a b | .bviewG a b | .tdrecv a b | .tdrecvNb a b
  | .rld _ _ a b _ | .rst _ a b _ => [a, b]
  | .fupd _ _ w s c _ => [w, s, c]
  | .fgrp a _ | .tsend a _ | .tredMem _ a _ | .tej _ a | .berthW _ a | .bviewW _ a | .btakeG a | .btakeViewG a | .tserve a _ => [a]
  | .tdsend d a b c _ | .ramo _ _ _ d a b c _ => [d, a, b, c]
  | _ => []

/-- A bundle that names a register which waits for a remote result. -/
def Core.pends (c : Core) (ws : List BWord) : Bool :=
  ws.any fun b => match decodeWord b.word with
    | .ok d => (gNames d.instr).any fun r => r != 0 && c.pending.any (·.1 == r)
    | .error _ => false

/-! ### The checks at issue (R285 to R287) -/

/-- The slot an armed word names. -/
def armSlot : Instr → Option (BitVec 4)
  | .mmul _ _ ch _ _ => some ch
  | .mmulw _ _ ch _ _ _ => some ch
  | _ => none

def instrAt (ws : List BWord) (i : Nat) : Option Instr :=
  (ws[i]?).bind fun b => match decodeWord b.word with
    | .ok d => some d.instr
    | .error _ => none

/-- The word before is a MARM: this one is armed, and enters when the arm fires (R286). -/
def isArmed (ws : List BWord) (i : Nat) : Bool :=
  match i with
  | 0 => false
  | i + 1 => match instrAt ws i with
    | some (.marm _) => true
    | _ => false

/-- A MARM is followed by exactly one word, an MMUL or MMULW of its slot (R286). -/
def armPaired (ws : List BWord) (i : Nat) (ch : BitVec 4) : Bool := i + 2 == ws.length && (instrAt ws (i + 1)).bind armSlot == some ch

/-- The armed word of a MARM, with its D and its byte address. -/
def armOf (ws : List BWord) (i : Nat) : Option (Instr × Nat × Nat) :=
  (ws[i + 1]?).bind fun b => match decodeWord b.word with
    | .ok d => some (d.instr, d.defer.toNat, b.addr)
    | .error _ => none

/-- The words of a bundle as operations, the armed one left out; a NOP enters no column. -/
def bundleOps (ws : List BWord) (seq : Nat) : List Op :=
  (List.range ws.length).filterMap fun i =>
    match ws[i]? with
    | none => none
    | some b => match decodeWord b.word with
      | .error _ => none
      | .ok d =>
        if isArmed ws i || d.instr = .nop then none
        else some { due := d.defer.toNat, seq := seq + i, addr := b.addr, instr := d.instr, block := none
                    arm := match d.instr with | .marm _ => armOf ws i | _ => none }

/-- The core as a word of its bundle is checked: the words before it are issued (R187, R377). -/
def State.afterWords (s : State) (r : CoreRef) (ws : List BWord) (i : Nat) : State :=
  s.modCore r fun c => { c with ops := c.ops ++ bundleOps (ws.take i) c.issued }

/-- A word that is ILLEGAL at issue (R287 step 1). -/
def State.badWord (s : State) (r : CoreRef) (ws : List BWord) (i : Nat) : Bool :=
  match ws[i]? with
  | none => false
  | some b =>
    match decodeWord b.word with
    | .error _ => true
    | .ok d =>
      (i == 3 && d.link)
      || (d.instr.isControlWord && (List.range i).any fun j => (instrAt ws j).any (·.isControlWord))
      || (match d.instr with
          | .marm ch => !armPaired ws i ch || ({ s with partner := armOf ws i } : State).illegal r d.instr
          | j => ({ s.afterWords r ws i with fired := if isArmed ws i then some 0 else none } : State).illegal r j)

/-- Column cycles of a bundle's words, in order (R187); MDRAIN keeps further MDRAINs out for 16 cycles (R212). -/
def entries (ws : List BWord) (seq : Nat) : List Hold :=
  (List.range ws.length).flatMap fun i =>
    match ws[i]? with
    | none => []
    | some b => match decodeWord b.word with
      | .error _ => []
      | .ok d =>
        match column d.instr with
        | none => []
        | some col =>
          if isArmed ws i then []
          else
            let e := d.defer.toNat
            let own : Hold := { col := col, lo := e, hi := e + occupancy d.instr, seq := seq + i, drain := false }
            match d.instr with
            | .mdrain _ _ | .mdrainV _ _ => [own, { col := .m, lo := e, hi := e + 16, seq := seq + i, drain := true }]
            | _ => [own]

/-- Two operations would hold one column in one cycle. -/
def Hold.meets (a b : Hold) : Bool := a.col == b.col && a.drain == b.drain && a.lo < b.hi && b.lo < a.hi

/-- A later one collides. (log 22, DEDUCED) -/
def collides : List Hold → List Hold → Bool
  | _, [] => false
  | before, h :: rest => before.any (h.meets ·) || collides (h :: before) rest

/-- A token for a full queue (R381). -/
def State.tokenFull (s : State) (r : CoreRef) (i : Instr) : Bool :=
  match i, r with
  | .mdcfgTok _, .tile id _ => 8 ≤ (s.tile id).tokens.length + (s.tile id).newTokens.length
  | _, _ => false

/-- The first failure of a bundle (R287). -/
def State.bundleFault (s : State) (r : CoreRef) (ws : List BWord) : Option (BitVec 8 × Word) :=
  let c := s.core r
  match (List.range ws.length).find? (s.badWord r ws) with
  | some i => some (Cause.illegal, BitVec.ofNat 64 (((ws[i]?).map BWord.addr).getD 0))
  | none =>
    match (if c.keeper then none else (List.range ws.length).findSome? fun i => (instrAt ws i).bind privOf) with
    | some n => some (Cause.priv, n)
    | none =>
      if collides c.holds (entries ws c.issued) || (List.range ws.length).any (fun i => (instrAt ws i).any (s.tokenFull r)) then
        some (Cause.collide, 0)
      else none

/-! ### Issue -/

/-- What a faulting bundle leaves: the exception at it; a visiting thread goes home with it (R237, R251). -/
def State.failBundle (s : State) (r : CoreRef) (cause : BitVec 8) (addr : Word) : State :=
  if (s.core r).visit.isSome then s.leaveFerry r true
  else
    ((s.modCore r fun c => { c with cur := c.pc, curBranch := c.branch, issuing := true }).raiseOf r cause addr).modCore r fun c =>
      { c with issuing := false, trapped := none, shut := none }

/-- The core past a bundle of `n` words: in sequence, or at a branch's target after its second delay bundle (R308). -/
def Core.pass (c : Core) (n : Nat) : Core :=
  let c := { c with issued := c.issued + n, delayDue := c.delayDue - 1 }
  match c.branch with
  | some b =>
    if b.due ≤ 1 then { c with pc := b.target.zeroExtend 17, branch := none }
    else { c with pc := c.pc + BitVec.ofNat 17 n, branch := some { b with due := b.due - 1 } }
  | none => { c with pc := c.pc + BitVec.ofNat 17 n }

/-- The state in which an operation of a core has its effect. -/
def State.prepared (s : State) (r : CoreRef) (o : Op) : State :=
  { s with actor := r, checked := true, fired := o.block, partner := o.arm, wordAt := o.addr, seq := o.seq }

/-- An effect is over. -/
def State.settled (s : State) : State := { s with checked := false, fired := none, partner := none }

/-- Operations of one bundle have their effects, in order. -/
def runOps (r : CoreRef) : List Op → State → Result
  | [], s => .next s
  | o :: rest, s => match exec o.instr (s.prepared r o) with
    | .next s => runOps r rest s.settled
    | .fault f => .fault f
    | .refused x => .refused x

/-- The core with a bundle under way: its address for a trap, its deferred operations queued, its column cycles taken. -/
def Core.begun (c : Core) (ws : List BWord) (ops : List Op) : Core :=
  ({ c with cur := c.pc, curBranch := c.branch, issuing := true, trapped := none, shut := none
            ops := c.ops ++ ops.filter (·.due != 0), holds := c.holds ++ entries ws c.issued } : Core).pass ws.length

/-- The core after its bundle. -/
def Core.ended (c : Core) : Core := { c with issuing := false, trapped := none, shut := none }

/-- A word trapped while its bundle issued: nothing of the bundle is executed, but a failing PCFG leaves its port closed (R237, R331). -/
def State.undone (before : State) (r : CoreRef) (after : Core) (cause : BitVec 8) (addr : Word) : State :=
  (match after.shut with
    | some p => before.closePort r p
    | none => before).failBundle r cause addr

/-- A word stood the core: the bundle issues again when the stand ends (R189). -/
def State.stoodAt (before : State) (r : CoreRef) (after : Core) : State :=
  before.modCore r fun c => { c with stand := after.stand, byDrain := after.byDrain, mid := true, slwait := after.slwait }

/-- TRAP and BREAK trap after their bundle (R237). -/
def trapsAfter : Instr → Bool
  | .trap _ | .breakTrap _ => true
  | _ => false

/-- What follows from a part of a bundle's effects: the exception or the stand of one of its words, or the rest. -/
def State.partDone (before after : State) (r : CoreRef) (excused : Bool) (rest : State → Result) : Result :=
  let c := after.core r
  match c.trapped with
  | some (cause, addr) => if excused && !c.visit.isSome then rest after else .next (before.undone r c cause addr)
  | none => if c.stand ≠ 0 || c.slwait.isSome then .next (before.stoodAt r c) else rest after

/-- A checked bundle issues: what has D = 0 enters now, a word of R285 last. -/
def State.runBundle (s : State) (r : CoreRef) (ws : List BWord) : Result :=
  let ops := bundleOps ws (s.core r).issued
  let now := ops.filter (·.due == 0)
  let words := now.filter fun o => !o.instr.isControlWord
  let control := now.filter (·.instr.isControlWord)
  match runOps r words (s.modCore r (·.begun ws ops)) with
  | .fault f => .fault f
  | .refused x => .refused x
  | .next a => s.partDone a r false fun a =>
    match runOps r control a with
    | .fault f => .fault f
    | .refused x => .refused x
    | .next b => s.partDone b r (control.any (trapsAfter ·.instr)) fun b => .next (b.modCore r Core.ended)

/-- A word that a visiting thread runs at the feeder: C and S words, and the remote ones for pages at home there (R251). -/
def State.visits (s : State) (r : CoreRef) (f : Nat) (i : Instr) : Bool :=
  let near (a : Reg) (imm : BitVec 16) : Bool :=
    let g := (s.core r).readG a + imm.signExtend 64
    (s.pageOf (s.asidOf r) g).any fun p => gMod g == s.modNum && gSpace g == 1 && pageHome p == f
  match i with
  | .rld _ _ _ a imm | .rst _ a _ imm | .ramo _ _ _ _ a _ _ imm => near a imm
  | .rfence | .nop => true
  | _ => match column i with
    | some .c | some .s => true
    | _ => false

/-- The next bundle issues (R284, R287). -/
def State.issueBundle (s : State) (r : CoreRef) : Result :=
  match s.fetchBundle r (s.core r).pc.toNat 4 with
  | .error (cause, addr) => .next (s.failBundle r cause addr)
  | .ok (ws, s) =>
    if (s.core r).pends ws then .next (s.modCore r (·.standFor 1))
    else
      let away : Bool := match (s.core r).visit with
        | some v => (List.range ws.length).any fun i => (instrAt ws i).any fun j => !s.visits r v.feeder j
        | none => false
      if away then .next (s.leaveFerry r false)
      else match s.bundleFault r ws with
        | some (cause, addr) => .next (s.failBundle r cause addr)
        | none => s.runBundle r ws

/-! ### A core's part of a cycle -/

/-- The core's clock counts in this TIME cycle: a timed core's with its crew, a free core's unless the crew has stopped (R189, R293). -/
def State.coreRuns (s : State) (r : CoreRef) : Bool :=
  match s.slotOf r with
  | none => true
  | some n =>
    let x := s.slot n
    (x.rec_.state == .running || x.rec_.state == .drawing || x.rec_.state == .killing) && !x.run.stopped
      && (!(s.core r).timed || x.run.live)

/-- The core stands (R189). -/
def Core.stands (c : Core) : Bool := c.stand ≠ 0 || c.slwait.isSome

/-- Nothing of the core is under way. -/
def Core.quiet (c : Core) : Bool :=
  c.run != .running && c.ops.isEmpty && c.writes.isEmpty && c.autos.isEmpty && c.holds.isEmpty && c.waits.isEmpty && !c.stands
    && !(c.p.toList.any fun p => p.busy || p.array ≠ 0)

/-- A result is written (R188, R190, R202, R331, R334, R395). -/
def State.applyWr (s : State) (r : CoreRef) (w : Wr) : State :=
  match w with
  | .g d v => s.modCore r (·.writeG d v)
  | .remote d v tag => s.modCore r fun c => { c.writeG d v with pending := c.pending.filter (·.2 != tag) }
  | .drainst d v => s.modCore r fun c => c.writeG d (match r with
      | .tile id _ => if (s.tile id).drains.any (·.age ≤ 1) then v ||| 0x40 else v
      | .feeder _ _ => v)
  | .k d mask v => s.modCore r fun c => c.writeK d ((c.readK d &&& ~~~mask) ||| (v &&& mask))
  | .v d mask x =>
    match r with
    | .tile id _ => s.modTile id fun t =>
        let old := t.readV d
        t.writeV d (Vector.ofFn fun j => if mask.getLsbD j.val then x[j] else old[j])
    | .feeder _ _ => s
  | .vAcc d mask x =>
    match r with
    | .tile id _ => s.modTile id fun t =>
        let old := t.readV d
        t.writeV d (Vector.ofFn fun j => if mask.getLsbD j.val then old[j] + x[j] else old[j])
    | .feeder _ _ => s
  | .flags f => s.modCore r fun c => { c with fflags := c.fflags ||| f }
  | .lt t => s.modCore r fun c => { c with lt := t }
  | .portFlags p f => s.modCore r fun c => c.modPort p fun x =>
      { x with flags := f, steps := if x.steps = 0xFFFFFFFF then x.steps else x.steps + 1 }
  | .sys n v => s.writeSys r n.toNat v
  | .portOpen p => s.modCore r fun c => c.modPort p fun x => { x with opened := true }
  | .portShut p => s.modCore r fun c => c.modPort p fun x => { x with opened := false, fetched := [], partLines := [], partFault := none, partWide := none }

def isRemote (w : PendWr) : Bool := match w.wr with | .remote _ _ _ => true | _ => false
def isFlags (w : PendWr) : Bool := match w.wr with | .flags _ => true | _ => false

/-- One cycle nearer. -/
def PendWr.nearer (w : PendWr) : PendWr := { w with due := w.due - 1 }

/-- Results of some kind come one cycle nearer, and those due are written in the order of issue, flags after other writes (R188, R319). -/
def State.writeDue (s : State) (r : CoreRef) (kind : PendWr → Bool) : State :=
  let ws := (s.core r).writes
  let mine := (ws.filter kind).map PendWr.nearer
  let due := mine.filter (·.due == 0)
  let stay := ws.filterMap fun w => if kind w then (if w.due ≤ 1 then none else some w.nearer) else some w
  let s := s.modCore r fun c => { c with writes := stay }
  let s := (due.filter fun w => !isFlags w).foldl (fun s w => s.applyWr r w.wr) s
  (due.filter isFlags).foldl (fun s w => s.applyWr r w.wr) s

/-- Stores in the order they were made, without the bytes that a later one has made visible: an older store that its standing core still holds
back lies under them (R223, R231). -/
def underDue (done : PStore → Bool) : List PStore → List PStore
  | [] => []
  | p :: r =>
    (if done p then p else { p with bytes := p.bytes.filter fun b => !(r.any fun q => done q && q.bytes.any (·.1 == b.1)) }) :: underDue done r

/-- Stores of one owner come one cycle nearer, and those due become visible (R223). -/
def State.commitTile (s : State) (id : Nat) (owner : Option Bool) : State :=
  let step (p : PStore) : PStore := if p.owner = owner then { p with due := p.due - 1 } else p
  let ps := (s.tile id).stores.map step
  let done (p : PStore) : Bool := p.owner == owner && p.due == 0
  let s := s.modTile id fun t => { t with stores := (underDue done ps).filter fun p => !done p }
  (ps.filter done).foldl (fun (s : State) p =>
    let s := s.commitBytes (Config.tileKey id) p.bytes
    { s with poison := p.bad.map (Config.tileKey id) ++ s.poison }) s

def State.commitFeeder (s : State) (f c : Nat) : State :=
  let ps := (s.feeder f).stores.map fun p => if p.1 = c then (p.1, { p.2 with due := p.2.due - 1 }) else p
  let done (p : Nat × PStore) : Bool := p.1 == c && p.2.due == 0
  let s := s.modFeeder f fun x => { x with stores := ps.filter fun p => !done p }
  (ps.filter done).foldl (fun s p => s.commitBytes (Config.coreStoreKey f c) p.2.bytes) s

/-- The core's own counts go down. -/
def Core.ticked (c : Core) : Core :=
  let c := c.tickAutos
  { c with
    ops := c.ops.map fun o => { o with due := o.due - 1 }
    holds := (c.holds.map fun h => { h with lo := h.lo - 1, hi := h.hi - 1 }).filter (·.hi != 0)
    hush := c.hush - 1
    waits := c.waits.map fun w => (match w.1 with | .fence steps tail => .fence steps (tail - 1) | x => x, false)
    traps := c.traps.map fun t => (t.1, t.2.1, false)
    p := c.p.map fun x => { x with array := x.array - 1 } }

/-- A cycle begins for a core: results due are written, remote ones in TIME and all else unless the core stands (R188, R189). -/
def State.coreTick (s : State) (r : CoreRef) : State :=
  let stands := (s.core r).stands
  let s := (s.modCore r fun c => { c with banks := [] }).writeDue r fun w => isRemote w || !stands
  if stands then s
  else
    let s := match r with
      | .tile id w => s.commitTile id (some w)
      | .feeder f c => s.commitFeeder f c
    s.modCore r Core.ticked

/-- Waits whose end a cycle's start shows; a BTAKE that slept through a draw-off too long is over at its first cycle (R220, R313, R336). -/
def State.endsOf (s : State) (r : CoreRef) : List Instr :=
  let c := s.core r
  (if c.waits.any fun w => match w.1 with | .waitv u => passed u (s.vcycOf r) | _ => false then [.waitvExpire r] else [])
    ++ (if c.waits.any (fenceOver ·.1) then [.fenceRelease r] else [])
    ++ (if c.waits.any fun w => match w.1 with | .btake _ _ t => 2 ^ 20 ≤ (s.time - t).toNat | _ => false then [.btakeTimeout r] else [])

/-- A stand ends or goes on; the array may stand a free worker (R373). -/
def State.coreBegin (s : State) (r : CoreRef) : State :=
  let c := s.core r
  match c.slwait with
  | some (sl, n) => if s.sluiceReady r sl n.toNat then { s with work := .ev (.slwaitProceed r) :: .coreBegin r :: s.work } else s
  | none =>
    let s := s.modCore r fun c => { c with stand := c.stand - 1, byDrain := false }
    if 1 < c.stand then s
    else
      let s := s.modCore r fun c => { c with mid := false }
      let n := match r with
        | .tile id true => if c.timed then 0 else s.arrayStand id
        | _ => 0
      if n ≠ 0 then s.modCore r (·.standFor n)
      else
        let s := s.releaseDue r
        { s with work := (s.endsOf r).map .ev ++ s.work }

/-- The oldest of the operations due. -/
def oldest : List Op → Option Op
  | [] => none
  | o :: r => match oldest r with
    | some p => some (if p.seq < o.seq then p else o)
    | none => some o

/-- An operation that traps while its thread is away: the trap waits for the thread to come home (R251). -/
def State.enterDone (before after : State) (r : CoreRef) : State :=
  match (before.core r).visit, (after.core r).trapped with
  | some _, some (cause, addr) => before.modCore r fun c => { c with traps := c.traps ++ [(cause, addr, false)] }
  | _, _ => after.modCore r fun c => { c with trapped := none, shut := none }

/-- The oldest operation due enters its column, and then the others (R186). -/
def State.coreEnter (s : State) (r : CoreRef) : Result :=
  let c := s.core r
  if c.stands then .next s
  else match oldest (c.ops.filter (·.due == 0)) with
    | none => .next s
    | some o =>
      let s := s.modCore r fun c => { c with ops := c.ops.erase o }
      let s := { s with work := .coreEnter r :: s.work }
      match exec o.instr (s.prepared r o) with
      | .next t => .next (s.enterDone t.settled r)
      | .fault f => .fault f
      | .refused x => .refused x

/-- A pending trap takes effect: at the word that waits, or at the bundle that does not issue (R228, R343). (log 39, DEDUCED) -/
def State.takeTrap (s : State) (r : CoreRef) (cause : BitVec 8) (addr : Word) : State :=
  let c := s.core r
  let s' := s.modCore r fun c => { c with traps := c.traps.erase (cause, addr, false) }
  match c.visit with
  | some v => if v.leaving then s else s.leaveFerry r true
  | none =>
    if c.waitsForAnswer then (s'.raiseWaiting r cause addr).modCore r Core.ended
    else if c.waits.all (·.2) then (s'.raiseOf r cause addr).modCore r Core.ended
    else s

/-- Units of a core that have still to write results of what it issued: its drains, products with sums, update pipeline (R237). -/
def State.unitBusy (s : State) : CoreRef → Bool
  | .tile id w => w && ((s.tile id).drains.any (·.age < 20) || (s.tile id).matOps.any fun m => m.msums.isSome && m.age ≤ m.lat + m.groups + 15)
  | .feeder f c => !(s.feeder f).pipes[feederCore c].isEmpty

/-- A handler's first bundle waits until what its core's units had under way is written (R237 step 6). -/
def State.settle (s : State) (r : CoreRef) : State :=
  let c := s.core r
  if !c.settling || c.hush ≠ 0 || s.unitBusy r then s
  else s.modCore r fun c => { c with settling := false, hush := if c.lastDue = 0 then 0 else c.lastDue + 1 }

/-- A core issues its next bundle, unless something keeps it (R189, R237). -/
def State.tryIssue (s : State) (r : CoreRef) : Result :=
  let s := s.settle r
  let c := s.core r
  if c.run ≠ .running || c.hush ≠ 0 || c.settling then .next s
  else match c.traps.find? fun t => !t.2.2 with
    | some (cause, addr, _) => .next (s.takeTrap r cause addr)
    | none =>
      if !(c.waits.all (·.2)) then .next s
      else match c.visit with
        | some v =>
          if v.leaving then .next s
          else if s.drawAnnounced r then .next (s.leaveFerry r false)
          else if v.fcore.isNone then .next (s.boardFerry r)
          else s.issueBundle r
        | none => s.issueBundle r

/-- The issue of a core's cycle, and after it the table reads due (R343). -/
def State.coreIssue (s : State) (r : CoreRef) : Result :=
  if (s.core r).stands then .next s
  else match s.tryIssue r with
    | .next t => .next (if (t.core r).stands then t else t.autoReads r)
    | .fault f => .fault f
    | .refused x => .refused x

end Sys2Proof.Machine
end

