-- ==== Sys2Proof/Machine/Cycle.lean ====
section
/-! DEFINITION. A TIME cycle of the module: what is due, the crews' counts, routers, cores, engines and ends (spec 03 R54 to R74; 06 R139 to R146;
07 R156 to R177; 08 R203 to R207; log 2, DESIGN CHOICE), and storing a word where the next step fetches. -/

namespace Sys2Proof.Machine

/-! ### The start of a cycle -/

/-- What a halted lockhouse does not do until it has restarted (R93). (log 45, DEDUCED) -/
def lockhouseWork : Instr → Bool
  | .dispatchReady _ | .rewind _ | .drawOffComplete _ | .markComplete _ | .pageMigration _ _ _ | .migrationClose _ | .poundFenceEffect _
  | .poundResetDone _ | .regradeDone | .bindRequest _ | .schedulerPass | .ageTick | .crewFaultStop _ | .voltageReplan _ _ _ => true
  | _ => false

/-- An entry due now: its TIME has come. -/
def State.isDue (s : State) (d : Due) : Bool :=
  match d.at_ with
  | .time t => passedTime t s.time && !(s.halted && lockhouseWork d.ev)
  | .count _ _ => false

/-- A towline's frame period ends in this cycle: periods last 27200 / 3584 cycles (R34). -/
def State.frameEnds (s : State) (tl : Nat) : Bool :=
  let t := s.time.toNat + Config.framePhase tl
  (s.towline tl).up && t * 3584 / 27200 != (t + 1) * 3584 / 27200

/-- What the crew in a slot does at a cycle's start: a drift pause that is due begins before the count that follows (R64). -/
def Slot.starts (n : Nat) (x : Slot) : List Work :=
  (if x.run.driftDue && !x.run.stopped then [.ev (.driftPause x.rec_.crew)] else []) ++ [.crewGo n]

/-- The next TIME cycle: counts just run are over, TIME advances, and what the cycle holds is listed (R54, R55). -/
def State.beginCycle (s : State) : State :=
  let count (_ : Nat) (x : Slot) : Slot := if x.run.live then { x with run := x.run.nextCount } else x
  let s := { s with time := s.time + 1, lh := { s.lh with slots := mapVals count s.lh.slots } }
  let due := (s.agenda.filter s.isDue).map fun d => Work.ev d.ev
  let frames := ((s.towlines.map (·.1)).filter s.frameEnds).map fun t => Work.ev (.frameSend t)
  let crews := s.lh.slots.flatMap fun x => Slot.starts x.1 x.2
  { s with agenda := s.agenda.filter fun d => !s.isDue d, work := due ++ frames ++ crews ++ [.units] }

/-! ### Units -/

/-- The crew that owns a tile runs a count in this cycle. -/
def State.tileLive (s : State) (id : Nat) : Bool := s.crewLive (.tile id true)
def State.feederLive (s : State) (f : Nat) : Bool := s.crewLive (.feeder f 0)

/-- A router has something to do in a count. -/
def State.hops (s : State) (id : Nat) : Bool :=
  let t := s.tile id
  s.tileLive id && (s.rowWord id != 0 || !t.links.isEmpty || !t.presents.isEmpty || t.red.isSome || !t.ejecting.isEmpty
    || s.feeders.any fun f => !f.2.presents.isEmpty && s.feederTile f.1 == id)

/-- Every core of the listed units: workers before stagers, feeder cores by number. -/
def State.allCores (s : State) : List CoreRef :=
  (s.tiles.flatMap fun t => [.tile t.1 true, .tile t.1 false]) ++ s.feeders.flatMap fun f => (List.range 4).map (.feeder f.1 ·)

/-- A core whose clock runs and for which something is to be done. -/
def State.coreActive (s : State) (r : CoreRef) : Bool := s.coreRuns r && !((s.core r).quiet && (s.pendingStores r).isEmpty)

/-- The units' parts of the cycle, in order. -/
def State.listUnits (s : State) : State :=
  let ids := s.tiles.map (·.1)
  let s := (ids.filter fun i => !(s.tile i).outQ.isEmpty || !(s.tile i).nackQ.isEmpty).foldl (fun s i => s.inject (.tile i)) s
  let dyn := (ids.filter fun i => !(s.tile i).dyn.isEmpty).map fun i => Work.ev (.dynPacketHop i)
  let static := (ids.filter s.hops).map fun i => Work.ev (.staticFlitHop i)
  let cores := s.allCores.filter s.coreActive
  let fs := s.feeders.map (·.1)
  { s with work := dyn ++ static ++ cores.map .coreTick ++ (cores.flatMap fun r => [.coreBegin r, .coreEnter r, .coreIssue r])
                     ++ ids.map .tileEngines ++ fs.map .feederEngines ++ ids.map .tileEnd ++ fs.map .feederEnd ++ s.work }

/-! ### Engines -/

/-- Ports of a core that fetch or drain, in the order p0 to p7 (R203). -/
def State.portWork (s : State) (r : CoreRef) : List Work :=
  if s.coreRuns r then
    ((List.range 8).filter fun i => ((s.core r).port (BitVec.ofNat 3 i)).busy).map fun i => Work.ev (.portFetch r (BitVec.ofNat 3 i))
  else []

/-- A core's operations advance in this cycle. -/
def State.advances (s : State) (r : CoreRef) : Bool := s.coreRuns r && !(s.core r).stands

/-- Beats land; the worker's drain, array and sets have their cycle; ports follow. -/
def State.tileEngines (s : State) (id : Nat) : State :=
  let s := if s.tileLive id then s.landBeats id else s
  let s := if s.advances (.tile id true) then (s.drainWrites id).arrayCycle id
    else if s.coreRuns (.tile id true) && (s.tile id).worker.byDrain then (s.drainWrites id).drainCycle id else s
  { s with work := s.portWork (.tile id true) ++ s.portWork (.tile id false) ++ s.work }

/-- A feeder's pipelines, line writes, ports and injection interface. -/
def State.feederEngines (s : State) (f : Nat) : State :=
  let s := ((List.range 4).filter fun c => s.advances (.feeder f c)).foldl (fun s c => s.pipeCycle f c) s
  let s := (((s.lightCycle f).tickLines f).inject (.feeder f))
  { s with work := ((List.range 4).flatMap fun c => s.portWork (.feeder f c)) ++ s.work }

/-! ### Sluices (R206, R207, R436) -/

/-- A sluice after a cycle: updates are summed and applied together, then the first core's SLSET; true: the sum is above 32,767. -/
def sluiceEnd (now : BitVec 16) (sl : BitVec 4) (upd : List SlUpd) (set : List (BitVec 4 × BitVec 16 × Nat)) : BitVec 16 × Bool :=
  let sum : Int := (upd.filter (·.sl == sl)).foldl (fun (x : Int) u => x + u.amt) now.toInt
  let v := BitVec.ofInt 16 (min sum 32767)
  let mine := set.filter (·.1 == sl)
  (match mine.find? (fun x => mine.all fun y => x.2.2 ≤ y.2.2) with
    | some x => x.2.1
    | none => v, decide (32767 < sum))

/-- Sluices that overflow in this cycle. -/
def overflows (now : Vector (BitVec 16) 16) (upd : List SlUpd) : List (BitVec 4) :=
  ((List.range 16).map (BitVec.ofNat 4)).filter fun sl => (sluiceEnd (now[Fin.ofNat 16 sl.toNat]) sl upd []).2

def endSluices (now : Vector (BitVec 16) 16) (upd : List SlUpd) (set : List (BitVec 4 × BitVec 16 × Nat)) : Vector (BitVec 16) 16 :=
  Vector.ofFn fun i => (sluiceEnd now[i] (BitVec.ofNat 4 i.val) upd set).1

/-- An overflow: the crew's fault where a core of the unit is timed, else a trap of each core that posted, or of core 0 for an arrival. (log 38, DEDUCED) -/
def State.sluiceOver (s : State) (cores : List CoreRef) (upd : List SlUpd) (sl : BitVec 4) : State :=
  let a : Word := sl.zeroExtend 64
  match cores.find? fun r => (s.core r).timed && (s.core r).run != .idle with
  | some r =>
    let ui := r.unitIndex
    (s.stopCores cores).unitFault (s.slotOf r) ui.1 ui.2 r.member Cause.sluice a
  | none =>
    let posted := (upd.filter fun u => u.sl == sl && 0 < u.amt).map fun u => u.by_.getD 0
    posted.eraseDups.foldl (fun s k => match cores.find? (·.order == k) with
      | some r => s.lateFault r Cause.sluice a
      | none => s) s

/-! ### The end of a cycle -/

/-- Code stores age with the crew's count; on units without timed cores with TIME (R296). -/
def CodeStore.aged (n : CodeStore) : CodeStore := { n with age := n.age + 1 }

/-- A store that its owner holds back comes nearer to the other core's sight. -/
def PStore.nearer (runs : Bool → Bool) (p : PStore) : PStore :=
  match p.owner with
  | some w => if runs w then { p with far := p.far - 1 } else p
  | none => p

def DynBuf.nearer (d : DynBuf) : DynBuf := { d with due := d.due - 1 }
def LinkFlit.nearer (l : LinkFlit) : LinkFlit := { l with due := l.due - 1 }
def Present.nearer (p : Present) : Present := { p with due := p.due - 1 }

/-- A tile's counts at the end of a cycle: those of its crew's machinery when it runs, and those of TIME. -/
def Tile.ended (t : Tile) (live timed : Bool) (runs : Bool → Bool) : Tile :=
  let t := t.tickLate live
  let t := { t with
             sluice := endSluices t.sluice t.slUpd t.slSet
             slUpd := [], slSet := [], slTaken := []
             dyn := t.dyn.map DynBuf.nearer
             stores := t.stores.map (PStore.nearer runs)
             codeStores := if live || !timed then (t.codeStores.map CodeStore.aged).filter (·.age < 8) else t.codeStores }
  let t := if live then
      { t with released := []
               landed := (t.landed.filter (·.1 == 0)).map fun (x : Nat × Nat × List Byte) => (1, x.2)
               links := t.links.map LinkFlit.nearer
               presents := t.presents.map Present.nearer }
    else t
  { t.endTokens with off := t.offs }

/-- The end of a cycle at a tile. -/
def State.tileEnd (s : State) (id : Nat) : State :=
  let t := s.tile id
  let cores : List CoreRef := [.tile id true, .tile id false]
  let s := (overflows t.sluice t.slUpd).foldl (fun s sl => s.sluiceOver cores t.slUpd sl) s
  let live := s.tileLive id
  let timed := cores.any fun r => (s.core r).timed
  let runs (w : Bool) : Bool := s.coreRuns (.tile id w)
  ((s.modTile id fun t => t.ended live timed runs).endBerths id).commitTile id none

/-- A feeder's counts at the end of a cycle. -/
def Feeder.ended (f : Feeder) (live : Bool) (timed : Nat → Bool) : Feeder :=
  let f := f.tickLate live
  let aged (x : Nat × CodeStore) : Nat × CodeStore := if live || !timed x.1 then (x.1, x.2.aged) else x
  { f with
    sluice := endSluices f.sluice f.slUpd f.slSet
    slUpd := [], slSet := [], slTaken := []
    codeStores := (f.codeStores.map aged).filter (·.2.age < 8)
    presents := if live then f.presents.map Present.nearer else f.presents }

/-- The end of a cycle at a feeder. -/
def State.feederEnd (s : State) (f : Nat) : State :=
  let x := s.feeder f
  let cores : List CoreRef := (List.range 4).map (.feeder f ·)
  let s := (overflows x.sluice x.slUpd).foldl (fun s sl => s.sluiceOver cores x.slUpd sl) s
  let live := s.feederLive f
  let timed (c : Nat) : Bool := (s.core (.feeder f c)).timed
  s.modFeeder f fun x => x.ended live timed

/-! ### One item of work -/

/-- The next thing of the present cycle. -/
def doWork (w : Work) (s : State) : Result :=
  match w with
  | .ev i => exec i s
  | .crewGo n => .next (s.crewGo n)
  | .units => .next s.listUnits
  | .coreTick r => .next (s.coreTick r)
  | .coreBegin r => .next (s.coreBegin r)
  | .coreEnter r => s.coreEnter r
  | .coreIssue r => s.coreIssue r
  | .tileEngines t => .next (s.tileEngines t)
  | .feederEngines f => .next (s.feederEngines f)
  | .tileEnd t => .next (s.tileEnd t)
  | .feederEnd f => .next (s.feederEnd f)

/-! ### A word placed for the next step -/

/-- Words that only a timed core runs (R304, R386, R391, R394, R404, R405). -/
def timedOnly : Instr → Bool
  | .size _ _ | .finj _ _ _ | .fgrp _ _ | .tsend _ _ | .tsendP _ | .tsendV _ _ | .tredV _ _ | .tredMem _ _ _ | .drift | .holdrq _ => true
  | _ => false

/-- The core that a word is given to: the worker of tile 0, or core 0 of feeder 0 for the F column. -/
def hostCore (i : Option Instr) : CoreRef :=
  match i.bind column with
  | some .f => .feeder 0 0
  | _ => .tile 0 true

/-- A window of the whole store, which the image's windows are for a program (R194, R302). -/
def wholeWindow : WinDesc := BitVec.ofNat 128 (2 ^ 37 + 2 ^ 38 + 2 ^ 39 + 2047 * 2 ^ 26)

/-- A keeper core about to issue at address 0, nothing under way. -/
def readyCore (c : Core) (timed : Bool) : Core :=
  { c with run := .running, timed := timed, keeper := true, pc := 0, branch := none, delayDue := 0, waits := [], slwait := none, granted := false
           stand := 0, byDrain := false, mid := false, hush := 0, settling := false, ops := [], holds := [], traps := [], pending := [], visit := none }

/-- The core, its window 0 and its code path made ready. -/
def State.readyFor (s : State) (r : CoreRef) (timed : Bool) : State :=
  let s := s.modCore r (readyCore · timed)
  match r with
  | .tile id _ => s.modTile id fun t => { t with windesc := Vector.set (Vector.replicate 16 0) 0 wholeWindow, stores := [], codeStores := [] }
  | .feeder f c => s.modFeeder f fun x =>
      { x with windesc := x.windesc.set (feederCore c) (Vector.set (Vector.replicate 16 0) 0 wholeWindow), stores := [], codeStores := [] }

/-- A word at address 0 of a core's store, then one bundle's words of zeros, and the next step issues it. -/
def State.placeWord (s : State) (w : Word) (i : Option Instr) : State :=
  let r := hostCore i
  let s := s.readyFor r (i.any timedOnly)
  { s with mem := writeCells s.mem (keyed (localKey r 0) (bytesOfWord w ++ List.replicate 24 0))
           poison := s.poison.filter fun k => !((List.range 4).map (localKey r 0 + 8 * ·)).contains k
           inputs := [], work := [.coreIssue r], lh := { s.lh with accepted := [] } }

end Sys2Proof.Machine
end

