-- ==== Sys2Proof/Machine/Step.lean ====
section
/-! DEFINITION. One step of the machine: an input from outside, then a host command whose turn has come, then the next thing of the present TIME
cycle; when nothing is left of it the next cycle begins (log 2, DESIGN CHOICE). -/

namespace Sys2Proof.Machine

/-- One step. -/
def step (s : State) : Host.Outcome State Fault Refusal :=
  match s.inputs with
  | i :: r => exec i { s with inputs := r }
  | [] =>
    match s.nextCommand with
    | some (c, t) => runCommand c t
    | none =>
      match s.work with
      | w :: r => doWork w { s with work := r }
      | [] => .next s.beginCycle

/-- A word stored where the next step fetches: it stands for the load of a program by LAUNCH (log 18, DEDUCED). -/
def State.withFetchWord (s : State) (_nbits w : Nat) : State :=
  s.placeWord (BitVec.ofNat 64 w) (decodeTableWord 64 w)

end Sys2Proof.Machine
end

