-- ==== Sys2Proof/Safety.lean ====
section
/-! DEFINITION. What counts as a safe run, and the words the claims are stated in: a word that enters, what two states have in common. -/

namespace Sys2Proof

/-- `k` steps from a state answer a next state. -/
def Safe (k : Nat) (s : Machine.State) : Prop := ∃ t, Host.Core.run core k s = .next t

end Sys2Proof

namespace Sys2Proof.Machine

/-- The acting core's word has passed the checks of issue with its bundle, or passes them now (R287). -/
def State.Enters (s : State) (i : Instr) : Prop := s.checked = true ∨ s.wordFault s.actor i = none

/-- Two references to one core: a feeder's core numbers count modulo 4. -/
def SameCore (a b : CoreRef) : Prop :=
  match a, b with
  | .tile i w, .tile j v => i = j ∧ w = v
  | .feeder f c, .feeder g d => f = g ∧ feederCore c = feederCore d
  | _, _ => False

/-- Every byte of the module's memories is as it was. -/
def SameBytes (s t : State) : Prop := ∀ a, readCell t.mem a = readCell s.mem a

/-- Every general, predicate and table register, every flag and every vector register is as it was. -/
def SameFiles (s t : State) : Prop :=
  (∀ r, (t.core r).g = (s.core r).g ∧ (t.core r).k = (s.core r).k ∧ (t.core r).lt = (s.core r).lt ∧ (t.core r).fflags = (s.core r).fflags) ∧
  ∀ id, (t.tile id).v = (s.tile id).v

/-- The trap, mode and stochastic-rounding registers of every core, and the accumulators and descriptors of every tile, are as they were. -/
def SameSpecial (s t : State) : Prop :=
  (∀ r, (t.core r).domain = (s.core r).domain ∧ (t.core r).keeper = (s.core r).keeper ∧ (t.core r).ie = (s.core r).ie ∧
    (t.core r).trapPC = (s.core r).trapPC ∧ (t.core r).trapCause = (s.core r).trapCause ∧ (t.core r).faultAddr = (s.core r).faultAddr ∧
    (t.core r).shadow = (s.core r).shadow ∧ (t.core r).cvmode = (s.core r).cvmode ∧ (t.core r).srkey = (s.core r).srkey) ∧
  ∀ id, (t.tile id).z0 = (s.tile id).z0 ∧ (t.tile id).z1 = (s.tile id).z1 ∧ (t.tile id).windesc = (s.tile id).windesc ∧
    (t.tile id).dcfg = (s.tile id).dcfg ∧ (t.tile id).ejdesc = (s.tile id).ejdesc ∧ (t.tile id).rfmt = (s.tile id).rfmt ∧
    (t.tile id).rtab = (s.tile id).rtab ∧ (t.tile id).votelog = (s.tile id).votelog ∧ (t.tile id).ejflags = (s.tile id).ejflags

/-- Registers, flags, special registers and bytes are as they were. -/
def Kept (s t : State) : Prop := SameFiles s t ∧ SameBytes s t ∧ SameSpecial s t

/-- Registers, flags and bytes are as they were. -/
def Same (s t : State) : Prop := SameFiles s t ∧ SameBytes s t

/-- The states differ in units alone. -/
def OnlyUnits (s t : State) : Prop := { t with tiles := s.tiles, feeders := s.feeders } = s

/-- The states differ in cores alone. -/
def OnlyCores (s t : State) : Prop :=
  OnlyUnits s t ∧
  (∀ id, { t.tile id with worker := (s.tile id).worker, stager := (s.tile id).stager } = s.tile id) ∧
  ∀ f, { t.feeder f with cores := (s.feeder f).cores } = s.feeder f

/-- The states differ in one core alone. -/
def OnlyCore (r : CoreRef) (s t : State) : Prop := OnlyCores s t ∧ ∀ q, ¬ SameCore q r → t.core q = s.core q

/-- The states differ in the acting core's results under way alone. -/
def OnlyResults (s t : State) : Prop := OnlyCore s.actor s t ∧ { t.core s.actor with writes := s.me.writes } = s.me

/-- A word that enters makes of `s` the state `t`. -/
def Runs (i : Instr) (s t : State) : Prop := s.Enters i → exec i s = .next t

/-- A word that enters makes of `s` a state of which `P` holds. -/
def RunsTo (i : Instr) (s : State) (P : State → Prop) : Prop := s.Enters i → ∃ t, exec i s = .next t ∧ P t

/-- An event or a command makes of `s` a state of which `P` holds. -/
def Does (i : Instr) (s : State) (P : State → Prop) : Prop := ∃ t, exec i s = .next t ∧ P t

/-- What the acting core has under way: a result written `n` cycles from now. -/
def State.underWay (s : State) (n : Nat) (w : Wr) : Prop := (⟨n, s.seq, w⟩ : PendWr) ∈ s.me.writes

/-- A result that writes the scalar register `d`. -/
def writesG (d : Reg) (w : Wr) : Prop := match w with
  | .g r _ | .remote r _ _ | .drainst r _ => r = d
  | _ => False

/-- The bundle at word address `w` has `n` words: each but the last links to the next (R284). -/
def State.BundleLen (s : State) (r : CoreRef) (w n : Nat) : Prop :=
  1 ≤ n ∧ n ≤ 4 ∧ (∀ i, i + 1 < n → (s.latest r (8 * (w + i) + 7)).getLsbD 7 = true) ∧
    (n = 4 ∨ (s.latest r (8 * (w + n - 1) + 7)).getLsbD 7 = false)

/-- No store into the core's memory is younger than eight cycles, so the fetch path shows every store (R296). -/
def State.CodeSettled (s : State) (r : CoreRef) : Prop := match r with
  | .tile id _ => (s.tile id).codeStores = []
  | .feeder f c => ∀ x ∈ (s.feeder f).codeStores, x.1 ≠ c

/-- Lane j takes part in a vector operation of a fold under a predicate (R341). -/
def State.laneOn (s : State) (fold : BitVec 2) (k : KReg) (j : Fin 64) : Bool := decide (j.val < 8 * 2 ^ fold.toNat) && (s.k k).getLsbD j.val

/-- The word has put under way, for `n` cycles from now, a write of exactly the lanes `on` of a vector register, lane j with `val j`, and the
flags `fl`; nothing else has changed. -/
def LanesWritten (s t : State) (n : Nat) (d : Reg) (on : Fin 64 → Bool) (val : Fin 64 → BitVec 32) (fl : BitVec 7) : Prop :=
  ∃ (mask : Word) (x : VReg), t = (s.later n (.v d mask x)).laterFlags n fl ∧ ∀ j : Fin 64, mask.getLsbD j.val = on j ∧ (on j = true → x[j] = val j)

end Sys2Proof.Machine
end

