-- ==== Sys2Proof/Certificates/Slice0/Obligations.lean ====
section
/-! DEFINITION. The statements for the provers. A statement's docstring names the rules of the spec it formalises; where it rests on a choice of the
model, it names the log entry. `State.Enters` is the hypothesis under which a word is executed: its bundle has passed the checks of issue. -/

set_option linter.unusedVariables false

open Sys2Proof Sys2Proof.Machine


/-! ### Reset, memory, encodings -/

/-- What the spec states for reset: the queues of the four ports with depth 64 (R77), and in every core the flags, the rounding mode, the
stochastic key, the trap registers and the mode (R192, R193, R191, R238); CREWID is zero on a tile outside any crew, and EJFLAGS is 0 (R164,
R191). -/
def Obligations.ResetLeavesStatedValues : Prop :=
  ∀ r : CoreRef,
    let s := State.reset
    let c := s.core r
    (∀ p < 4, ∃ q ∈ s.lh.queues, q.qid = p ∧ q.port = p ∧ q.admin = true ∧ q.depth = 64)
    ∧ c.fflags = 0 ∧ c.cvmode = 0x08 ∧ c.srkey = 0 ∧ c.trapPC = 0 ∧ c.trapCause = {} ∧ c.faultAddr = 0 ∧ c.keeper = false ∧ c.ie = false
    ∧ s.sysValue r 0x004 = 0 ∧ s.sysValue r 0x003 = 0 ∧ s.sysValue r 0x006 = 0 ∧ s.sysValue r 0x008 = 0 ∧ s.sysValue r 0x00B = 0x08
    ∧ s.sysValue r 0x014 = 0

/-- The memory after reset is in the canonical form, and the machine that the host runs begins there.

It rests on the model's choices of log 3. -/
def Obligations.ResetMemoryIsCanonical : Prop :=
Memory.wf core.reset.mem = true

/-- Every step keeps the memory in its canonical form: keys strictly rising, no listed zero byte.

It rests on the model's choices of log 3. -/
def Obligations.StepKeepsMemoryForm : Prop :=
  ∀ s t : State, Memory.wf s.mem = true → step s = .next t → Memory.wf t.mem = true

/-- The word of every well-formed instruction decodes to that instruction, with its link bit and its defer count: every operand at every
value the encoding admits. -/
def Obligations.DecodeOfEncodeIsTheInstruction : Prop :=
  ∀ (i : Instr) (link : Bool) (defer : BitVec 3) (w : Word), i.wf = true → (i.isControlWord = true → defer = 0) →
    encode link defer i = some w → decodeWord w = .ok { link := link, defer := defer, instr := i }

/-- A word the decoder accepts is the word of the instruction it is decoded to, with its link bit and defer count: no two words mean the
same, and every bit of an accepted word is an operand's or fixed. -/
def Obligations.EncodeOfDecodeIsTheWord : Prop :=
  ∀ (w : Word) (d : Decoded), decodeWord w = .ok d → encode d.link d.defer d.instr = some w

/-- Words written out in the spec decode to the instructions they stand for: the six of the worked image and its BRA (R302), NOP and the
linking NOP (R283). -/
def Obligations.WorkedImageDecodes : Prop :=
  decodeWord 0x8433800000010000 = .ok { link := true, defer := 0, instr := .li 7 0x10000 }
  ∧ decodeWord 0x22241C00FFFFFFF0 = .ok { link := false, defer := 2, instr := .addi 8 7 (BitVec.ofInt 32 (-16)) }
  ∧ decodeWord 0x0090000000000000 = .ok { link := false, defer := 0, instr := .halt }
  ∧ decodeWord 0x0010000000000000 = .ok { link := false, defer := 0, instr := .bra 0 }
  ∧ decodeWord 0x0000000000000000 = .ok { link := false, defer := 0, instr := .nop }
  ∧ decodeWord 0x8000000000000000 = .ok { link := true, defer := 0, instr := .nop }

/-! ### Issue, entry and results -/

/-- A word is fetched from the memory of its core: with no store younger than eight cycles and none on its way, the word at a word address
inside a readable window is the eight bytes there, lowest address first (R7, R287, R294, R296).

It rests on the model's choices of log 3 and 5. -/
def Obligations.FetchReadsTheCoresMemory : Prop :=
  ∀ (s : State) (r : CoreRef) (w : Nat) (n : BitVec 4) (d : WinDesc),
    s.CodeSettled r → s.pendingStores r = [] → 8 * w + 8 ≤ Config.storeSize → s.windowAt r (8 * w) = some (n, d) → d.has (8 * w + 7) = true →
    ((s.core r).keeper = true ∨ d.ur = true) → s.poisonedAt r ((List.range 8).map (8 * w + ·)) = none →
      s.fetchWord r w = .ok (BitVec.ofNat 64 (leNat ((List.range 8).map fun j => readCell s.mem (localKey r (8 * w + j)))), s)

/-- A step runs the decoded instruction. When the next thing of the cycle is the issue of a core that may issue, and the word at its pc,
alone in its bundle, decodes to an instruction and passes the checks of issue, then the step is: with D = 0 the meaning of that instruction,
the core's pc already past the bundle and its pending branch one bundle nearer, then the end of the bundle; if the word trapped (and is no TRAP
or BREAK, which trap after their bundle), the exception at the bundle with nothing of it executed; with D > 0, or for a NOP, the core past the
bundle with the operation in its queue.

It rests on the model's choices of log 2. -/
def Obligations.StepRunsDecodedWord : Prop :=
  ∀ (s s1 : State) (r : CoreRef) (rest : List Work) (w : Word) (defer : BitVec 3) (i : Instr),
    let c := s.core r
    let ws : List BWord := [⟨8 * c.pc.toNat, w⟩]
    let o : Op := { due := defer.toNat, seq := (s1.core r).issued, addr := 8 * c.pc.toNat, instr := i }
    let e := (s1.modCore r (·.begun ws [o])).prepared r o
    s.inputs = [] → s.nextCommand = none → s.work = .coreIssue r :: rest →
    c.stands = false → c.settling = false → c.run = .running → c.hush = 0 → c.traps = [] → c.waits = [] → c.visit = none →
    ({ s with work := rest } : State).fetchWord r c.pc.toNat = .ok (w, s1) →
    decodeWord w = .ok { link := false, defer := defer, instr := i } → (s1.core r).pends ws = false → s1.bundleFault r ws = none →
      (defer = 0 → i ≠ .nop → ∀ t, exec i e = .next t → (t.core r).stands = false → (t.core r).visit = none →
        ((t.core r).trapped = none ∨ i.isControlWord = true ∧ trapsAfter i = true →
          step s = .next ((t.settled.modCore r Core.ended).autoReads r))
        ∧ ∀ cause addr, (t.core r).trapped = some (cause, addr) → trapsAfter i = false →
          ∃ u, u = s1.undone r (t.core r) cause addr ∧ step s = .next (if (u.core r).stands then u else u.autoReads r))
      ∧ (defer ≠ 0 → i ≠ .nop → step s = .next (((s1.modCore r (·.begun ws [o])).modCore r Core.ended).autoReads r))
      ∧ (i = .nop → step s = .next (((s1.modCore r (·.begun ws [])).modCore r Core.ended).autoReads r))

/-- An input of the outside world, and an event whose turn has come in the cycle, have the meaning of their row.

A deferred operation enters its column by its meaning: when the next thing of the cycle is the entry of what is due in a core that does
not stand, the step executes the oldest operation due in the state its word was issued for (R186).

It rests on the model's choices of log 2. -/
def Obligations.StepRunsEntriesInputsAndEvents : Prop :=
  ((∀ (s : State) (i : Instr) (rest : List Instr), s.inputs = i :: rest → step s = exec i { s with inputs := rest })
    ∧ ∀ (s : State) (i : Instr) (rest : List Work), s.inputs = [] → s.nextCommand = none → s.work = .ev i :: rest →
        step s = exec i { s with work := rest })
  ∧ (∀ (s : State) (r : CoreRef) (rest : List Work) (o : Op) (t : State),
      s.inputs = [] → s.nextCommand = none → s.work = .coreEnter r :: rest → (s.core r).stands = false → (s.core r).visit = none →
      oldest ((s.core r).ops.filter (·.due == 0)) = some o →
      exec o.instr (({ ({ s with work := rest } : State).modCore r (fun c => { c with ops := c.ops.erase o }) with work := .coreEnter r :: rest } : State).prepared r o)
        = .next t →
        step s = .next (t.settled.modCore r fun c => { c with trapped := none, shut := none }))

/-- Scalar results land when they are due and no register is interlocked (R188). As a core's cycle begins: a register for which no result is
due keeps its value; of the results due for one register in one cycle the later-issued one stands; a result not yet due comes one cycle nearer;
g0 reads as zero and k0 as all ones; a core that stands writes none of its own results; and no other core's register changes.

It rests on the model's choices of log 2 and 38. -/
def Obligations.ScalarResultsLand : Prop :=
  ∀ (s : State) (r : CoreRef), ∃ t, doWork (.coreTick r) s = .next t
    ∧ ((s.core r).stands = false → ∀ d : Reg, d ≠ 0 →
        ((∀ w ∈ (s.core r).writes, w.due ≤ 1 → ¬ writesG d w.wr) → (t.core r).readG d = (s.core r).readG d)
        ∧ ∀ pre post n q v, (s.core r).writes = pre ++ ⟨n, q, .g d v⟩ :: post → n ≤ 1 →
            (∀ x ∈ post, x.due ≤ 1 → ¬ writesG d x.wr) → (t.core r).readG d = v)
    ∧ ((s.core r).stands = false → ∀ w ∈ (s.core r).writes, 2 ≤ w.due → { w with due := w.due - 1 } ∈ (t.core r).writes)
    ∧ ((s.core r).stands = true → ∀ w ∈ (s.core r).writes, isRemote w = false → w ∈ (t.core r).writes)
    ∧ (t.core r).readG 0 = 0 ∧ (t.core r).readK 0 = BitVec.allOnes 64
    ∧ ∀ q, ¬ SameCore q r → (t.core q).g = (s.core q).g ∧ (t.core q).k = (s.core q).k

/-- Predicate, vector and flag results land when they are due (R188, R192, R345): the bits of the mask are written and the others kept, the
lanes of the mask are written and the others kept, and flags are only ever set.

Stores become visible (R223): as the cycle of a core that does not stand begins, a store of its own that is due writes exactly its bytes to the tile's
memory, every other byte of every memory reads as before, and a store not yet due comes one cycle nearer and changes no byte.

It rests on the model's choices of log 2 and 38. -/
def Obligations.OtherResultsAndStoresLand : Prop :=
  (∀ (s : State) (id : Nat) (wk : Bool),
      let r := CoreRef.tile id wk
      (s.core r).stands = false → ∃ t, doWork (.coreTick r) s = .next t
      ∧ (∀ (d : KReg) (w : PendWr) (mask v : Word), d ≠ 0 → w ∈ (s.core r).writes → w.due ≤ 1 → w.wr = .k d mask v →
          (∀ x ∈ (s.core r).writes, x.due ≤ 1 → ∀ m u, x.wr = .k d m u → m = mask ∧ u = v) →
          ∀ j < 64, ((t.core r).readK d).getLsbD j = if mask.getLsbD j then v.getLsbD j else ((s.core r).readK d).getLsbD j)
      ∧ (∀ (d : Reg) (w : PendWr) (mask : Word) (x : VReg), w ∈ (s.core r).writes → w.due ≤ 1 → w.wr = .v d mask x →
          (∀ y ∈ (s.core r).writes, y.due ≤ 1 → (∀ m u, y.wr = .v d m u → m = mask ∧ u = x) ∧ ∀ m u, y.wr ≠ .vAcc d m u) →
          ∀ j : Fin 64, ((t.tile id).readV d)[j] = if mask.getLsbD j.val then x[j] else ((s.tile id).readV d)[j])
      ∧ (∀ d : Reg, (∀ y ∈ (s.core r).writes, y.due ≤ 1 → (∀ m u, y.wr ≠ .v d m u) ∧ ∀ m u, y.wr ≠ .vAcc d m u) →
          (t.tile id).readV d = (s.tile id).readV d)
      ∧ ((∀ y ∈ (s.core r).writes, y.due ≤ 1 → ∀ v, y.wr ≠ .sys 0x00A v) →
          ∀ j, ((t.core r).fflags.getLsbD j = true ↔
            (s.core r).fflags.getLsbD j = true ∨ ∃ w ∈ (s.core r).writes, w.due ≤ 1 ∧ ∃ f, w.wr = .flags f ∧ f.getLsbD j = true)))
  ∧ (∀ (s : State) (id : Nat) (wk : Bool) (p : PStore),
      let r := CoreRef.tile id wk
      Memory.wf s.mem = true → (s.core r).stands = false → (s.tile id).stores = [p] → p.owner = some wk → p.bad = [] → (p.bytes.map (·.1)).Nodup →
        ∃ t, doWork (.coreTick r) s = .next t
          ∧ (p.due ≤ 1 → (t.tile id).stores = [] ∧ (∀ x ∈ p.bytes, readCell t.mem (Config.tileKey id x.1) = x.2)
              ∧ ∀ k, (∀ x ∈ p.bytes, Config.tileKey id x.1 ≠ k) → readCell t.mem k = readCell s.mem k)
          ∧ (2 ≤ p.due → (t.tile id).stores = [{ p with due := p.due - 1 }] ∧ SameBytes s t))

/-- Words write their registers only when their results are due: no meaning of a row but those that begin or end a crew, reset units or
number them anew changes a general, predicate, table or vector register or a flag in the step that executes it (R188, R292).

No word of the C, S, L, V or M column changes a byte of memory in the step that executes it: a local store is on its way for two cycles,
and a drain writes from E + 18 on (R212, R223). HALT alone may: the halt that ends a crew posts the end to a ring of the host (R112). -/
def Obligations.NothingChangesAtOnce : Prop :=
  (∀ (i : Instr) (s t : State),
      (match i with
        | .dispatchReady _ | .powerEnable | .powerSequenceStep | .powerDisable | .resetPulse _ | .thermalTrip _ | .poundResetDone _ | .regradeDone => False
        | _ => True) →
      exec i s = .next t → SameFiles s t)
  ∧ (∀ (i : Instr) (s t : State), (column i = some .c ∨ column i = some .s ∨ column i = some .l ∨ column i = some .v ∨ column i = some .m) → i ≠ .halt →
      exec i s = .next t → SameBytes s t)

/-! ### Refused words, traps and crew faults -/

/-- A word that fails a check of issue is not executed: its step is the exception with the cause and the address of the first failing check,
ILLEGAL before PRIV (R287). An ill-formed word, and a word for a column its core lacks, is ILLEGAL at its byte address.

The privilege rules of R190 and R287: in user mode the words below take PRIV, with FAULTADDR the register number or 0 for an instruction;
in keeper mode each of them enters, and so do in user mode the reads and writes that R190 allows to all. -/
def Obligations.RefusedWordsAndPrivilege : Prop :=
  (∀ (i : Instr) (s : State), (column i ≠ none ∨ i = .nop) → s.checked = false →
      (∀ cause addr, s.wordFault s.actor i = some (cause, addr) → exec i s = .next (s.raise cause addr))
      ∧ (i.wf = false → exec i s = .next (s.raise 0x01 (BitVec.ofNat 64 s.wordAt)))
      ∧ ((column i = some .v ∨ column i = some .m) → s.actor.isWorker = false → exec i s = .next (s.raise 0x01 (BitVec.ofNat 64 s.wordAt)))
      ∧ (column i = some .f → s.actor.isFeeder = false → exec i s = .next (s.raise 0x01 (BitVec.ofNat 64 s.wordAt))))
  ∧ (∀ (s : State) (i : Instr) (a : Reg), s.checked = false → i.wf = true → s.illegal s.actor i = false →
      (∀ m : Word,
        ((∃ n, i = .sysrd a n ∧ 7 ≤ n.toNat ∧ n.toNat ≤ 9 ∧ m = n.zeroExtend 64)
          ∨ (∃ n, i = .syswr n a ∧ ¬ (n = 0x00C ∨ 0x108 ≤ n.toNat ∧ n.toNat ≤ 0x10B) ∧ m = n.zeroExtend 64)
          ∨ (∃ h, i = .windescWrite h a ∧ m.toNat = 0x0C0 + h.toNat) ∨ (∃ j, i = .tapcfgWrite j a ∧ m.toNat = 0x0E0 + j.toNat)
          ∨ (∃ j, i = .arrmapWrite j a ∧ m.toNat = 0x0E8 + j.toNat) ∨ (∃ j, i = .ejdescWrite j a ∧ m.toNat = 0x0F0 + j.toNat)
          ∨ (∃ j, i = .rfmtWrite j a ∧ m.toNat = 0x100 + j.toNat) ∨ (∃ h, i = .rtabWrite h a ∧ m.toNat = 0x200 + h.toNat)
          ∨ (i = .votelogClear a ∧ m = 0x012)
          ∨ ((i = .eret ∨ i = .waiti ∨ (∃ e b, i = .trtab e a b) ∨ ∃ g, i = .fgrp a g) ∧ m = 0)) →
        (s.me.keeper = false → exec i s = .next (s.raise 0x07 m)) ∧ (s.me.keeper = true → s.Enters i))
      ∧ (((∃ n, i = .sysrd a n ∧ ¬ (7 ≤ n.toNat ∧ n.toNat ≤ 9)) ∨ i = .syswr 0x00C a ∨ (∃ n, i = .syswr n a ∧ 0x108 ≤ n.toNat ∧ n.toNat ≤ 0x10B)
          ∨ i = .fflagsWrite a ∨ i = .cvmodeWrite a ∨ i = .ejflagsClear a) → s.Enters i))

/-- Taking a precise trap (R237, R238): in a free core in user mode with a keeper entry, a refused word sets TRAPPC to its bundle, TRAPCAUSE
to the cause, the mode bits before entry and the delay bundles still due, FAULTADDR to the address, the mode to keeper without IE, and the
next bundle to the keeper entry, which issues when two cycles and the last write under way are past; operations issued before go on; no
register, no byte and no other core changes; and a machine-check record of KIND 0x01 is written while the log has room.

A crew fault (R240): the same word in a timed core, in keeper mode, or without a keeper entry stops the core; operations issued before go on;
no register and no byte changes, the trap registers keep their values; and the report is on its way to the crew's anchor, over a towline in
service where the anchor is on another module. That it arrives within 32 cycles on the anchor's own module is the model's bound for the budget
of R69 (log 5). -/
def Obligations.TrapsAndCrewFaults : Prop :=
  (∀ (i : Instr) (s : State) (cause : BitVec 8) (addr : Word) (e : BitVec 16),
      (column i ≠ none ∨ i = .nop) → s.checked = false → s.wordFault s.actor i = some (cause, addr) →
      s.me.timed = false → s.me.keeper = false → s.me.keeperEntry = some e →
        ∃ t, exec i s = .next t ∧
          (let br := if s.me.issuing then s.me.curBranch else s.me.branch
          t.me.trapPC = (if s.me.issuing then s.me.cur else s.me.pc).truncate 16
          ∧ t.me.trapCause = { ferry := s.me.ferryTrap, ds := BitVec.ofNat 2 (match br with | some b => b.due | none => 0), pie := s.me.ie,
                               pkeep := false, cause := cause }
          ∧ t.me.faultAddr = addr ∧ t.me.shadow = br ∧ t.me.keeper = true ∧ t.me.ie = false ∧ t.me.pc = e.zeroExtend 17 ∧ t.me.branch = none
          ∧ t.me.hush = max 2 (s.me.lastDue + 1) ∧ t.me.settling = true ∧ t.me.ops = s.me.ops ∧ t.me.writes = s.me.writes)
          ∧ SameFiles s t ∧ SameBytes s t ∧ (∀ q, ¬ SameCore q s.actor → t.core q = s.core q)
          ∧ ((s.lh.log.filter (·.unread)).length < 1024 →
              ∃ x ∈ t.lh.log, x.kind = 0x01 ∧ x.cause = cause ∧ x.addr = addr ∧ x.time = s.time ∧ x.unread = true))
  ∧ (∀ (i : Instr) (s : State) (cause : BitVec 8) (addr : Word) (n : Nat),
      (column i ≠ none ∨ i = .nop) → s.checked = false → s.wordFault s.actor i = some (cause, addr) →
      (s.me.timed = true ∨ s.me.keeper = true ∨ s.me.keeperEntry = none) → s.slotOf s.actor = some n →
        ∃ t, exec i s = .next t ∧ t.me.run = .stopped ∧ t.me.ops = s.me.ops ∧ t.me.writes = s.me.writes ∧ t.me.trapPC = s.me.trapPC
          ∧ t.me.trapCause = s.me.trapCause ∧ t.me.faultAddr = s.me.faultAddr ∧ t.me.keeper = s.me.keeper
          ∧ SameFiles s t ∧ SameBytes s t ∧ (∀ q, ¬ SameCore q s.actor → t.core q = s.core q)
          ∧ ((s.slot n).modIdx = 0 → ∃ d : Nat, 1 ≤ d ∧ d ≤ 32 ∧
              (⟨.time (s.time + BitVec.ofNat 64 d), .crewFaultReport (s.slot n).rec_.crew cause addr s.actor.member⟩ : Due) ∈ t.agenda)
          ∧ ((s.slot n).modIdx ≠ 0 → ∀ k, s.lineTo ((s.slot n).rec_.crew.toNat / 2 ^ 11) = some k →
              Notice.report (s.slot n).rec_.crew cause addr s.actor.member ∈ (t.towline k).notes))

/-- ERET (R239): the mode bits come back from TRAPCAUSE, the next bundle is that at TRAPPC, and with DS 1 or 2 and the shadow kept the branch of
the shadow is pending with DS delay bundles still due; a DS of 3 acts as 0. Nothing else of the core, no other core and no byte changes.

Completes (exec answers a next state): eret. -/
def Obligations.EretRestoresTheState : Prop :=
  ∀ s : State, RunsTo .eret s fun t =>
    t.me.keeper = s.me.trapCause.pkeep ∧ t.me.ie = s.me.trapCause.pie ∧ t.me.pc = s.me.trapPC.zeroExtend 17
    ∧ (∀ b, s.me.shadow = some b → (s.me.trapCause.ds = 1 ∨ s.me.trapCause.ds = 2) →
        t.me.branch = some { target := b.target, due := s.me.trapCause.ds.toNat })
    ∧ ((s.me.shadow = none ∨ s.me.trapCause.ds = 0 ∨ s.me.trapCause.ds = 3) → t.me.branch = none)
    ∧ { t.me with keeper := s.me.keeper, ie := s.me.ie, pc := s.me.pc, branch := s.me.branch, delayDue := s.me.delayDue } = s.me
    ∧ OnlyCore s.actor s t ∧ SameBytes s t ∧ SameFiles s t

/-! ### The S column (R321 to R325) -/

/-- ADD, SUB, ADDI, MUL, MULH, MULHSU, LI, LIH and ADDX complete with the value that integer arithmetic gives, one cycle after entry and
three for the products (R292, R321, R323, R324).

Completes (exec answers a next state): add, sub, addi, mul, mulh, mulhsu, li, lih, addx. -/
def Obligations.ArithmeticResults : Prop :=
  ∀ (s : State) (d a b : Reg) (imm : BitVec 32) (li : BitVec 42) (lih : BitVec 22) (n : BitVec 3),
    Runs (.add d a b) s (s.laterG 1 d (BitVec.ofNat 64 ((s.g a).toNat + (s.g b).toNat)))
    ∧ Runs (.sub d a b) s (s.laterG 1 d (BitVec.ofInt 64 ((s.g a).toInt - (s.g b).toInt)))
    ∧ Runs (.addi d a imm) s (s.laterG 1 d (BitVec.ofInt 64 ((s.g a).toInt + imm.toInt)))
    ∧ Runs (.mul d a b) s (s.laterG 3 d (BitVec.ofNat 64 ((s.g a).toNat * (s.g b).toNat)))
    ∧ Runs (.mulh d a b) s (s.laterG 3 d (BitVec.ofInt 64 ((s.g a).toInt * (s.g b).toInt / 2 ^ 64)))
    ∧ Runs (.mulhsu d a b) s (s.laterG 3 d (BitVec.ofInt 64 ((s.g a).toInt * ((s.g b).toNat : Int) / 2 ^ 64)))
    ∧ Runs (.li d li) s (s.laterG 1 d (BitVec.ofInt 64 li.toInt))
    ∧ Runs (.lih d lih) s (s.laterG 1 d (BitVec.ofNat 64 (lih.toNat * 2 ^ 42 + (s.g d).toNat % 2 ^ 42)))
    ∧ Runs (.addx d a b n) s (s.laterG 1 d (BitVec.ofNat 64 ((s.g a).toNat + (s.g b).toNat * 2 ^ n.toNat)))

/-- DIV, DIVU, REM and REMU complete at E + 18: quotients toward zero, remainders with the sign of the dividend; with divisor 0 the
values of R322 and DZ, which is written with the result, and with no other divisor any flag (R322).

Completes (exec answers a next state): div, divu, rem, remu. -/
def Obligations.DivisionResults : Prop :=
  ∀ (s : State) (d a b : Reg),
    (s.g b = 0 →
      Runs (.div d a b) s ((s.laterG 18 d (BitVec.ofInt 64 (-1))).later 18 (.flags 0x08))
      ∧ Runs (.divu d a b) s ((s.laterG 18 d (BitVec.ofNat 64 (2 ^ 64 - 1))).later 18 (.flags 0x08))
      ∧ Runs (.rem d a b) s ((s.laterG 18 d (s.g a)).later 18 (.flags 0x08))
      ∧ Runs (.remu d a b) s ((s.laterG 18 d (s.g a)).later 18 (.flags 0x08)))
    ∧ (s.g b ≠ 0 →
      Runs (.div d a b) s (s.laterG 18 d (BitVec.ofInt 64 ((s.g a).toInt.tdiv (s.g b).toInt)))
      ∧ Runs (.divu d a b) s (s.laterG 18 d (BitVec.ofNat 64 ((s.g a).toNat / (s.g b).toNat)))
      ∧ Runs (.rem d a b) s (s.laterG 18 d (BitVec.ofInt 64 ((s.g a).toInt.tmod (s.g b).toInt)))
      ∧ Runs (.remu d a b) s (s.laterG 18 d (BitVec.ofNat 64 ((s.g a).toNat % (s.g b).toNat))))

/-- The logic words and shifts complete with the result bit by bit or by powers of two; bits 63:6 of a shift amount are ignored (R321,
R323).

CLZ, CTZ, POPC, EXTB and INSB complete one cycle after entry, with the bits that R321 and R323 name.

Completes (exec answers a next state): and, or, xor, andn, andi, ori, xori, shl, shr, sha, shli, shri, shai, rot, clz, ctz, popc,
extb, insb. -/
def Obligations.LogicShiftAndFieldResults : Prop :=
  (∀ (s : State) (d a b : Reg) (imm : BitVec 32) (n : BitVec 6),
      (∀ op ∈ [(Instr.and d a b, Bool.and), (.or d a b, Bool.or), (.xor d a b, Bool.xor), (.andn d a b, fun x y => x && !y)],
        RunsTo op.1 s fun t => ∃ v : Word, t = s.laterG 1 d v ∧ ∀ i < 64, v.getLsbD i = op.2 ((s.g a).getLsbD i) ((s.g b).getLsbD i))
      ∧ (∀ op ∈ [(Instr.andi d a imm, Bool.and), (.ori d a imm, Bool.or), (.xori d a imm, Bool.xor)],
        RunsTo op.1 s fun t => ∃ v : Word, t = s.laterG 1 d v ∧ ∀ i < 64, v.getLsbD i = op.2 ((s.g a).getLsbD i) (imm.getLsbD (min i 31)))
      ∧ (let m := (s.g b).toNat % 64
        Runs (.shl d a b) s (s.laterG 1 d (BitVec.ofNat 64 ((s.g a).toNat * 2 ^ m)))
        ∧ Runs (.shr d a b) s (s.laterG 1 d (BitVec.ofNat 64 ((s.g a).toNat / 2 ^ m)))
        ∧ Runs (.sha d a b) s (s.laterG 1 d (BitVec.ofInt 64 ((s.g a).toInt / 2 ^ m)))
        ∧ RunsTo (.rot d a b) s fun t => ∃ v : Word, t = s.laterG 1 d v ∧ ∀ i < 64, v.getLsbD i = (s.g a).getLsbD ((i + m) % 64))
      ∧ Runs (.shli d a n) s (s.laterG 1 d (BitVec.ofNat 64 ((s.g a).toNat * 2 ^ n.toNat)))
      ∧ Runs (.shri d a n) s (s.laterG 1 d (BitVec.ofNat 64 ((s.g a).toNat / 2 ^ n.toNat)))
      ∧ Runs (.shai d a n) s (s.laterG 1 d (BitVec.ofInt 64 ((s.g a).toInt / 2 ^ n.toNat))))
  ∧ (∀ (s : State) (d a : Reg) (sgn : Bool) (pos lenM1 : BitVec 6),
      (RunsTo (.clz d a) s fun t => ∃ v : Word, t = s.laterG 1 d v ∧ v.toNat ≤ 64 ∧ (∀ i < v.toNat, (s.g a).getLsbD (63 - i) = false)
        ∧ (v.toNat < 64 → (s.g a).getLsbD (63 - v.toNat) = true))
      ∧ (RunsTo (.ctz d a) s fun t => ∃ v : Word, t = s.laterG 1 d v ∧ v.toNat ≤ 64 ∧ (∀ i < v.toNat, (s.g a).getLsbD i = false)
        ∧ (v.toNat < 64 → (s.g a).getLsbD v.toNat = true))
      ∧ (RunsTo (.popc d a) s fun t => ∃ v : Word, t = s.laterG 1 d v ∧ v.toNat = ((List.range 64).map fun i => ((s.g a).getLsbD i).toNat).sum)
      ∧ (RunsTo (.extb sgn d a pos lenM1) s fun t => ∃ v : Word, t = s.laterG 1 d v ∧ ∀ i < 64,
          v.getLsbD i = if i ≤ lenM1.toNat then (s.g a).getLsbD (pos.toNat + i) else sgn && (s.g a).getLsbD (pos.toNat + lenM1.toNat))
      ∧ (RunsTo (.insb d a pos lenM1) s fun t => ∃ v : Word, t = s.laterG 1 d v ∧ ∀ i < 64,
          v.getLsbD i = if pos.toNat ≤ i ∧ i ≤ pos.toNat + lenM1.toNat then (s.g a).getLsbD (i - pos.toNat) else (s.g d).getLsbD i))

/-- Minimum, maximum, comparisons and selection complete one cycle after entry (R321).

KMOV in both directions and the KOPs complete one cycle after entry, on all 64 bits of the predicate register (R325).

Completes (exec answers a next state): min, max, minu, maxu, slt, sltu, seq, sel, kmovToK, kmovToG, kop. -/
def Obligations.CompareSelectAndPredicateResults : Prop :=
  (∀ (s : State) (d a b c : Reg),
      Runs (.min d a b) s (s.laterG 1 d (BitVec.ofInt 64 (min (s.g a).toInt (s.g b).toInt)))
      ∧ Runs (.max d a b) s (s.laterG 1 d (BitVec.ofInt 64 (max (s.g a).toInt (s.g b).toInt)))
      ∧ Runs (.minu d a b) s (s.laterG 1 d (BitVec.ofNat 64 (min (s.g a).toNat (s.g b).toNat)))
      ∧ Runs (.maxu d a b) s (s.laterG 1 d (BitVec.ofNat 64 (max (s.g a).toNat (s.g b).toNat)))
      ∧ Runs (.slt d a b) s (s.laterG 1 d (if (s.g a).toInt < (s.g b).toInt then 1 else 0))
      ∧ Runs (.sltu d a b) s (s.laterG 1 d (if (s.g a).toNat < (s.g b).toNat then 1 else 0))
      ∧ Runs (.seq d a b) s (s.laterG 1 d (if s.g a = s.g b then 1 else 0))
      ∧ Runs (.sel d a b c) s (s.laterG 1 d (if s.g c = 0 then s.g b else s.g a)))
  ∧ (∀ (s : State) (d a b : KReg) (g : Reg),
      Runs (.kmovToK d g) s (s.later 1 (.k d (BitVec.allOnes 64) (s.g g)))
      ∧ Runs (.kmovToG g a) s (s.laterG 1 g (s.k a))
      ∧ ∀ op ∈ [(KopOp.and, Bool.and), (.or, Bool.or), (.xor, Bool.xor), (.andn, fun x y => x && !y), (.not, fun x _ => !x)],
        RunsTo (.kop op.1 d a b) s fun t =>
          ∃ v : Word, t = s.later 1 (.k d (BitVec.allOnes 64) v) ∧ ∀ i < 64, v.getLsbD i = op.2 ((s.k a).getLsbD i) ((s.k b).getLsbD i))

/-- Frame of the whole S column: a word of it adds to the acting core's results under way and changes nothing else, no register of any
core, no flag, no special register, no accumulator, no byte of any memory, and not the place where the core issues next.

Frame of the V column: a word of it other than VPDA and VTMASK adds to the worker's results under way and changes nothing else. -/
def Obligations.ScalarAndVectorFrame : Prop :=
  (∀ (i : Instr) (s : State), column i = some .s →
      RunsTo i s fun t => OnlyResults s t ∧ SameBytes s t ∧ SameFiles s t ∧ SameSpecial s t ∧ t.me.pc = s.me.pc)
  ∧ (∀ (i : Instr) (s : State), column i = some .v → (∀ a b c d, i ≠ .vpda a b c d) → (∀ a b c d e, i ≠ .vtmask a b c d e) →
      RunsTo i s fun t => OnlyResults s t ∧ SameBytes s t ∧ SameFiles s t ∧ SameSpecial s t ∧ t.me.pc = s.me.pc)

/-! ### The C column (R304 to R320) -/

/-- SYSRD completes with the value of its register at E, written at E + 1 (R319); of DRAINST with BUSY, bit 6, set for a drain that enters at E
too (R193). A route-table entry that no write has named and that boot firmware has not filled reads zero (log 5). For a tile core the value is, for the registers listed, the
contents of the fields R55, R107, R191, R192, R193, R238, R164, R205, R204, R194, R139, R162, R166, R210 and R176 give; on a feeder core the
registers that R383 lists read zero.

Completes (exec answers a next state): sysrd. -/
def Obligations.SystemRegisterReads : Prop :=
  ∀ (s : State) (d : Reg) (n : BitVec 12),
    (n ≠ 0x017 → Runs (.sysrd d n) s (s.laterG 1 d (s.sysValue s.actor n.toNat)))
    ∧ (n = 0x017 → Runs (.sysrd d n) s (s.later 1 (.drainst d (s.sysValue s.actor n.toNat))))
    ∧ (∀ (id : Nat) (wk : Bool),
        let r := CoreRef.tile id wk
        let c := s.core r
        let t := s.tile id
        s.sysValue r 0x000 = s.time + t.timeSkew ∧ s.sysValue r 0x003 = c.domain
        ∧ (s.sysValue r 0x004).toNat = t.asid.toNat * 2 ^ 16 + t.crew.toNat
        ∧ (s.tileOk id = true → (s.sysValue r 0x005).toNat =
            s.modNum.toNat * 2 ^ 51 + id / s.cols * 2 ^ 32 + id % s.cols * 2 ^ 24 + wk.toNat * 2 ^ 16 + id)
        ∧ (s.sysValue r 0x006).toNat = c.keeper.toNat + 2 * c.ie.toNat
        ∧ (s.sysValue r 0x007).toNat = 8 * c.trapPC.toNat
        ∧ (s.sysValue r 0x008).toNat = c.trapCause.cause.toNat + 2 ^ 8 * c.trapCause.pkeep.toNat + 2 ^ 9 * c.trapCause.pie.toNat
            + 2 ^ 12 * c.trapCause.ds.toNat + 2 ^ 15 * c.trapCause.ferry.toNat
        ∧ s.sysValue r 0x009 = c.faultAddr ∧ (s.sysValue r 0x00A).toNat = c.fflags.toNat ∧ (s.sysValue r 0x00B).toNat = c.cvmode.toNat
        ∧ s.sysValue r 0x00C = c.srkey ∧ s.sysValue r 0x012 = t.votelog ∧ (s.sysValue r 0x014).toNat = t.ejflags.toNat
        ∧ (s.sysValue r 0x016).toNat = t.dirtymask.toNat
        ∧ (∀ j : Fin 64, s.sysValue r (0x080 + j) = t.dirtylog[j])
        ∧ (∀ j : Fin 16, s.sysValue r (0x0C0 + 2 * j) = t.windesc[j].extractLsb' 0 64 ∧ s.sysValue r (0x0C1 + 2 * j) = t.windesc[j].extractLsb' 64 64
            ∧ s.sysValue r (0x0F0 + j) = t.ejdesc[j])
        ∧ (∀ j : Fin 8, s.sysValue r (0x0E0 + j) = t.tapcfg[j] ∧ s.sysValue r (0x0E8 + j) = t.arrmap[j] ∧ s.sysValue r (0x100 + j) = t.rfmt[j])
        ∧ (∀ j : Fin 4, s.sysValue r (0x108 + j) = t.dcfg[j])
        ∧ (∀ (j : Fin 256) (e : BitVec 128), t.rtab[j] = some e → s.sysValue r (0x200 + 2 * j) = e.extractLsb' 0 64 ∧ s.sysValue r (0x201 + 2 * j) = e.extractLsb' 64 64)
        ∧ ∀ j : Fin 256, t.rtab[j] = none → s.pwr.routes = 0 → s.sysValue r (0x200 + 2 * j) = 0 ∧ s.sysValue r (0x201 + 2 * j) = 0)
    ∧ (∀ (r : CoreRef) (v : Word), d ≠ 0 → ((s.applyWr r (.drainst d v)).core r).readG d = match r with
        | .tile id _ => if (s.tile id).drains.any (·.age ≤ 1) then v ||| 0x40 else v
        | .feeder _ _ => v)
    ∧ ∀ (f c m : Nat), (m ∈ [0x005, 0x00D, 0x00E, 0x012, 0x013, 0x014, 0x015, 0x017] ∨ 0x0E0 ≤ m ∧ m < 0x10C) → s.sysValue (.feeder f c) m = 0

/-- SYSWR of a register without a rule of its own, FFLAGS, CVMODE, VOTELOG and EJFLAGS complete, and take effect at E + 1 (R319); an RND of 5
to 7 is refused with ILLEGAL (R192). The effect of each write is that of R191, R192, R193, R238, R182, R164, R205, R204 and R210: reserved fields
ignore it, EJFLAGS loses the flags written with 1, VOTELOG is cleared, and the registers R190 marks ignored keep their values.

Completes (exec answers a next state): syswr, cvmodeWrite, fflagsWrite, votelogClear, ejflagsClear. -/
def Obligations.SystemRegisterWrites : Prop :=
  ∀ (s : State) (n : BitVec 12) (a : Reg) (id : Nat) (wk : Bool) (v : Word),
    Runs (.syswr n a) s (s.later 1 (.sys n (s.g a))) ∧ Runs (.fflagsWrite a) s (s.later 1 (.sys 0x00A (s.g a)))
    ∧ ((s.g a).toNat % 8 < 5 → Runs (.cvmodeWrite a) s (s.later 1 (.sys 0x00B (s.g a))))
    ∧ (5 ≤ (s.g a).toNat % 8 → Runs (.cvmodeWrite a) s (s.raise 0x01 (BitVec.ofNat 64 s.wordAt)))
    ∧ Runs (.votelogClear a) s (s.later 1 (.sys 0x012 (s.g a))) ∧ Runs (.ejflagsClear a) s (s.later 1 (.sys 0x014 (s.g a)))
    ∧ (let r := CoreRef.tile id wk
      let after (m : BitVec 12) : State := s.applyWr r (.sys m v)
      let c := s.core r
      let t := s.tile id
      (after 0x006).core r = { c with keeper := v.getLsbD 0, ie := v.getLsbD 1 }
      ∧ (after 0x007).core r = { c with trapPC := BitVec.ofNat 16 (v.toNat / 8), shadow := none }
      ∧ (after 0x008).core r = { c with
          trapCause := { ferry := v.getLsbD 15, ds := BitVec.ofNat 2 (v.toNat / 2 ^ 12), pie := v.getLsbD 9, pkeep := v.getLsbD 8
                         cause := BitVec.ofNat 8 v.toNat }
          shadow := if v.toNat / 2 ^ 12 % 4 = 0 then none else c.shadow }
      ∧ (after 0x009).core r = { c with faultAddr := v } ∧ (after 0x00A).core r = { c with fflags := BitVec.ofNat 7 v.toNat }
      ∧ (after 0x00B).core r = { c with cvmode := BitVec.ofNat 5 v.toNat } ∧ (after 0x00C).core r = { c with srkey := v }
      ∧ (after 0x012).tile id = { t with votelog := 0 }
      ∧ (after 0x014).tile id = { t with ejflags := t.ejflags &&& ~~~(BitVec.ofNat 32 v.toNat) }
      ∧ (after 0x016).tile id = { t with dirtymask := BitVec.ofNat 16 v.toNat }
      ∧ (∀ j : Fin 64, (after (BitVec.ofNat 12 (0x080 + j))).tile id = { t with dirtylog := t.dirtylog.set j (BitVec.ofNat 64 (v.toNat / 2 ^ 20 * 2 ^ 20)) })
      ∧ (∀ j : Fin 4, ∃ x : Word, (after (BitVec.ofNat 12 (0x108 + j))).tile id = { t with dcfg := t.dcfg.set j x }
          ∧ ∀ b < 64, x.getLsbD b = (v.getLsbD b && (5 ≤ b && !(48 ≤ b && b < 53))))
      ∧ ∀ m ∈ ([0x000, 0x001, 0x002, 0x003, 0x004, 0x005, 0x00D, 0x00E, 0x00F, 0x010, 0x011, 0x013, 0x015, 0x017] : List (BitVec 12)),
          (after m).core r = c ∧ (after m).tile id = t)

/-- Writes of WINDESC, EJDESC, RFMT, RTAB, TAPCFG and ARRMAP, TEJ and TRTAB complete: the word has executed, its value is noted for its unit and
the register takes it at its own cycle, two cycles after entry for WINDESC, EJDESC, RFMT and RTAB and one for TAPCFG and ARRMAP, and nothing else
changes (R139, R162, R176, R182, R195, R399, R402). A refused WINDESC, EJDESC or RTAB is ILLEGAL and changes nothing; a refused TAPCFG or ARRMAP
writes a machine-check record and changes nothing; on a feeder core TAPCFG, ARRMAP, RFMT and EJDESC ignore the write (R383). As its cycle begins the
register has the value; before it nothing but the count of cycles changes; a TAPCFG or ARRMAP of a map that receives a block waits on. A window
takes both halves together, HOLDER keeps its value and bits 14:0 read zero (R194).

It rests on the model's choices of log 43.

Completes (exec answers a next state): windescWrite, tapcfgWrite, arrmapWrite, rfmtWrite, ejdescWrite, rtabWrite, tej, trtab. -/
def Obligations.DelayedRegisterWrites : Prop :=
  (∀ (s : State) (a b : Reg) (h : BitVec 5) (i : BitVec 3) (j : BitVec 4) (e : BitVec 8) (n : BitVec 9),
    let ill := s.raise 0x01 (BitVec.ofNat 64 s.wordAt)
    let v := s.g a
    let win := writeHalf (s.nextWindow s.actor (h.toNat / 2)) (h.toNat % 2 == 1) v
    let low := h.toNat % 2 = 0 ∧ v.toNat % 2 ^ 15 ≠ 0
    let bad := v.toNat / 2 ^ 18 % 2 ^ 13 = 0 ∨ v.toNat % 32 ≠ 0
    let map : Word := BitVec.ofNat 64 (v.toNat / 2 ^ 42 * 2 ^ 42 + v.toNat / 2 ^ 30 % 16 * 2 ^ 38 + v.toNat % 2 ^ 38)
    let rfmt : Word := BitVec.ofNat 64 (v.toNat % 2 ^ 9 + v.toNat / 2 ^ 10 % 2 ^ 6 * 2 ^ 10)
    let ejd : Word := BitVec.ofNat 64 (v.toNat / 2 ^ 18 * 2 ^ 18 + v.toNat % 32)
    let old := s.nextRoute (n.toNat / 2)
    let whole : BitVec 128 := (s.g b) ++ v
    let part : BitVec 128 := if n.toNat % 2 = 1 then v ++ old.extractLsb' 0 64 else old.extractLsb' 64 64 ++ v
    (s.windowRefused s.actor (h.toNat / 2) win = false → ¬ low →
        Runs (.windescWrite h a) s (s.lateWrite (0x0C0 + h.toNat) v 2 (!s.me.timed)))
    ∧ (s.windowRefused s.actor (h.toNat / 2) win = true ∨ low → Runs (.windescWrite h a) s ill)
    ∧ (s.actor.isFeeder = false →
        (tapRefused v = false → Runs (.tapcfgWrite i a) s (s.lateWrite (0x0E0 + i.toNat) v 1 false))
        ∧ (mapRefused v = false → Runs (.arrmapWrite i a) s (s.lateWrite (0x0E8 + i.toNat) map 1 false))
        ∧ (tapRefused v = true → RunsTo (.tapcfgWrite i a) s fun t => t.tiles = s.tiles ∧ t.feeders = s.feeders ∧ t.mem = s.mem)
        ∧ (mapRefused v = true → RunsTo (.arrmapWrite i a) s fun t => t.tiles = s.tiles ∧ t.feeders = s.feeders ∧ t.mem = s.mem)
        ∧ Runs (.rfmtWrite i a) s (s.lateWrite (0x100 + i.toNat) rfmt 2 false)
        ∧ (¬ bad → Runs (.ejdescWrite j a) s (s.lateWrite (0x0F0 + j.toNat) ejd 2 false))
        ∧ (bad → Runs (.ejdescWrite j a) s ill))
    ∧ (s.actor.isFeeder = true → Runs (.tapcfgWrite i a) s s ∧ Runs (.arrmapWrite i a) s s ∧ Runs (.rfmtWrite i a) s s ∧ Runs (.ejdescWrite j a) s s)
    ∧ (¬ bad → Runs (.tej j a) s (s.lateWrite (0x0F0 + j.toNat) ejd 2 false)) ∧ (bad → Runs (.tej j a) s ill)
    ∧ (s.rtabRefused (s.rtab s.actor).2 whole = false → Runs (.trtab e a b) s
        ((s.lateWrite (0x200 + 2 * e.toNat) v 2 false).lateWrite (0x201 + 2 * e.toNat) (s.g b) 2 false))
    ∧ (s.rtabRefused (s.rtab s.actor).2 whole = true → Runs (.trtab e a b) s ill)
    ∧ (s.rtabRefused (s.rtab s.actor).2 part = false → Runs (.rtabWrite n a) s
        ((s.lateWrite (0x200 + 2 * (n.toNat / 2)) (part.extractLsb' 0 64) 2 false).lateWrite (0x201 + 2 * (n.toNat / 2)) (part.extractLsb' 64 64) 2 false))
    ∧ (s.rtabRefused (s.rtab s.actor).2 part = true → Runs (.rtabWrite n a) s ill))
  ∧ (∀ (s : State) (num : Nat) (v : Word) (due : Nat) (free : Bool),
    let l : LateReg := { due := due, num := BitVec.ofNat 12 num, val := v, free := free }
    Kept s (s.lateWrite num v due free)
    ∧ (∀ id wk, s.actor = .tile id wk → s.lateWrite num v due free = s.modTile id fun t => { t with late := t.late ++ [l] })
    ∧ ∀ f c, s.actor = .feeder f c → s.lateWrite num v due free = s.modFeeder f fun x => { x with late := x.late ++ [(c, l)] })
  ∧ (∀ (t : Tile) (x : LateReg) (live : Bool), t.late = [x] → (x.free = true ∨ live = true) →
    let u := t.tickLate live
    (2 ≤ x.due → u = { t with late := [{ x with due := x.due - 1 }] })
    ∧ (x.due = 1 → (0x0E0 ≤ x.num.toNat → x.num.toNat < 0x0F0 → t.receives x.num.toNat = false) → u.late = []
      ∧ (∀ h : Fin 32, x.num.toNat = 0x0C0 + h → u = { t with late := [], windesc := t.windesc.set (h.val / 2) (writeHalf t.windesc[h.val / 2] (h.val % 2 == 1) x.val) })
      ∧ (∀ i : Fin 8, (x.num.toNat = 0x0E0 + i → u = { t with late := [], tapcfg := t.tapcfg.set i x.val })
          ∧ (x.num.toNat = 0x0E8 + i → u = { t with late := [], arrmap := t.arrmap.set i x.val })
          ∧ (x.num.toNat = 0x100 + i → u = { t with late := [], rfmt := t.rfmt.set i x.val }))
      ∧ (∀ j : Fin 16, x.num.toNat = 0x0F0 + j → u.ejdesc = t.ejdesc.set j x.val)
      ∧ ∀ k : Fin 512, x.num.toNat = 0x200 + k →
          u = { t with late := [], rtab := t.rtab.set (k.val / 2) (some (withHalf (t.rtab[k.val / 2].getD 0) (k.val % 2 == 1) x.val)) }))
  ∧ ∀ (w : WinDesc) (v : Word), (writeHalf w false v).holder = w.holder ∧ (writeHalf w true v).holder = w.holder
      ∧ ∀ n < 128, ((writeHalf w false v).getLsbD n = if n < 15 then false else if n < 59 then v.getLsbD n else w.getLsbD n)
        ∧ (writeHalf w true v).getLsbD n = if n < 64 then w.getLsbD n else v.getLsbD (n - 64)

/-- LOOP (R309): a count of 2 or more goes down by one at E + 1 and branches; a smaller one becomes 0 and falls through; and A = 0 is ILLEGAL;
and its word has OP 0x07, A and TGT.

Completes (exec answers a next state): loop. -/
def Obligations.LoopCountsDown : Prop :=
  ∀ (s : State) (a : Reg) (tgt : BitVec 16),
    (2 ≤ (s.g a).toNat → Runs (.loop a tgt) s ((s.laterG 1 a (BitVec.ofNat 64 ((s.g a).toNat - 1))).modMe fun c =>
        { c with branch := some { target := tgt, due := 2 }, delayDue := 2 }))
    ∧ ((s.g a).toNat < 2 → Runs (.loop a tgt) s ((s.laterG 1 a 0).modMe fun c => { c with delayDue := 2 }))
    ∧ (s.checked = false → exec (.loop 0 tgt) s = .next (s.raise 0x01 (BitVec.ofNat 64 s.wordAt)))
    ∧ (a ≠ 0 → decodeWord (BitVec.ofNat 64 (0x07 * 2 ^ 52 + a.toNat * 2 ^ 47 + tgt.toNat)) = .ok { link := false, defer := 0, instr := .loop a tgt })

/-- BRA, BCC, BPR and LOOPS complete as transfer words: with two delay bundles either way, and the target pending after them when the condition
of R307 or R310 holds.

A taken branch has two delay bundles (R305, R308): past the first the core is in sequence, past the second at the target; every transfer
word, taken or not, has its two; and a transfer word or an ERET in either of them is ILLEGAL.

Completes (exec answers a next state): bra, bcc, bpr, loops. -/
def Obligations.BranchesAndTheirDelays : Prop :=
  (∀ (s : State) (a b : Reg) (k : KReg) (p : PReg) (dim : BitVec 4) (tgt : BitVec 16),
      let go (taken : Prop) (t : State) : Prop :=
        (taken → t = s.modMe fun c => { c with branch := some { target := tgt, due := 2 }, delayDue := 2 })
        ∧ (¬ taken → t = s.modMe fun c => { c with delayDue := 2 })
      RunsTo (.bra tgt) s (go True)
      ∧ RunsTo (.bcc .eq a b tgt) s (go (s.g a = s.g b)) ∧ RunsTo (.bcc .ne a b tgt) s (go (s.g a ≠ s.g b))
      ∧ RunsTo (.bcc .lt a b tgt) s (go ((s.g a).toInt < (s.g b).toInt)) ∧ RunsTo (.bcc .ge a b tgt) s (go ((s.g b).toInt ≤ (s.g a).toInt))
      ∧ RunsTo (.bcc .ltu a b tgt) s (go ((s.g a).toNat < (s.g b).toNat)) ∧ RunsTo (.bcc .geu a b tgt) s (go ((s.g b).toNat ≤ (s.g a).toNat))
      ∧ RunsTo (.bpr .any k tgt) s (go (∃ i < 64, (s.k k).getLsbD i = true)) ∧ RunsTo (.bpr .none k tgt) s (go (∀ i < 64, (s.k k).getLsbD i = false))
      ∧ RunsTo (.bpr .all k tgt) s (go (∀ i < 64, (s.k k).getLsbD i = true)) ∧ RunsTo (.bpr .nall k tgt) s (go (∃ i < 64, (s.k k).getLsbD i = false))
      ∧ RunsTo (.bpr .any 0 tgt) s (go True)
      ∧ RunsTo (.loops p dim tgt) s (go ((s.me.port p).flags.getLsbD dim.toNat = false))
      ∧ (∀ (d : Reg) (cond : BccCond) (test : BprCond), (s.g a).toNat % 8 = 0 → (s.g a).toNat < 2 ^ 19 →
          ∀ i ∈ [Instr.bra tgt, .bcc cond a b tgt, .bpr test k tgt, .jmp a, .jmpLink d a, .call a tgt, .ret a, .loop a tgt, .loops p dim tgt],
            RunsTo i s fun t => t.me.delayDue = 2))
  ∧ ((∀ (c : Core) (tgt : BitVec 16) (n m : Nat),
      ((c.branchTo tgt).pass n).pc = c.pc + BitVec.ofNat 17 n ∧ (((c.branchTo tgt).pass n).pass m).pc = tgt.zeroExtend 17
      ∧ (((c.branchTo tgt).pass n).pass m).branch = none ∧ ((c.branchTo tgt).pass n).delayDue = 1
      ∧ (((c.branchTo tgt).pass n).pass m).delayDue = 0
      ∧ (c.branch = none → ((c.noBranch.pass n).pass m).pc = c.pc + BitVec.ofNat 17 n + BitVec.ofNat 17 m ∧ (c.noBranch.pass n).delayDue = 1))
    ∧ ∀ (i : Instr) (s : State), isTransfer i = true → s.checked = false → s.me.delayDue ≠ 0 →
        exec i s = .next (s.raise 0x01 (BitVec.ofNat 64 s.wordAt)))

/-- JMP, RET, JMP.link and CALL (R308): to a byte address that is a multiple of 8 below 512 KiB, with the link, where there is one, the byte
address of the bundle that follows the second delay bundle in sequence; a faulting target is ALIGN or WINDOW with the target as address, has no
effect and writes no link. The core's pc is already past the word's bundle.

Completes (exec answers a next state): jmp, jmpLink, call, ret. -/
def Obligations.JumpsAndLinks : Prop :=
  ∀ (s : State) (d a : Reg) (tgt : BitVec 16) (n m : Nat),
    let v := s.g a
    let link := BitVec.ofNat 64 (8 * (s.me.pc.toNat + n + m))
    let br (tgt : BitVec 16) (c : Core) : Core := { c with branch := some { target := tgt, due := 2 }, delayDue := 2 }
    let ok := v.toNat % 8 = 0 ∧ v.toNat < 2 ^ 19
    let linked := s.CodeSettled s.actor ∧ s.BundleLen s.actor s.me.pc.toNat n ∧ s.BundleLen s.actor (s.me.pc.toNat + n) m
    (ok → Runs (.jmp a) s (s.modMe (br (BitVec.ofNat 16 (v.toNat / 8)))) ∧ Runs (.ret a) s (s.modMe (br (BitVec.ofNat 16 (v.toNat / 8))))
      ∧ (linked → Runs (.jmpLink d a) s ((s.laterG 1 d link).modMe (br (BitVec.ofNat 16 (v.toNat / 8))))))
    ∧ (linked → Runs (.call a tgt) s ((s.laterG 1 a link).modMe (br tgt)))
    ∧ ∀ i ∈ [Instr.jmp a, .ret a, .jmpLink d a],
        (v.toNat % 8 ≠ 0 → Runs i s (s.raise 0x06 v)) ∧ (v.toNat % 8 = 0 → 2 ^ 19 ≤ v.toNat → Runs i s (s.raise 0x04 v))

/-- TRAP and BREAK (R312, R237): in a free core in user mode with a keeper entry they trap at the bundle that follows theirs, with the
zero-extended immediate in FAULTADDR and cause 0x0F or 0x10; in a timed core, in keeper mode or without an entry they stop the core with the same
cause and address in the record.

Completes (exec answers a next state): trap, breakTrap. -/
def Obligations.TrapAndBreakTrap : Prop :=
  ∀ (s : State) (imm : BitVec 32) (e : BitVec 16), ∀ x ∈ [(Instr.trap imm, (0x0F : BitVec 8)), (.breakTrap imm, 0x10)],
    (s.me.timed = false → s.me.keeper = false → s.me.keeperEntry = some e → RunsTo x.1 s fun t =>
      t.me.trapPC = s.me.pc.truncate 16 ∧ t.me.trapCause.cause = x.2 ∧ t.me.trapCause.pie = s.me.ie ∧ t.me.trapCause.pkeep = false
      ∧ t.me.faultAddr.toNat = imm.toNat ∧ t.me.keeper = true ∧ t.me.ie = false ∧ t.me.pc = e.zeroExtend 17 ∧ t.me.shadow = s.me.branch
      ∧ t.me.writes = s.me.writes ∧ SameFiles s t ∧ SameBytes s t ∧ ∀ q, ¬ SameCore q s.actor → t.core q = s.core q)
    ∧ ((s.me.timed = true ∨ s.me.keeper = true ∨ s.me.keeperEntry = none) → RunsTo x.1 s fun t =>
      t.me.run = .stopped ∧ t.me.writes = s.me.writes ∧ SameFiles s t ∧ SameBytes s t
      ∧ ((s.lh.log.filter (·.unread)).length < 1024 → ∃ m ∈ t.lh.log, m.cause = x.2 ∧ m.addr.toNat = imm.toNat ∧ m.unread = true))

/-- HALT, NOP, WAITI, WAITV and MARKP (R311, R283, R320, R313, R304): HALT stops issue, of a free core once its remote requests are answered,
and ends the crew when every core of it has halted; NOP does nothing; WAITI sleeps; WAITV is LATE when its target has passed (R57) and else no
bundle issues until the count after it; MARKP of a free core has no effect.

PHASE and SIZE (R314, R315, R116): PHASE at level 0 does nothing; at level 1 a free core sleeps unless its partner has executed a PHASE since
this core's last one; at level 2 or 3 a free core goes on; a timed core's first report of a phase is the reference its checker keeps, with the check
HORIZON counts later; SIZE contributes min(g, 0xFFFF) at its count, and the first contribution of a count sets the decision Dmax + 8 counts later.

It rests on the model's choices of log 25 and 35.

Completes (exec answers a next state): waitv, phase, size, nop, halt, markp, waiti. -/
def Obligations.StopsWaitsAndPhases : Prop :=
  (∀ (s : State) (a : Reg) (imm : BitVec 16) (n : Nat),
      Runs .nop s s
      ∧ ((s.me.timed = true ∨ (s.me.reqs = [] ∧ ∀ o ∈ s.me.ops, asksAway o.instr = false)) → s.slotOf s.actor = some n →
          (∃ q ∈ (s.slot n).cores, ¬ SameCore q s.actor ∧ (s.core q).run = .running) →
          Runs .halt s (s.modMe fun c => { c with run := .halted, waits := [] }))
      ∧ ((s.me.timed = true ∨ (s.me.reqs = [] ∧ ∀ o ∈ s.me.ops, asksAway o.instr = false)) → s.slotOf s.actor = some n → (s.slot n).rec_.state = .running →
          (∀ q ∈ (s.slot n).cores, SameCore q s.actor ∨ (s.core q).run = .halted ∨ (s.core q).run = .idle) →
          RunsTo .halt s fun t => lookup? t.lh.slots n = none)
      ∧ (s.me.timed = false → (s.me.reqs ≠ [] ∨ ∃ o ∈ s.me.ops, asksAway o.instr = true) → Runs .halt s (s.modMe fun c => { c with waits := c.waits ++ [(.halt, true)] }))
      ∧ Runs .waiti s (s.modMe fun c => { c with waits := c.waits ++ [(.waiti, true)] })
      ∧ (let u := BitVec.ofInt 48 ((s.g a).toInt + imm.toInt)
        let d := ((s.vcycOf s.actor).toInt - u.toInt) % 2 ^ 48
        (0 < d ∧ d < 2 ^ 47 → Runs (.waitv a imm) s (s.raise 0x0D (BitVec.ofNat 64 u.toNat)))
        ∧ (¬ (0 < d ∧ d < 2 ^ 47) → Runs (.waitv a imm) s (s.modMe fun c => { c with waits := c.waits ++ [(.waitv u, true)] })))
      ∧ (s.me.timed = false → Runs .markp s s)
      ∧ (s.me.timed = true → s.slotOf s.actor = some n →
          ((s.slot n).modIdx = 0 → Runs .markp s (s.markReport n (.here s.actor) (s.vcycOf s.actor)))
          ∧ ((s.slot n).modIdx ≠ 0 → Runs .markp s
              (s.tellAnchor (s.slot n) (.mark (s.slot n).rec_.crew (s.vcycOf s.actor) (s.slot n).modIdx s.actor.member))))
      ∧ (s.slotOf s.actor = some n → (s.slot n).modIdx = 0 → (s.slot n).run.draw = none → (s.slot n).run.stopped = false → (s.slot n).run.marks = [] →
          s.timedMembers (s.slot n) = [s.actor] → (s.slot n).farMembers = [] →
          ∃ v, (State.slot (s.markReport n (.here s.actor) (s.vcycOf s.actor)) n).run.draw = some { v := v, why := .mark }))
  ∧ (∀ (s : State) (a : Reg) (cls : BitVec 3) (id : Nat) (wk : Bool) (n : Nat),
      s.actor = .tile id wk → (s.core (.tile id (!wk))).waits = [] →
      let e := s.vcycOf s.actor
      let x := s.slot n
      Runs (.phase 0) s s
      ∧ (s.me.timed = false →
          (s.me.partnerPhase = true → RunsTo (.phase 1) s fun t => t.me = { s.me with partnerPhase := false }
            ∧ t.core (.tile id (!wk)) = { s.core (.tile id (!wk)) with partnerPhase := true } ∧ OnlyCores s t)
          ∧ (s.me.partnerPhase = false → RunsTo (.phase 1) s fun t => t.me = { s.me with waits := s.me.waits ++ [(.phase, true)] }
            ∧ t.core (.tile id (!wk)) = { s.core (.tile id (!wk)) with partnerPhase := true } ∧ OnlyCores s t)
          ∧ Runs (.phase 2) s s ∧ Runs (.phase 3) s s)
      ∧ (s.me.timed = true → s.slotOf s.actor = some n → x.run.phases = [] →
          (RunsTo (.phase 2) s fun t => (t.slot n).run.phases = [{ level := 2, tile := 0, count := e, seen := [.here s.actor] }]
            ∧ (⟨.count n (e + x.rec_.horizon.zeroExtend 48 + 1), .phaseCheckTimeout x.rec_.crew 2 e⟩ : Due) ∈ t.agenda ∧ t.tiles = s.tiles)
          ∧ (x.modIdx ≠ 0 → RunsTo (.phase 3) s fun t => t = s.tellAnchor x (.phase x.rec_.crew e x.modIdx s.actor.member) ∧ t.tiles = s.tiles))
      ∧ (s.slotOf s.actor = some n → x.modIdx = 0 → x.run.sizes = [] →
          (let row := s.rowWord (s.anchorTile x)
          row.getLsbD 0 = true ∧ row.extractLsb' 1 3 = cls ∧ x.variants.any (·.cls == cls) = true) →
          RunsTo (.size a cls) s fun t =>
            (t.slot n).run.sizes = [(e, s.me.domain.extractLsb' 5 3, BitVec.ofNat 16 (min (s.g a).toNat 0xFFFF))]
            ∧ (⟨.count n (e + BitVec.ofNat 48 (x.dmax + 8)), .selectionDecide x.rec_.crew cls e⟩ : Due) ∈ t.agenda ∧ t.tiles = s.tiles))

/-- Sluices (R206, R317, R318): SLPOST and SLSET note an update for the end of the cycle, SLGET reads the count at E, SLWAIT proceeds when the
count as seen, less what the worker's wait took of it in this cycle, is at least n, and takes n at the end of the cycle; else a timed core takes
SLUICE and a free one stands. At the end of a cycle every update is summed and then the worker's SLSET, or the stager's, stands.

It rests on the model's choices of log 38.

Completes (exec answers a next state): slpost, slwait, slset, slget. -/
def Obligations.SluiceWords : Prop :=
  ∀ (s : State) (id : Nat) (wk : Bool) (sl : BitVec 4) (n : BitVec 15) (a d : Reg) (imm : BitVec 16),
    s.actor = .tile id wk → (∀ w, (s.core (.tile id w)).waits = []) →
    let t := s.tile id
    let count : Int := (t.sluice[sl.toNat]'(by omega)).toInt
    let taken : Int := if wk then 0 else (((t.slTaken.filter (·.1 == sl)).map (·.2)).sum : Nat)
    Runs (.slpost sl n) s (s.modTile id fun t => { t with slUpd := t.slUpd ++ [⟨sl, (n.toNat : Int), some (if wk then 0 else 1)⟩] })
    ∧ Runs (.slget d sl) s (s.laterG 1 d (BitVec.ofInt 64 count))
    ∧ Runs (.slset sl a imm) s (s.modTile id fun t =>
        { t with slSet := t.slSet ++ [(sl, BitVec.ofInt 16 (max (-32768) (min 32767 ((s.g a).toInt + imm.toInt))), if wk then 0 else 1)] })
    ∧ (s.me.granted = false → (n.toNat : Int) ≤ count - taken → RunsTo (.slwait sl n) s fun u =>
        (u.tile id).slUpd = t.slUpd ++ [⟨sl, -(n.toNat : Int), none⟩] ∧ u.me = s.me ∧ SameFiles s u ∧ SameBytes s u ∧ SameSpecial s u)
    ∧ (s.me.granted = false → count - taken < (n.toNat : Int) → s.me.timed = true → Runs (.slwait sl n) s (s.raise 0x08 (BitVec.ofNat 64 sl.toNat)))
    ∧ (s.me.granted = false → count - taken < (n.toNat : Int) → s.me.timed = false → RunsTo (.slwait sl n) s fun u =>
        u.me.slwait = some (sl, n) ∧ u.me.stands = true ∧ u.me.g = s.me.g ∧ (u.tile id).slUpd = t.slUpd ∧ SameBytes s u)
    ∧ ∀ (live timed : Bool) (runs : Bool → Bool), t.late = [] →
        let v := ((t.ended live timed runs).sluice[sl.toNat]'(by omega))
        let sum := count + ((t.slUpd.filter (·.sl == sl)).map (·.amt)).sum
        ((∀ y ∈ t.slSet, y.1 ≠ sl) → -32768 ≤ sum → sum ≤ 32767 → v.toInt = sum)
        ∧ ((∀ y ∈ t.slSet, y.1 ≠ sl) → 32767 < sum → v.toInt = 32767)
        ∧ ∀ y, t.slSet.find? (·.1 == sl) = some y → (y.2.2 = 0 ∨ ∀ z ∈ t.slSet, z.1 = sl → z.2.2 = y.2.2) → v = y.2.1

/-! ### Tile store and ports (R194 to R205, R223 to R231, R326 to R338) -/

/-- The checks of an explicit local access, in the order of R197: WINDOW, ALIGN, BERTH, WHEEL, each with the address as FAULTADDR. The wheel (R198,
R199): a tile core owns a line's bank when its agent number is the wheel phase plus the bank, modulo 4; a timed core faults where it owns not
every bank, a free core stands 1 to 3 cycles, and so does the worker, cycle by cycle, at banks its drain writes (R212); feeder cores have no wheel
(R383). -/
def Obligations.LocalAccessChecksInOrder : Prop :=
  ∀ (s : State) (r : CoreRef) (want : Want) (a : Int) (n : Nat), 0 < n →
    let addrs := layout a.toNat n
    let c := s.core r
    ((a < 0 ∨ (∃ x ∈ addrs, 2 ^ 19 ≤ x) ∨ ∀ w : BitVec 4, ∃ x ∈ addrs, (s.window r w).has x = false) →
        s.check r want a addrs = .fault 0x04 (BitVec.ofInt 64 a))
    ∧ (∀ (w : BitVec 4) (d : WinDesc), 0 ≤ a → (∀ x ∈ addrs, x < 2 ^ 19) → s.windowAt r a.toNat = some (w, d) → (∀ x ∈ addrs, d.has x = true) →
        let refused := (c.keeper = false ∧ ((want.store = false ∨ want.atomic = true) ∧ d.ur = false ∨ want.store = true ∧ d.uw = false))
          ∨ (want.store = true ∧ want.atomic = false ∧ d.repl = true)
        let skew := want.align ≠ 0 ∧ a % (min want.align 64 : Nat) ≠ 0
        let away := want.store = true ∧ want.berth = true ∧ r.isFeeder = false ∧ d.holder ≠ (if r.isWorker then 2 else 1)
        (refused → s.check r want a addrs = .fault 0x04 (BitVec.ofInt 64 a))
        ∧ (¬ refused → skew → s.check r want a addrs = .fault 0x06 (BitVec.ofInt 64 a))
        ∧ (¬ refused → ¬ skew → away → s.check r want a addrs = .fault 0x05 (BitVec.ofInt 64 a))
        ∧ (¬ refused → ¬ skew → ¬ away → s.check r want a addrs = s.wheel r a addrs))
    ∧ (r.isFeeder = true → s.wheel r a addrs = .ok)
    ∧ ∀ id wk, r = .tile id wk →
        let own := ∀ x ∈ addrs, (s.wheelPhase id + x / 64 % 32) % 4 = if wk then 0 else 1
        let drains := wk = true ∧ ∃ x ∈ addrs, x / 64 % 32 ∈ (s.tile id).drainBanks
        (own → ¬ drains → s.wheel r a addrs = .ok)
        ∧ (¬ own ∨ drains → c.timed = true → s.wheel r a addrs = .fault 0x03 (BitVec.ofInt 64 a))
        ∧ (¬ own → c.timed = false → ∃ m, 1 ≤ m ∧ m ≤ 3 ∧ s.wheel r a addrs = .stand m)
        ∧ (own → drains → c.timed = false → s.wheel r a addrs = .drain)

/-- LD (R327): once its access is allowed and no granule of it is poisoned, the s bytes at g[BASE] + g[IDX] + sext(OFF), as loads that enter now see
them, go to g[T] at E + 4, sign-extended, or zero-extended with .u; the access uses its banks in this cycle and changes nothing else. A failing
check raises its fault, a poisoned granule ECC_CONSUMED with its address (R252). Visible bytes are those of memory while no store that a standing
core holds back is two cycles old.

ST (R327, R205, R223): once its access is allowed, the low s bytes of g[T] are on their way to g[BASE] + g[IDX] + sext(OFF), lowest byte first and
visible two cycles later, and bit w of DIRTYMASK is set for the window w that holds the address; no byte of memory and no register changes
yet. A failing check raises its fault and stores nothing.

It rests on the model's choices of log 38.

Completes (exec answers a next state): ld, st. -/
def Obligations.LoadsAndStores : Prop :=
  (∀ (s : State) (sz : BitVec 2) (uns : Bool) (t base idx : Reg) (off : BitVec 19),
      let n := 2 ^ sz.toNat
      let a : Int := (s.g base).toNat + (s.g idx).toNat + off.toInt
      let addrs := (List.range n).map (a.toNat + ·)
      let i := Instr.ld sz uns t (.addr base idx off)
      let m := leNat (addrs.map (s.seen s.actor))
      let v : Word := if uns then BitVec.ofNat 64 m else BitVec.ofInt 64 (BitVec.ofNat (8 * n) m).toInt
      let ask := s.check s.actor { align := n } a addrs
      (ask = .ok → s.poisonedAt s.actor addrs = none → Runs i s ((s.useBanks s.actor addrs).laterG 4 t v))
      ∧ (ask = .ok → ∀ g, s.poisonedAt s.actor addrs = some g → RunsTo i s fun u =>
          u = (s.useBanks s.actor addrs).raise 0x0C (BitVec.ofNat 64 (g / 8 * 8)))
      ∧ (∀ cause addr, ask = .fault cause addr → Runs i s (s.raise cause addr))
      ∧ (∀ k, ask = .stand k → RunsTo i s fun u => u.me.stand = max s.me.stand k ∧ u.me.g = s.me.g ∧ u.me.writes = s.me.writes ∧ SameBytes s u)
      ∧ (ask = .drain → RunsTo i s fun u => u.me.stand = max s.me.stand 1 ∧ u.me.byDrain = true ∧ u.me.g = s.me.g ∧ u.me.writes = s.me.writes ∧ SameBytes s u)
      ∧ ((∀ p ∈ s.pendingStores s.actor, p.farSeen s.actor = false) → ∀ x, s.seen s.actor x = readCell s.mem (localKey s.actor x)))
  ∧ (∀ (s : State) (sz : BitVec 2) (t base idx : Reg) (off : BitVec 19) (id : Nat) (wk : Bool), s.actor = .tile id wk →
      let n := 2 ^ sz.toNat
      let a : Int := (s.g base).toNat + (s.g idx).toNat + off.toInt
      let addrs := (List.range n).map (a.toNat + ·)
      let i := Instr.st sz t (.addr base idx off)
      let ask := s.check s.actor { store := true, align := n } a addrs
      (∀ w d, ask = .ok → s.windowAt s.actor a.toNat = some (w, d) → RunsTo i s fun u =>
        (∃ p : PStore, (u.tile id).stores = (s.tile id).stores ++ [p] ∧ p.due = 2 ∧ p.owner = some wk ∧ p.bad = []
          ∧ p.bytes = (List.range n).map fun j => (a.toNat + j, BitVec.ofNat 8 ((s.g t).toNat / 256 ^ j)))
        ∧ (∀ b < 16, (u.tile id).dirtymask.getLsbD b = ((s.tile id).dirtymask.getLsbD b || decide (b = w.toNat)))
        ∧ SameBytes s u ∧ SameFiles s u ∧ SameSpecial s u ∧ u.me.writes = s.me.writes)
      ∧ ∀ cause addr, ask = .fault cause addr → Runs i s (s.raise cause addr))

/-- LD and ST of a port form (R202, R203, R327): a read port with a fetched step gives its bytes at E + 4 and advances; a write port with room buffers the
step, keeps its lowest and highest byte, and advances; each advance shows its end-of-dimension flags from E + 1. A step not fetched, and a full
buffer, are WHEEL in a timed core and a stand of a free one, and a fault found at the fetch is raised here.

The walk of a port (R202): the step after n differs from it as the odometer of R202 says, dimension 0 innermost: a dimension not at its last index
goes up by one and ends the advance, a dimension at its last index goes back to 0, shows its bit and carries.

It rests on the model's choices of log 40.

Completes (exec answers a next state): ld, st. -/
def Obligations.PortStepsAreTaken : Prop :=
  (∀ (s : State) (sz : BitVec 2) (uns : Bool) (t : Reg) (p : PReg),
      let n := 2 ^ sz.toNat
      let x := s.me.port p
      let ld := Instr.ld sz uns t (.port p)
      let st := Instr.st sz t (.port p)
      let flags : Wr := .portFlags p (walkFlags 0 x.dims x.pos)
      let a := s.stepAddr s.actor x x.pos
      (x.opened = true → x.write = false → x.array = 0 →
        (∀ f r, x.fetched = f :: r → f.fault = none → f.data.length = n →
          let v : Word := if uns then BitVec.ofNat 64 (leNat f.data) else BitVec.ofInt 64 (BitVec.ofNat (8 * n) (leNat f.data)).toInt
          Runs ld s (((s.modMe fun c => c.setPort p { x with fetched := r, pos := (x.pos + 1) % x.period }).later 1 flags).laterG 4 t v))
        ∧ (∀ f r cause addr, x.fetched = f :: r → f.fault = some (cause, addr) → Runs ld s (s.raise cause addr))
        ∧ (x.fetched = [] → s.me.timed = true → Runs ld s (s.raise 0x03 (BitVec.ofInt 64 a)))
        ∧ (x.fetched = [] → s.me.timed = false → RunsTo ld s fun u => u.me.stands = true ∧ u.me.g = s.me.g))
      ∧ (x.opened = true → x.write = true → x.array = 0 →
        (x.wbuf.length < 4 → s.stepFault s.actor x a = none → x.gran = sz.toNat → 0 ≤ a → RunsTo st s fun u =>
          (u.me.port p).pos = (x.pos + 1) % x.period ∧ u.underWay 1 flags
          ∧ (∃ w : WStep, (u.me.port p).wbuf = x.wbuf ++ [w]
              ∧ w.lines = [(a.toNat, (List.range n).map fun j => (a.toNat + j, BitVec.ofNat 8 ((s.g t).toNat / 256 ^ j), (0xFF : Byte)))])
          ∧ (u.me.port p).lo = some (min a.toNat (x.lo.getD a.toNat)) ∧ (u.me.port p).hi = max x.hi (a.toNat + n - 1)
          ∧ OnlyCore s.actor s u ∧ SameBytes s u ∧ SameFiles s u)
        ∧ (x.wbuf.length < 4 → ∀ cause addr, s.stepFault s.actor x a = some (cause, addr) → Runs st s (s.raise cause addr))
        ∧ (4 ≤ x.wbuf.length → s.me.timed = true → Runs st s (s.raise 0x03 (BitVec.ofInt 64 a)))
        ∧ (4 ≤ x.wbuf.length → s.me.timed = false → RunsTo st s fun u => u.me.stands = true ∧ (u.me.port p).wbuf = x.wbuf)))
  ∧ (∀ (d : Dim) (rest : List Dim) (k n : Nat),
      let cnt := d.cntM1.toNat + 1
      (n % cnt + 1 < cnt → walkOffset (d :: rest) (n + 1) = walkOffset (d :: rest) n + d.stride.toInt ∧ walkFlags k (d :: rest) n = 0)
      ∧ (n % cnt + 1 = cnt →
          walkOffset (d :: rest) (n + 1) = walkOffset (d :: rest) n - d.cntM1.toNat * d.stride.toInt - walkOffset rest (n / cnt) + walkOffset rest (n / cnt + 1)
          ∧ walkFlags k (d :: rest) n = (1 <<< k) ||| walkFlags (k + 1) rest (n / cnt)))

/-- PCFG, PCLOSE, PSTAT and PSEEK (R331, R334, R201, R202): PCFG of a closed port reads its descriptor through the code path and opens the port at E + 1 with
every index and flag 0; PCLOSE of a read port stops it from E + 1, of a write port it also counts WCOUNT of its window up by one; PSTAT gives the
word of R202 at E + 4, 0 for a closed port; PSEEK sets the step to g[SB] modulo the period, clears the flags and drops fetched steps; PCLOSE and
PSEEK of a closed port are ILLEGAL.

It rests on the model's choices of log 40.

Completes (exec answers a next state): pcfg, pclose, pstat, pseek. -/
def Obligations.PortsOpenAndClose : Prop :=
  ∀ (s : State) (p : PReg) (base idx d b : Reg) (off : BitVec 19),
    let x := s.me.port p
    let a : Int := (s.g base).toNat + (s.g idx).toNat + off.toInt
    let word (j : Nat) : Word := BitVec.ofNat 64 (leNat ((List.range 8).map fun i => s.latest s.actor (a.toNat + 8 * j + i)))
    let nd := (word 0).toNat / 2 ^ 32 % 16 + 1
    (s.CodeSettled s.actor → x.opened = false → s.descFault a (8 + 8 * nd) = none → s.descFault a 8 = none →
      nd ≤ 10 → (word 0).toNat / 2 ^ 41 % 16 ≤ 9 → (word 0).toNat / 2 ^ 45 = 0 → (word 0).toNat / 2 ^ 19 % 2 ^ 13 = 0 →
      (∀ j < nd, (word (1 + j)).toNat / 2 ^ 16 % 2 ^ 16 = 0) → (s.window s.actor (BitVec.ofNat 4 ((word 0).toNat / 2 ^ 36))).valid = true →
      RunsTo (.pcfg p base idx off) s fun u => u.underWay 1 (.portOpen p) ∧ OnlyCore s.actor s u ∧ SameBytes s u ∧ SameFiles s u
        ∧ ∃ y : Port, u.me.port p = y ∧ y.opened = false ∧ y.write = (word 0).getLsbD 40 ∧ y.win = BitVec.ofNat 4 ((word 0).toNat / 2 ^ 36)
          ∧ y.gran = (word 0).toNat / 2 ^ 41 % 16 ∧ y.base.toNat = (word 0).toNat % 2 ^ 19 ∧ y.pos = 0 ∧ y.fpos = 0 ∧ y.flags = 0 ∧ y.steps = 0
          ∧ y.dims = (List.range nd).map fun j => { stride := BitVec.ofNat 32 ((word (1 + j)).toNat / 2 ^ 32), cntM1 := BitVec.ofNat 16 (word (1 + j)).toNat })
    ∧ (x.opened = true → x.write = false → RunsTo (.pclose p) s fun u => u.underWay 1 (.portShut p) ∧ OnlyCore s.actor s u ∧ SameBytes s u ∧ SameFiles s u)
    ∧ (∀ id wk, s.actor = .tile id wk → x.opened = true → x.write = true → RunsTo (.pclose p) s fun u => u.underWay 1 (.portShut p)
        ∧ ((u.window s.actor x.win).wcount = (s.window s.actor x.win).wcount + 1) ∧ (x.lo = none → (u.tile id).dirtylog = (s.tile id).dirtylog)
        ∧ (∀ lo, x.lo = some lo → lo < 2 ^ 19 → x.hi < 2 ^ 19 → ((s.tile id).dirtylog.toList.filter (·.getLsbD 63)).length < 64 →
            ∃ e ∈ (u.tile id).dirtylog.toList, e.toNat = 2 ^ 63 + x.win.toNat * 2 ^ 58 + x.hi * 2 ^ 39 + lo * 2 ^ 20)
        ∧ SameBytes s u ∧ SameFiles s u)
    ∧ (x.opened = true → RunsTo (.pseek p b) s fun u => OnlyCore s.actor s u ∧ SameBytes s u ∧ SameFiles s u
        ∧ (u.me.port p).pos = (s.g b).toNat % x.period ∧ (u.me.port p).fpos = (s.g b).toNat % x.period ∧ (u.me.port p).flags = 0
        ∧ (u.me.port p).fetched = [] ∧ (u.me.port p).wbuf = x.wbuf ∧ (u.me.port p).opened = true)
    ∧ (x.opened = false → Runs (.pseek p b) s (s.raise 0x01 (BitVec.ofNat 64 s.wordAt)) ∧ Runs (.pclose p) s (s.raise 0x01 (BitVec.ofNat 64 s.wordAt)))
    ∧ (RunsTo (.pstat d p) s fun u => ∃ v : Word, u = s.laterG 4 d v ∧ (x.opened = false → v = 0) ∧ (x.opened = true →
        v.toNat = 2 ^ 63 + x.write.toNat * 2 ^ 62 + x.win.toNat * 2 ^ 58 + x.flags.toNat * 2 ^ 48 + x.steps.toNat))

/-- AMO (R231, R335): with its access allowed and its granule whole, the old value goes to g[T] at E + 4, extended by U, and the new value's low bytes are on
their way to memory as a store entering now, with the window's DIRTYMASK bit; a cas that fails writes nothing.

WINQ, LUTLD and FENCE (R336 to R338): WINQ gives at E + 4 the word of R337 of the window that holds g[SA], or of window X4, 0 for no valid one; LUTLD's 16
bytes go to LT0 to LT15 at E + 4; a FENCE with nothing pending does nothing, and else no bundle issues until what is buffered has drained.

Completes (exec answers a next state): amo, winqAddr, winqNum, lutld, fence. -/
def Obligations.AtomicsWindowsAndFences : Prop :=
  (∀ (s : State) (op : AmoOp) (uns dword : Bool) (t base i : Reg) (off : BitVec 19) (id : Nat) (wk : Bool), s.actor = .tile id wk →
      let n := if dword then 8 else 4
      let a : Int := (s.g base).toNat + off.toInt
      let addrs := (List.range n).map (a.toNat + ·)
      let m := leNat (addrs.map (s.latest s.actor))
      let num (x : Nat) : Int := if uns then ((x % 2 ^ (8 * n) : Nat) : Int) else (BitVec.ofNat (8 * n) x).toInt
      let old : Word := BitVec.ofInt 64 (num m)
      let x := (s.g i).toNat
      let new : Option Nat := match op with
        | .add => some (m + x)
        | .min => some (if num m < num x then m else x)
        | .max => some (if num x < num m then m else x)
        | .and => some (m &&& x)
        | .or => some (m ||| x)
        | .swap => some x
        | .cas => if m % 2 ^ (8 * n) = (s.g t).toNat % 2 ^ (8 * n) then some x else none
      amoOk op uns = true →
      s.check s.actor { store := true, berth := false, atomic := true, align := n } a addrs = .ok → s.poisonedAt s.actor addrs = none →
        RunsTo (.amo op uns dword t base off i) s fun u => u.underWay 4 (.g t old) ∧ SameBytes s u ∧ SameFiles s u ∧ SameSpecial s u
          ∧ (new = none → (u.tile id).stores = (s.tile id).stores ∧ (u.tile id).dirtymask = (s.tile id).dirtymask)
          ∧ ∀ y, new = some y → ∃ p : PStore, (u.tile id).stores = (s.tile id).stores ++ [p] ∧ p.due = 2 ∧ p.owner = some wk
              ∧ p.bytes = (List.range n).map fun j => (a.toNat + j, BitVec.ofNat 8 (y / 256 ^ j)))
  ∧ (∀ (s : State) (d a base idx : Reg) (w : BitVec 4) (off : BitVec 19),
      let text (w : BitVec 4) (x : WinDesc) (v : Word) : Prop :=
        (x.valid = false → v = 0) ∧ (x.valid = true → v.toNat = 2 ^ 63 + w.toNat * 2 ^ 59 + (if s.actor.isFeeder then 0 else x.holder.toNat) * 2 ^ 54
          + x.fmt.toNat * 2 ^ 50 + x.blk.toNat * 2 ^ 48 + x.uw.toNat * 2 ^ 47 + x.ur.toNat * 2 ^ 46 + x.repl.toNat * 2 ^ 45 + x.size * 2 ^ 22 + x.base)
      let ea : Int := (s.g base).toNat + (s.g idx).toNat + off.toInt
      let addrs := (List.range 16).map (ea.toNat + ·)
      (RunsTo (.winqNum d w) s fun u => ∃ v, u = s.laterG 4 d v ∧ text w (s.window s.actor w) v)
      ∧ (RunsTo (.winqAddr d a) s fun u => ∃ v, u = s.laterG 4 d v ∧ (s.windowAt s.actor (s.g a).toNat = none → v = 0)
          ∧ ∀ w x, s.windowAt s.actor (s.g a).toNat = some (w, x) → text w x v)
      ∧ (s.check s.actor { align := 16 } ea addrs = .ok → s.poisonedAt s.actor addrs = none → RunsTo (.lutld base idx off) s fun u =>
          ∃ lt, u = (s.useBanks s.actor addrs).later 4 (.lt lt) ∧ ∀ c : Fin 16, lt[c] = s.seen s.actor (ea.toNat + c))
      ∧ ((∀ p : PReg, (s.me.port p).wbuf = []) → (s.actor.isWorker = true → s.myTile.drains = []) → Runs .fence s s)
      ∧ (∀ p : PReg, (s.me.port p).wbuf ≠ [] → RunsTo .fence s fun u => OnlyCore s.actor s u ∧ ∃ steps tail,
          u.me.waits = s.me.waits ++ [(.fence steps tail, true)] ∧ (p, (s.me.port p).wbuf.length) ∈ steps))

/-- VLD and VST complete: of a window of every FMT but INT64 once their access is allowed, and through a port with a fetched step, or a free place
for one, whose window has another FMT than INT64.

VLD and VST of contiguous elements (R328, R329): with the access allowed and nothing poisoned, an active lane of VLD takes at E + 4 the element of its index,
widened from the window's FMT: 32-bit elements unchanged, INT8 and INT16 sign-extended, UINT8 zero-extended, BF16 exact with one canonical NaN, LUT4 by the core's
table; inactive lanes keep their values. VST of 32-bit elements sends the bytes of the active lanes and of no other, with the DIRTYMASK bit. A window of
FMT INT64 is WINDOW.

VLDS, VGATH and VSCAT (R330): active element i of 32-bit windows lies at a + i × g[IDX], or a + v[IDX] element i × 4; with every active element allowed
and in banks congruent modulo 4, loads take the elements at E + 4, and a scatter sends each active lane's bytes, the higher lane last where two
name one address; an element in a bank of another residue is ALIGN with its address.

It rests on the model's choices of log 34.

Completes (exec answers a next state): vld, vst, vlds, vgath, vscat. -/
def Obligations.VectorLoadsAndStores : Prop :=
  (∀ (s : State) (fold : BitVec 2) (t base idx : Reg) (off : BitVec 19) (k : KReg) (d : WinDesc) (w : BitVec 4) (id : Nat),
      s.actor = .tile id true →
      let a : Int := (s.g base).toNat + (s.g idx).toNat + off.toInt
      let lanes := 8 * 2 ^ fold.toNat
      let on := s.laneOn fold k
      let ld := Instr.vld fold t (.addr base idx off) k
      let st := Instr.vst fold t (.addr base idx off) k
      0 ≤ a → s.windowAt s.actor a.toNat = some (w, d) →
      let e := fmtHalves d.fmt
      let n := lanes * e / 2
      let at_ (j : Nat) : Nat := if n ≤ 64 then a.toNat + j else a.toNat + 256 * (j / 64) + j % 64
      let addrs := (List.range n).map at_
      let byte (j : Nat) : Nat := (s.seen s.actor (at_ j)).toNat
      let lane (f : Fin 64 → BitVec 32) : Prop := d.fmt ≠ 10 → s.check s.actor { align := n } a addrs = .ok →
        (∀ x ∈ addrs, localKey s.actor (x / 8 * 8) ∉ s.poison) → RunsTo ld s fun u => LanesWritten (s.useBanks s.actor addrs) u 4 t on f 0
      (d.fmt ≠ 10 → s.check s.actor { align := n } a addrs = .ok → (∀ x ∈ addrs, localKey s.actor (x / 8 * 8) ∉ s.poison) →
        RunsTo (.vld fold t (.addr base idx off) k) s fun u => ∃ f fl, LanesWritten (s.useBanks s.actor addrs) u 4 t on f fl)
      ∧ (d.fmt ≠ 10 → s.check s.actor { store := true, align := n } a addrs = .ok →
        RunsTo (.vst fold t (.addr base idx off) k) s fun u => SameBytes s u ∧ SameFiles s u ∧ SameSpecial s u
          ∧ (∀ b < 16, (u.tile id).dirtymask.getLsbD b = ((s.tile id).dirtymask.getLsbD b || decide (b = w.toNat)))
          ∧ ∃ p : PStore, (u.tile id).stores = (s.tile id).stores ++ [p] ∧ p.due = 2 ∧ ∀ x ∈ p.bytes, x.1 ∈ addrs)
      ∧ (d.fmt = 10 → Runs ld s (s.raise 0x04 (BitVec.ofInt 64 a)) ∧ Runs st s (s.raise 0x04 (BitVec.ofInt 64 a)))
      ∧ ((d.fmt = 0 ∨ d.fmt = 3 ∨ d.fmt = 9) →
          lane fun j => BitVec.ofNat 32 (byte (4 * j) + 256 * byte (4 * j + 1) + 65536 * byte (4 * j + 2) + 16777216 * byte (4 * j + 3)))
      ∧ (d.fmt = 4 → lane fun j => BitVec.ofInt 32 (BitVec.ofNat 8 (byte j)).toInt)
      ∧ (d.fmt = 5 → lane fun j => BitVec.ofNat 32 (byte j))
      ∧ (d.fmt = 8 → lane fun j => BitVec.ofInt 32 (BitVec.ofNat 16 (byte (2 * j) + 256 * byte (2 * j + 1))).toInt)
      ∧ (d.fmt = 7 → lane fun j => BitVec.ofInt 32 (s.me.lt[Fin.ofNat 16 (byte (j / 2) / 16 ^ (j.val % 2))]).toInt)
      ∧ (d.fmt = 1 → (∀ j, on j = true → ¬ (byte (2 * j + 1) % 128 = 127 ∧ 128 < byte (2 * j))) →
          lane fun j => BitVec.ofNat 32 (65536 * byte (2 * j) + 16777216 * byte (2 * j + 1)))
      ∧ ((d.fmt = 0 ∨ d.fmt = 3 ∨ d.fmt = 9) → s.check s.actor { store := true, align := n } a addrs = .ok → RunsTo st s fun u =>
          SameBytes s u ∧ SameFiles s u ∧ SameSpecial s u ∧ (∀ b < 16, (u.tile id).dirtymask.getLsbD b = ((s.tile id).dirtymask.getLsbD b || decide (b = w.toNat)))
          ∧ ∃ p : PStore, (u.tile id).stores = (s.tile id).stores ++ [p] ∧ p.due = 2
            ∧ ∀ x v, (x, v) ∈ p.bytes ↔ ∃ (j : Fin 64) (b : Nat), on j = true ∧ b < 4 ∧ x = at_ (4 * j + b)
                ∧ v = BitVec.ofNat 8 (((s.v t)[j]).toNat / 256 ^ b)))
  ∧ (∀ (s : State) (fold : BitVec 2) (t : Reg) (p : PReg) (k : KReg),
      let x := s.me.port p
      let step (y : Port) : State := (s.modMe fun c => c.setPort p { y with pos := (x.pos + 1) % x.period }).later 1 (.portFlags p (walkFlags 0 x.dims x.pos))
      (s.window s.actor x.win).fmt ≠ 10 → x.opened = true → x.array = 0 →
      (∀ f r, x.write = false → x.fetched = f :: r → f.fault = none →
        RunsTo (.vld fold t (.port p) k) s fun u => ∃ g fl, LanesWritten (step { x with fetched := r }) u 4 t (s.laneOn fold k) g fl)
      ∧ (x.write = true → x.wbuf.length < 4 → s.stepFault s.actor x (s.stepAddr s.actor x x.pos) = none →
        RunsTo (.vst fold t (.port p) k) s fun u => OnlyCore s.actor s u ∧ SameBytes s u ∧ SameFiles s u
          ∧ (u.me.port p).pos = (x.pos + 1) % x.period ∧ ∃ w : WStep, (u.me.port p).wbuf = x.wbuf ++ [w]))
  ∧ (∀ (s : State) (fold : BitVec 2) (t base st vi : Reg) (off : BitVec 19) (k : KReg) (d : WinDesc) (w : BitVec 4) (id : Nat),
      s.actor = .tile id true →
      let a : Int := (s.g base).toNat + off.toInt
      let on := s.laneOn fold k
      0 ≤ a → s.windowAt s.actor a.toNat = some (w, d) → (d.fmt = 0 ∨ d.fmt = 3 ∨ d.fmt = 9) →
      let strided (j : Fin 64) : Int := a + j.val * (s.g st).toInt
      let indexed (j : Fin 64) : Int := a + ((s.v vi)[j]).toInt * 4
      let bytes (x : Int) : List Nat := (List.range 4).map (x.toNat + ·)
      let good (at_ : Fin 64 → Int) (store : Bool) : Prop :=
        (∀ j, on j = true → 0 ≤ at_ j ∧ (s.wheel s.actor (at_ j) (bytes (at_ j)) = .ok) ∧
          s.check s.actor { store := store, align := 4 } (at_ j) (bytes (at_ j)) = .ok ∧ ∀ x ∈ bytes (at_ j), localKey s.actor (x / 8 * 8) ∉ s.poison)
        ∧ ∀ i j, on i = true → on j = true → (at_ i).toNat / 64 % 4 = (at_ j).toNat / 64 % 4
      let loaded (i : Instr) (at_ : Fin 64 → Int) : Prop := good at_ false → RunsTo i s fun u => ∃ s', SameFiles s s' ∧ SameBytes s s' ∧
        LanesWritten s' u 4 t on (fun j => BitVec.ofNat 32 (leNat ((bytes (at_ j)).map (s.seen s.actor)))) 0
      loaded (.vlds fold t base off st k) strided ∧ loaded (.vgath fold t base off vi k) indexed
      ∧ (good indexed true → RunsTo (.vscat fold t base off vi k) s fun u => SameBytes s u ∧ SameFiles s u ∧ SameSpecial s u
          ∧ ∃ ps : List PStore, (u.tile id).stores = (s.tile id).stores ++ ps ∧ ∀ x : Nat,
              overlay ps x 0 = match ((List.finRange 64).filter fun j => on j && decide (indexed j ≤ x) && decide ((x : Int) < indexed j + 4)).getLast? with
                | some j => BitVec.ofNat 8 (((s.v t)[j]).toNat / 256 ^ ((x : Int) - indexed j).toNat)
                | none => 0)
      ∧ ∀ i j : Fin 64, on i = true → on j = true → (∀ l, on l = true → 0 ≤ indexed l ∧ s.check s.actor { align := 4 } (indexed l) (bytes (indexed l)) = .ok) →
          (∀ l, on l = true → i ≤ l) → (∀ l, on l = true → l < j → (indexed l).toNat / 64 % 4 = (indexed i).toNat / 64 % 4) →
          (indexed j).toNat / 64 % 4 ≠ (indexed i).toNat / 64 % 4 →
          Runs (.vgath fold t base off vi k) s (s.raise 0x06 (BitVec.ofInt 64 (indexed j))))

/-! ### The V column (R340 to R370) -/

/-- Integer arithmetic in the V column (R347, R348): VADD, VSUB, VMUL, VFMA, VFMS, VMIN, VMAX, and for INT32 VABS and VNEG, complete with the exact result of the lanes
taken modulo 2^32, or with .s clamped to the type's range, the clamp of any active lane setting SAT; written b + 1 cycles after entry, in the active lanes
alone.

Completes (exec answers a next state): vadd, vsub, vmul, vfma, vfms, vmin, vmax, vabs, vneg. -/
def Obligations.IntegerLaneArithmetic : Prop :=
  ∀ (s : State) (ty : VTy) (sat : Bool) (fold : BitVec 2) (vd va vc vb : Reg) (b : VSrc) (k : KReg), ty ≠ .f →
    let num (x : BitVec 32) : Int := if ty = .u then (x.toNat : Int) else x.toInt
    let lo : Int := if ty = .u then 0 else -2 ^ 31
    let hi : Int := if ty = .u then 2 ^ 32 - 1 else 2 ^ 31 - 1
    let x (j : Fin 64) : Int := num (s.v va)[j]
    let y (j : Fin 64) : Int := num (match b with | .reg r => (s.v r)[j] | .imm i => BitVec.ofInt 32 i.toInt)
    let z (j : Fin 64) : Int := num (s.v vc)[j]
    let w (j : Fin 64) : Int := num (s.v vb)[j]
    let on := s.laneOn fold k
    let gives (i : Instr) (sat : Bool) (f : Fin 64 → Int) : Prop := RunsTo i s fun t => ∃ fl,
      LanesWritten s t (2 ^ fold.toNat + 1) vd on (fun j => BitVec.ofInt 32 (if sat then max lo (min hi (f j)) else f j)) fl
      ∧ ((sat = true ∧ ∃ j, on j = true ∧ (f j < lo ∨ hi < f j)) → fl = 0x20) ∧ (¬ (sat = true ∧ ∃ j, on j = true ∧ (f j < lo ∨ hi < f j)) → fl = 0)
    gives (.vadd ty sat fold vd va b k) sat (fun j => x j + y j) ∧ gives (.vsub ty sat fold vd va b k) sat (fun j => x j - y j)
    ∧ gives (.vmul ty sat fold vd va b k) sat (fun j => x j * y j) ∧ gives (.vfma ty sat fold vd va vb vc k) sat (fun j => x j * w j + z j)
    ∧ gives (.vfms ty sat fold vd va vb vc k) sat (fun j => x j * w j - z j)
    ∧ gives (.vmin ty fold vd va b k) false (fun j => min (x j) (y j)) ∧ gives (.vmax ty fold vd va b k) false (fun j => max (x j) (y j))
    ∧ (ty = .i → gives (.vabs ty sat fold vd va k) sat (fun j => (x j).natAbs) ∧ gives (.vneg ty sat fold vd va k) sat (fun j => -(x j)))

/-- Logic, shifts, moves and permutes of the V column (R349, R351, R358, R360, R361): each completes b + 1 cycles after entry (VHASH b + 2, the single-element moves 2) with the lane
the rule gives, in the active lanes alone, without flags; VSEL writes every lane below the fold.

VCMP and VCOMP (R350, R359): VCMP writes, b + 1 cycles after entry, for each active lane the bit of its condition, integers signed for .i and unsigned for .u, floats
quietly with −0 equal to +0 and a NaN making every condition but .ne false; VCOMP packs the active elements to the front, zeros after them, and sets the predicate
bits of the elements it packed.

Completes (exec answers a next state): vand, vor, vxor, vshl, vshr, vsha, vcmp, vsel, vperm, vbcast, vsplatG, vsplatImm, viota,
vmov, vmovG, vmovE, vcomp, vlut, vhash. -/
def Obligations.LaneLogicMovesAndCompares : Prop :=
  (∀ (s : State) (fold : BitVec 2) (vd va vb ga gd : Reg) (b : VSrc) (k : KReg) (e : BitVec 6) (imm : BitVec 13),
      let on := s.laneOn fold k
      let n := 2 ^ fold.toNat + 1
      let x (j : Fin 64) : BitVec 32 := (s.v va)[j]
      let y (j : Fin 64) : BitVec 32 := match b with | .reg r => (s.v r)[j] | .imm i => BitVec.ofInt 32 i.toInt
      let gives (i : Instr) (f : Fin 64 → BitVec 32) : Prop := RunsTo i s fun t => LanesWritten s t n vd on f 0
      gives (.vand fold vd va b k) (fun j => x j &&& y j) ∧ gives (.vor fold vd va b k) (fun j => x j ||| y j) ∧ gives (.vxor fold vd va b k) (fun j => x j ^^^ y j)
      ∧ gives (.vshl fold vd va b k) (fun j => BitVec.ofNat 32 ((x j).toNat * 2 ^ ((y j).toNat % 32)))
      ∧ gives (.vshr fold vd va b k) (fun j => BitVec.ofNat 32 ((x j).toNat / 2 ^ ((y j).toNat % 32)))
      ∧ gives (.vsha fold vd va b k) (fun j => BitVec.ofInt 32 ((x j).toInt / 2 ^ ((y j).toNat % 32)))
      ∧ gives (.vperm fold vd va vb k) (fun j => (s.v va)[Fin.ofNat 64 ((s.v vb)[j]).toNat]) ∧ gives (.vbcast fold vd va e k) (fun _ => (s.v va)[Fin.ofNat 64 e.toNat])
      ∧ gives (.vsplatG fold vd ga k) (fun _ => BitVec.ofNat 32 (s.g ga).toNat) ∧ gives (.vsplatImm fold vd imm k) (fun _ => BitVec.ofInt 32 imm.toInt)
      ∧ gives (.viota fold vd imm k) (fun j => BitVec.ofInt 32 (imm.toInt + j.val)) ∧ gives (.vmov fold vd va k) x
      ∧ gives (.vlut fold vd va k) (fun j => BitVec.ofInt 32 (s.me.lt[Fin.ofNat 16 (x j).toNat]).toInt)
      ∧ (RunsTo (.vsel fold vd va vb k) s fun t => LanesWritten s t n vd (fun j => decide (j.val < 8 * 2 ^ fold.toNat))
          (fun j => if (s.k k).getLsbD j.val then x j else (s.v vb)[j]) 0)
      ∧ Runs (.vmovG gd va e) s (s.laterG 2 gd (BitVec.ofInt 64 ((s.v va)[Fin.ofNat 64 e.toNat]).toInt))
      ∧ (RunsTo (.vmovE vd ga e) s fun t => LanesWritten s t 2 vd (fun j => decide (j.val = e.toNat)) (fun _ => BitVec.ofNat 32 (s.g ga).toNat) 0)
      ∧ (RunsTo (.vhash fold vd va vb imm k) s fun t => LanesWritten s t (n + 1) vd on (fun j =>
          let h0 := ((s.v va)[j]).toNat ^^^ (((s.v vb)[j]).toNat * 0x6A09E667 % 2 ^ 32) ^^^ imm.toNat
          let h1 := (h0 ^^^ (h0 / 2 ^ 15)) * 0xBB67AE85 % 2 ^ 32
          let h2 := (h1 ^^^ (h1 / 2 ^ 13)) * 0xA54FF53B % 2 ^ 32
          BitVec.ofNat 32 (h2 ^^^ (h2 / 2 ^ 16))) 0))
  ∧ (∀ (s : State) (c : VCond) (ty : VTy) (fold : BitVec 2) (kd : KReg) (vd va : Reg) (b : VSrc) (k : KReg),
      let on := s.laneOn fold k
      let y (j : Fin 64) : BitVec 32 := match b with | .reg r => (s.v r)[j] | .imm i => BitVec.ofInt 32 i.toInt
      let holds (lt eq gt : Prop) : Prop := match c with | .eq => eq | .ne => ¬ eq | .lt => lt | .le => lt ∨ eq | .gt => gt | .ge => gt ∨ eq
      let num (x : BitVec 32) : Int := if ty = .u then (x.toNat : Int) else x.toInt
      let packed := ((List.finRange 64).filter on).map fun j => (s.v va)[j]
      (RunsTo (.vcmp c ty fold kd va b k) s fun t => ∃ (mask v : Word) (fl : BitVec 7),
        t = (s.later (2 ^ fold.toNat + 1) (.k kd mask v)).laterFlags (2 ^ fold.toNat + 1) fl ∧ (fl = 0 ∨ fl = 0x10) ∧ (ty ≠ .f → fl = 0)
        ∧ ∀ j : Fin 64, mask.getLsbD j.val = on j ∧ (on j = true →
            (ty ≠ .f → (v.getLsbD j.val = true ↔ holds (num (s.v va)[j] < num (y j)) (num (s.v va)[j] = num (y j)) (num (y j) < num (s.v va)[j])))
            ∧ (ty = .f → let p := f32 (s.v va)[j]
                let q := f32 (y j)
                ((p.isNan = true ∨ q.isNan = true) → (v.getLsbD j.val = true ↔ c = .ne))
                ∧ (p.isZero = true → q.isZero = true → (v.getLsbD j.val = true ↔ c = .eq ∨ c = .le ∨ c = .ge)))))
      ∧ RunsTo (.vcomp fold vd kd va k) s fun t => ∃ (m1 m2 v : Word) (x : VReg),
          t = (s.later (2 ^ fold.toNat + 2) (.v vd m1 x)).later (2 ^ fold.toNat + 2) (.k kd m2 v)
          ∧ ∀ j : Fin 64, m1.getLsbD j.val = decide (j.val < 8 * 2 ^ fold.toNat) ∧ m2.getLsbD j.val = decide (j.val < 8 * 2 ^ fold.toNat)
            ∧ (j.val < 8 * 2 ^ fold.toNat → x[j] = packed.getD j 0 ∧ v.getLsbD j.val = decide (j.val < packed.length)))

/-- FP32 arithmetic in the V column (R265, R267, R346, R348): VADD, VSUB, VMUL, VFMA, VFMS, VMIN and VMAX complete b + 3 cycles after entry with the exact result of R267
rounded once by CVMODE.RND with the draw of R270 for (VD, lane), the flags of the active lanes gathered; of finite operands the exact result is their
sum, difference, product or product-sum as rational numbers, and a NaN operand gives a NaN. VABS and VNEG are bit operations without flags, written at E + b + 1.

Exact values round to themselves (R262): an FP32 lane that is no NaN, rounded again under any mode, with any draw and saturation, is the same bits and raises no
flag; a NaN gives the canonical one, with NV if it is signalling (R265).

Completes (exec answers a next state): vadd, vsub, vmul, vfma, vfms, vmin, vmax, vabs, vneg. -/
def Obligations.FloatLaneArithmetic : Prop :=
  (∀ (s : State) (fold : BitVec 2) (vd va vb vc : Reg) (k : KReg),
      let rnd : BitVec 3 := s.me.cvmode.extractLsb' 0 3
      let on := s.laneOn fold k
      let x (j : Fin 64) : Machine.Num := f32 (s.v va)[j]
      let y (j : Fin 64) : Machine.Num := f32 (s.v vb)[j]
      let z (j : Fin 64) : Machine.Num := f32 (s.v vc)[j]
      let draw (j : Fin 64) : Nat := drawOf vd.toNat j s.me.srkey 0 ((s.vcycOf s.actor).extractLsb' 0 32)
      let gives (i : Instr) (f : Fin 64 → Machine.Num × BitVec 7) : Prop := RunsTo i s fun t => ∃ fl,
        LanesWritten s t (2 ^ fold.toNat + 3) vd on (fun j => (toF32 rnd false (draw j) (f j).1).1) fl
        ∧ ∀ b, fl.getLsbD b = true ↔ ∃ j, on j = true ∧ ((toF32 rnd false (draw j) (f j).1).2 ||| (f j).2).getLsbD b = true
      gives (.vadd .f false fold vd va (.reg vb) k) (fun j => (x j).add rnd (y j)) ∧ gives (.vsub .f false fold vd va (.reg vb) k) (fun j => (x j).add rnd (y j).negate)
      ∧ gives (.vmul .f false fold vd va (.reg vb) k) (fun j => (x j).mul (y j)) ∧ gives (.vfma .f false fold vd va vb vc k) (fun j => (x j).fma rnd (y j) (z j))
      ∧ gives (.vfms .f false fold vd va vb vc k) (fun j => (x j).fma rnd (y j) (z j).negate)
      ∧ gives (.vmin .f fold vd va (.reg vb) k) (fun j => (x j).minNum (y j)) ∧ gives (.vmax .f fold vd va (.reg vb) k) (fun j => (x j).maxNum (y j))
      ∧ (RunsTo (.vabs .f false fold vd va k) s fun t => LanesWritten s t (2 ^ fold.toNat + 1) vd on (fun j => BitVec.ofNat 32 (((s.v va)[j]).toNat % 2 ^ 31)) 0)
      ∧ (RunsTo (.vneg .f false fold vd va k) s fun t => LanesWritten s t (2 ^ fold.toNat + 1) vd on (fun j => (s.v va)[j] ^^^ 0x80000000) 0)
      ∧ ∀ (a b : Machine.Num) (n n' : Bool) (m m' : Nat) (e e' : Int),
          ((a.isNan = true ∨ b.isNan = true) → (a.add rnd b).1 = .nan false ∧ (a.mul b).1 = .nan false)
          ∧ (∃ n2 m2 e2, ((Machine.Num.fin n m e).add rnd (.fin n' m' e')).1 = .fin n2 m2 e2 ∧
              sgn n2 m2 * 2 ^ (e2 - min (min e e') e2).toNat = sgn n m * 2 ^ (e - min (min e e') e2).toNat + sgn n' m' * 2 ^ (e' - min (min e e') e2).toNat)
          ∧ (∃ n2, ((Machine.Num.fin n m e).mul (.fin n' m' e')).1 = .fin n2 (m * m') (e + e') ∧ sgn n2 (m * m') = sgn n m * sgn n' m'))
  ∧ (∀ (b : BitVec 32) (rnd : BitVec 3) (sat : Bool) (r : Nat),
      ((f32 b).isNan = false → toF32 rnd sat r (f32 b) = (b, 0))
      ∧ ((f32 b).isNan = true → toF32 rnd sat r (f32 b) = (0x7FC00000, if b.getLsbD 22 then 0 else 0x10))
      ∧ ((f32 b).isNan = true ↔ (b.toNat / 2 ^ 23 % 2 ^ 8 = 255 ∧ b.toNat % 2 ^ 23 ≠ 0)))

/-- VCVT and the special functions (R268, R353, R354, R273 to R278): VCVT converts each active lane's exact value with CVMODE's rounding and saturation, b + 3 cycles after entry,
and an integer in range converts exactly; VRCP, VRSQ, VSQRT, VEXP2, VLOG2, VTANH and VSIGM complete b + 5 cycles after entry whatever CVMODE holds, setting NV and DZ
alone, with the values of R274 to R278 at zeros, infinities, NaNs and domain errors.

Completes (exec answers a next state): vcvt, vrcp, vrsq, vsqrt, vexp2, vlog2, vtanh, vsigm. -/
def Obligations.ConversionsAndSpecialFunctions : Prop :=
  ∀ (s : State) (dst src : CvtTy) (fold : BitVec 2) (vd va : Reg) (k : KReg),
    let on := s.laneOn fold k
    let draw (j : Fin 64) : Nat := drawOf vd.toNat j s.me.srkey 0 ((s.vcycOf s.actor).extractLsb' 0 32)
    let cvt (j : Fin 64) : Nat × BitVec 7 :=
      (cvtFmt dst).encode (s.me.cvmode.extractLsb' 0 3) (s.me.cvmode.getLsbD 3) false (draw j) ((cvtFmt src).decode ((cvtFmt src).ofLane (s.v va)[j]))
    (RunsTo (.vcvt dst src fold vd va k) s fun t => ∃ fl, LanesWritten s t (2 ^ fold.toNat + 3) vd on (fun j => (cvtFmt dst).toLane (cvt j).1) fl
      ∧ ∀ b, fl.getLsbD b = true ↔ ∃ j, on j = true ∧ (cvt j).2.getLsbD b = true)
    ∧ (∀ (rnd : BitVec 3) (sat : Bool) (r : Nat) (f : IntFmt), f ∈ [i8, u8, i16, i32, u32] → ∀ x : Int, f.min ≤ x → x ≤ f.max →
        f.value (f.encode rnd sat r (.ofInt x)).1 = x ∧ (f.encode rnd sat r (.ofInt x)).2 = 0)
    ∧ (∀ p ∈ [(Instr.vrcp fold vd va k, rcpOf), (.vrsq fold vd va k, rsqOf), (.vsqrt fold vd va k, sqrtOf), (.vexp2 fold vd va k, exp2Of),
        (.vlog2 fold vd va k, log2Of), (.vtanh fold vd va k, tanhOf), (.vsigm fold vd va k, sigmOf)],
        (RunsTo p.1 s fun t => ∃ fl, LanesWritten s t (2 ^ fold.toNat + 5) vd on (fun j => (rneF32 (p.2 (f32 (s.v va)[j])).1).1) fl
          ∧ ∀ b, fl.getLsbD b = true ↔ ∃ j, on j = true ∧ (p.2 (f32 (s.v va)[j])).2.getLsbD b = true)
        ∧ (∀ q, p.2 (.nan q) = (.nan false, if q then 0x10 else 0)) ∧ ∀ x, (p.2 x).2 &&& 0x67 = 0)
    ∧ (∀ n : Bool, rcpOf (.fin n 0 0) = (.inf n, 0x08) ∧ rcpOf (.inf n) = (.fin n 0 0, 0) ∧ rsqOf (.fin n 0 0) = (.inf n, 0x08)
        ∧ sqrtOf (.fin n 0 0) = (.fin n 0 0, 0) ∧ log2Of (.fin n 0 0) = (.inf true, 0x08))
    ∧ rsqOf (.inf false) = (.zero, 0) ∧ rsqOf (.inf true) = (.nan false, 0x10) ∧ sqrtOf (.inf true) = (.nan false, 0x10) ∧ sqrtOf (.inf false) = (.inf false, 0)
    ∧ log2Of (.inf true) = (.nan false, 0x10) ∧ log2Of (.inf false) = (.inf false, 0) ∧ exp2Of (.inf true) = (.zero, 0) ∧ exp2Of (.inf false) = (.inf false, 0)
    ∧ ∀ (m : Nat) (e : Int), 0 < m → rsqOf (.fin true m e) = (.nan false, 0x10) ∧ sqrtOf (.fin true m e) = (.nan false, 0x10) ∧ log2Of (.fin true m e) = (.nan false, 0x10)

/-- Reductions, scans and VARGMAX (R355 to R357): integer reductions write lane 0 alone at E + b + 7, the exact sum wrapped or clamped, or the greatest or least active lane, and the
identity for no active lane; a scan writes every lane below the fold with the combination of the active lanes up to it; VARGMAX writes index and value of the greatest
lane, the lowest index on a tie, at E + b + 5; FP32 reductions complete too, and write lane 0.

Completes (exec answers a next state): vredadd, vredmax, vredmin, vscan, vargmax. -/
def Obligations.ReductionsScansAndArgmax : Prop :=
  ∀ (s : State) (ty : VTy) (sat : Bool) (fold : BitVec 2) (vd va : Reg) (k : KReg),
    let on := s.laneOn fold k
    let b := 2 ^ fold.toNat
    let num (x : BitVec 32) : Int := if ty = .u then (x.toNat : Int) else x.toInt
    let lo : Int := if ty = .u then 0 else -2 ^ 31
    let hi : Int := if ty = .u then 2 ^ 32 - 1 else 2 ^ 31 - 1
    let act (n : Nat) : List Int := ((List.finRange 64).filter fun j => on j && decide (j.val < n)).map fun j => num (s.v va)[j]
    let put (sat : Bool) (x : Int) : BitVec 32 := BitVec.ofInt 32 (if sat then max lo (min hi x) else x)
    let comb (op : ScanOp) (l : List Int) : Int := match op with
      | .add => l.sum
      | .max => l.foldl max lo
      | .min => l.foldl min hi
    let red : List (Instr × ScanOp × Bool) := [(.vredadd ty sat fold vd va k, .add, sat), (.vredmax ty fold vd va k, .max, false), (.vredmin ty fold vd va k, .min, false)]
    (∀ p ∈ red, RunsTo p.1 s fun t => ∃ v fl, LanesWritten s t (b + 7) vd (fun j => decide (j.val = 0)) (fun _ => v) fl
      ∧ (ty ≠ .f → v = put p.2.2 (comb p.2.1 (act 64)) ∧ (fl = 0 ∨ p.2.2 = true ∧ fl = 0x20)))
    ∧ (∀ op : ScanOp, RunsTo (.vscan op ty sat fold vd va k) s fun t => ∃ v fl, LanesWritten s t (b + 7) vd (fun j => decide (j.val < 8 * b)) v fl
      ∧ (ty ≠ .f → ∀ j : Fin 64, j.val < 8 * b → v j = put sat (comb op (act (j + 1)))))
    ∧ RunsTo (.vargmax ty fold vd va k) s fun t => ∃ v fl, LanesWritten s t (b + 5) vd (fun j => decide (j.val < 2)) v fl
        ∧ (ty ≠ .f → fl = 0 ∧ ((∀ j, on j = false) → v 0 = 0xFFFFFFFF ∧ v 1 = 0)
            ∧ ∀ j, on j = true → ∃ m : Fin 64, v 0 = BitVec.ofNat 32 m.val ∧ v 1 = (s.v va)[m] ∧ on m = true ∧ num (s.v va)[j] ≤ num (s.v va)[m]
                ∧ (num (s.v va)[j] = num (s.v va)[m] → m ≤ j))

/-- The grammar words (R362 to R370): VPDA and VTMASK of a rejected automaton complete without a table read, at E + 23 and E + b + 11; with a good table they put under way
the reads of R366 and R367, the class entry and the mask word four cycles on; a transition is that of R365 and R366; VSAMPLE completes at E + b + 23 with the
pick, its index, S and t, or with −1 twice, zeros and NOLEGAL when no lane is legal.

It rests on the model's choices of log 34.

Completes (exec answers a next state): vpda, vtmask, vsample. -/
def Obligations.AutomatonAndSampling : Prop :=
  ∀ (s : State) (fold : BitVec 2) (vd va vb vc : Reg) (kd k : KReg) (w : BitVec 4) (topk : BitVec 13),
    let b := 2 ^ fold.toNat
    let x := s.v va
    let clean (x : VReg) (j : Fin 64) : BitVec 32 := if j.val = 0 then x[j] &&& 0xC000FFFF else if j.val = 1 then x[j] else BitVec.ofNat 32 ((x[j]).toNat % 65536)
    (x[0].getLsbD 31 = true →
      (RunsTo (.vpda vd va vb w) s fun t => LanesWritten s t 23 vd (fun _ => true) (clean x) 0)
      ∧ RunsTo (.vtmask fold kd va vb w) s fun t => ∃ mask, t = s.later (b + 11) (.k kd mask 0) ∧ ∀ j : Fin 64, mask.getLsbD j.val = decide (j.val < 8 * b))
    ∧ (∀ h s', x[0].getLsbD 31 = false → s.tableHeader s.actor w = .ok (h, s') → autoDepth x ≤ 62 → autoState x < h.nstate → autoTop x < h.nsym →
        (((s.v vb)[0]).toNat < h.ntok → RunsTo (.vpda vd va vb w) s fun t =>
          ∃ a : Auto, a ∈ t.me.autos ∧ a.seq = s.seq ∧ a.due = 4 ∧ a.left = 23 ∧ a.read = .cls ∧ a.hdr = h ∧ a.win = w ∧ a.a = x ∧ a.t = (s.v vb)[0] ∧ a.vd = vd)
        ∧ (8 * ((s.v vb)[0]).toNat < 8 * ((h.ntok + 63) / 64) → RunsTo (.vtmask fold kd va vb w) s fun t =>
          ∃ a : Auto, a ∈ t.me.autos ∧ a.seq = s.seq ∧ a.due = 4 ∧ a.left = b + 11 ∧ a.kd = kd ∧ a.lanes = 8 * b
            ∧ a.read = .mask (h.mask + (autoState x * h.nsym + autoTop x) * (8 * ((h.ntok + 63) / 64)) + 8 * ((s.v vb)[0]).toNat)))
    ∧ (∀ tr : Word, autoDepth x ≤ 62 → ∀ j : Fin 64,
        let op := tr.toNat / 2 ^ 32 % 8
        let depth := autoDepth x
        let sym := BitVec.ofNat 32 (tr.toNat / 2 ^ 16 % 2 ^ 16)
        let bad := 4 ≤ op ∨ (op = 1 ∧ depth = 62) ∨ ((op = 2 ∨ op = 3) ∧ depth = 0)
        (bad → (autoStep x tr)[j] = if j.val = 0 then ((x[j] ||| 0x80000000) &&& 0x8000FFFF) else clean x j)
        ∧ (¬ bad → (autoStep x tr)[j] =
            if j.val = 0 then BitVec.ofNat 32 (tr.toNat % 2 ^ 16 + (if tr.getLsbD 35 then 2 ^ 30 else 0))
            else if j.val = 1 then (if op = 1 then x[j] + 1 else if op = 2 then x[j] - 1 else x[j])
            else if (op = 1 ∧ j.val = 2 + depth) ∨ (op = 3 ∧ j.val = 1 + depth) then sym
            else if op = 2 ∧ j.val = 1 + depth then 0 else clean x j))
    ∧ RunsTo (.vsample fold vd va vb vc topk k) s fun t =>
        let legal (j : Fin 64) : Bool := s.laneOn fold k j && !(f32 x[j]).isNan && x[j] != 0xFF800000
        ((∀ j, legal j = false) → LanesWritten s t (b + 23) vd (fun j => decide (j.val < 8 * b)) (fun j => if j.val ≤ 1 then 0xFFFFFFFF else 0) 0x40)
        ∧ ((∃ j, legal j = true) → (s.v vc)[0] ≠ 0x7F800000 → ∃ (pick : Fin 64) (total tt : Nat), legal pick = true ∧ tt < total ∧ 2 ^ 24 ≤ total ∧ total ≤ 2 ^ 30
            ∧ LanesWritten s t (b + 23) vd (fun j => decide (j.val < 8 * b)) (fun j => if j.val = 0 then (s.v vb)[pick] else if j.val = 1 then BitVec.ofNat 32 pick.val
                else if j.val = 2 then BitVec.ofNat 32 total else if j.val = 3 then BitVec.ofNat 32 tt else 0) 0)
        ∧ ((∃ j, legal j = true) → (s.v vc)[0] = 0x7F800000 → ∃ pick : Fin 64, legal pick = true ∧ (∀ j, legal j = true → (f32 x[pick]).lt (f32 x[j]) = false)
            ∧ LanesWritten s t (b + 23) vd (fun j => decide (j.val < 8 * b)) (fun j => if j.val = 0 then (s.v vb)[pick] else if j.val = 1 then BitVec.ofNat 32 pick.val else 0) 0)

/-! ### The M column (R371 to R382) -/

/-- MZERO, MLDZ, MSTZ, MSUMS and MDCFG complete (R376, R377, R381): a zeroed set is written at the end of E and a loaded one at the end of E + 1, row
i from elements 16 (i mod 4) on of register i div 4; MSTZ puts the set as it stands under way to four registers at E + 2; MSUMS waits for the next
product; and at the end of a cycle the sets due are written, CUR takes its value, and tokens join the queue of at most 8 or go.

Completes (exec answers a next state): mzero, mdcfgSet, mdcfgTok, msums, mldz, mstz, mdcfgClr. -/
def Obligations.AccumulatorMovesAndDrainConfiguration : Prop :=
  ∀ (s : State) (id : Nat) (z acc : Bool) (vd vs : Reg) (c : BitVec 2), s.actor = .tile id true →
    let t := s.tile id
    Runs (.mzero z) s (s.modTile id fun t => { t with zwrites := t.zwrites ++ [⟨0, z, Vector.replicate 256 0⟩] })
    ∧ (RunsTo (.mldz z vs) s fun u => ∃ x : ZSet, u = s.modTile id (fun t => { t with zwrites := t.zwrites ++ [⟨1, z, x⟩] })
        ∧ ∀ e : Fin 256, x[e] = (s.v (vs + BitVec.ofNat 5 (e.val / 64)))[Fin.ofNat 64 e.val])
    ∧ (RunsTo (.mstz vd z) s fun u => OnlyResults s u ∧ ∀ q < 4, ∃ x : VReg, u.underWay 2 (.v (vd + BitVec.ofNat 5 q) (BitVec.allOnes 64) x)
        ∧ ∀ j : Fin 64, x[j] = (t.readZ z)[Fin.ofNat 256 (64 * q + j.val)])
    ∧ Runs (.msums acc vd) s (s.modTile id fun t => { t with msums := some (acc, vd) })
    ∧ Runs (.mdcfgSet c) s (s.modTile id fun t => { t with setCur := some c }) ∧ Runs .mdcfgClr s (s.modTile id fun t => { t with clrTokens := true })
    ∧ (t.tokens.length + t.newTokens.length < 8 → Runs (.mdcfgTok c) s (s.modTile id fun t => { t with newTokens := t.newTokens ++ [c] }))
    ∧ (8 ≤ t.tokens.length + t.newTokens.length → Runs (.mdcfgTok c) s (s.lateFault s.actor 0x02 0))
    ∧ ∀ t : Tile,
        (∀ w, t.zwrites = [w] →
          (w.due = 0 → t.writeSets.readZ w.z = w.val ∧ t.writeSets.readZ (!w.z) = t.readZ (!w.z) ∧ t.writeSets.zwrites = [])
          ∧ (w.due ≠ 0 → t.writeSets.readZ w.z = t.readZ w.z ∧ t.writeSets.zwrites = [{ w with due := w.due - 1 }]))
        ∧ t.endTokens.cur = t.setCur.getD t.cur ∧ (t.clrTokens = true → t.endTokens.tokens = [])
        ∧ (t.clrTokens = false → t.endTokens.tokens = t.tokens ++ t.newTokens)

/-- MMUL, MMULW, MARM, MDISARM and MREL complete (R142, R144, R208, R372 to R375, R378, R379): a product whose ports and block fit enters with the entry
latency 3, or 4 for the 16-byte class, sets the kind of its set and owns its ports; PE (i, j) takes group k in cycle E + X + i + j + k and adds the
integer products modulo 2^32; with no block or one not full it is WINDOW; MARM arms its slot, or fires on the delivery under way, which fixes the
entry of a timed worker's word at once and of a free worker's when the delivery completes; MDISARM and MREL take away arms of the slot and its
front block.

It rests on the model's choices of log 21 and 22.

Completes (exec answers a next state): mmul, mmulw, marm, mdisarm, mrel. -/
def Obligations.ProductsAndArms : Prop :=
  ∀ (s : State) (id : Nat) (kg : KGroup) (z : Bool) (ch : BitVec 4) (pa pb : PReg) (gm1 : BitVec 8), s.actor = .tile id true →
    let t := s.tile id
    let fmt (p : PReg) : BitVec 4 := (s.window s.actor (s.me.port p).win).fmt
    let fits (p : PReg) : Prop := (s.me.port p).opened = true ∧ (s.me.port p).write = false ∧ kgAllows kg (fmt p) = true
      ∧ 2 ^ (s.me.port p).gran = sliceBytes kg (fmt p)
    let n : Nat := if kg = .k16 then 4 else 3
    let g := gm1.toNat + 1
    let entered (pb : Option PReg) (loc : Option BlockLoc) (fb : BitVec 4) (u : State) : Prop := Same s u ∧
      (∃ m : MatOp, (u.tile id).matOps = t.matOps ++ [m] ∧ m.seq = s.seq ∧ m.z = z ∧ m.kg = kg ∧ m.groups = g ∧ m.lat = n ∧ m.age = 0 ∧ m.pa = pa
        ∧ m.pb = pb ∧ m.block = loc ∧ m.fmtA = fmt pa ∧ m.fmtB = fb ∧ m.msums = t.msums ∧ (u.tile id).kind z = m.isInt
        ∧ (m.isInt = true ↔ kg = .k8 ∨ (kg = .k16 ∧ fmt pa = 7 ∧ fb = 7)))
      ∧ n + g ≤ (u.me.port pa).array ∧ (∀ p, pb = some p → n + g ≤ (u.me.port p).array)
    (fits pa → (t.msums = none ∨ kg = .k8) →
      (s.fired = none → ∀ b, t.front ch = some b → b.full = true → kgAllows kg b.fmt = true → g * sliceBytes kg b.fmt ≤ (b.bsz.toNat + 1) * 512 →
        RunsTo (.mmul kg z ch pa gm1) s (entered none (some (t.blockLoc id b)) b.fmt))
      ∧ (fits pb → RunsTo (.mmulw kg z ch pa pb gm1) s (entered (some pb) none (fmt pb)))
      ∧ (s.fired = none → (∀ b, t.front ch = some b → b.full = false) → Runs (.mmul kg z ch pa gm1) s (s.lateFault s.actor 0x04 (chamberCode ch 0))))
    ∧ (∀ i d addr, s.partner = some (i, d, addr) →
        (t.arms.any (·.slot == ch) = true → Runs (.marm ch) s (s.lateFault s.actor 0x02 0))
        ∧ (t.arms.any (·.slot == ch) = false → (∀ b ∈ t.blocks, b.slot = ch → b.full = true ∨ b.lost = true) →
          Runs (.marm ch) s (s.modTile id fun t => { t with arms := t.arms ++ [⟨ch, i, d, s.seq, addr, none⟩] }))
        ∧ (t.arms.any (·.slot == ch) = false → (∀ h ∈ s.me.holds, h.col ≠ .m) →
          ∀ b, (t.blocks.find? fun b => b.slot == ch && !b.full && !b.lost) = some b →
            (s.me.timed = true → RunsTo (.marm ch) s fun u => Same s u
              ∧ ∃ o ∈ u.me.ops, o.instr = i ∧ o.due = b.beats + 1 - b.age + d ∧ o.seq = s.seq ∧ o.block = some b.id)
            ∧ (s.me.timed = false →
              Runs (.marm ch) s (s.modTile id fun t => { t with arms := t.arms ++ [⟨ch, i, d, s.seq, addr, some b.id⟩] }))))
    ∧ (RunsTo (.mdisarm ch) s fun u => Same s u ∧ (u.tile id).arms = t.arms.filter (·.slot != ch) ∧ (u.tile id).blocks = t.blocks)
    ∧ (∀ b, t.front ch = some b → b.full = true → RunsTo (.mrel ch) s fun u => Same s u
        ∧ (u.tile id).blocks = t.blocks.filter (fun x : Block => x.id != b.id) ∧ (u.tile id).released = t.released ++ [(b.slot, b.place)])
    ∧ ((∀ b, t.front ch = some b → b.full = false) → Runs (.mrel ch) s (s.lateFault s.actor 0x04 (chamberCode ch 0)))
    ∧ ∀ m : MatOp,
        (∀ i j k, m.groupAt i j = some k ↔ m.age = m.lat + i + j + k ∧ k < m.groups)
        ∧ ∀ (x : BitVec 32) (a b : List Nat), m.isInt = true →
            m.update false x a b = (BitVec.ofInt 32 (x.toInt + ((a.zip b).map fun y => elemInt m.fmtA y.1 * elemInt m.fmtB y.2).sum), 0)

/-- MDRAIN and MDRAIN.v complete (R210 to R212, R380): a waiting token sets CUR, the configuration DCFG[CUR] is latched, and the drain begins with the
kind of its set; to a window it counts WCOUNT up by one. A reserved field or a raw window is ILLEGAL, a table or output outside its window WINDOW,
an output not on a multiple of its row ALIGN, and an output not held by the drain BERTH, in that order. In mode 1 an element of an integer format is
the exact quotient plus ZP where the division comes out even and the terms are in range.

It rests on the model's choices of log 21 and 33.

Completes (exec answers a next state): mdrain, mdrainV. -/
def Obligations.DrainsBegin : Prop :=
  ∀ (s : State) (id : Nat) (z : Bool) (o vd : Reg), s.actor = .tile id true →
    let t := s.tile id
    let cur : BitVec 2 := match t.tokens with | c :: _ => c | [] => t.cur
    let cfg : Word := t.dcfg[cur.toNat]'(by omega)
    let good := cfg.toNat / 2 ^ 61 ≤ 1 ∧ cfg.toNat / 2 ^ 57 % 16 ≤ 10 ∧ cfg.toNat / 2 ^ 54 % 8 ≤ 4 ∧ cfg.toNat / 2 ^ 13 % 256 = 0
    let ptab := cfg.toNat / 2 ^ 13 % 2 ^ 19
    let tab := s.window s.actor (BitVec.ofNat 4 (cfg.toNat / 2 ^ 9))
    let table := tab.has ptab = true ∧ tab.has (ptab + 255) = true
    let w : BitVec 4 := BitVec.ofNat 4 (cfg.toNat / 2 ^ 5)
    let d := s.window s.actor w
    let row := 8 * fmtHalves d.fmt
    let a := d.base + (s.g o).toNat
    let inside := d.has a = true ∧ d.has (a + 16 * row - 1) = true ∧ d.repl = false
    let took (u : State) : State := u.modTile id Tile.takeToken
    let begun (dest : DrainDest) (fmt : BitVec 4) (u : State) : Prop := Same s u ∧ (u.tile id).cur = cur ∧ (u.tile id).tokens = t.tokens.drop 1
      ∧ ∃ x : Drain, (u.tile id).drains = t.drains ++ [x] ∧ x.seq = s.seq ∧ x.age = 0 ∧ x.z = z ∧ x.isInt = t.kind z ∧ x.cfg = cfg ∧ x.dest = dest
        ∧ x.fmt = fmt ∧ x.rows = [] ∧ x.lines = []
    (good → table → d.fmt ≠ 0 → (s.g o).toNat % row = 0 → inside → d.holder = 4 →
      RunsTo (.mdrain z o) s fun u => begun (.window w a (fmtHalves d.fmt)) d.fmt u ∧ (u.window s.actor w).wcount = d.wcount + 1)
    ∧ (good → table → RunsTo (.mdrainV z vd) s (begun (.vec vd) (BitVec.ofNat 4 (cfg.toNat / 2 ^ 57))))
    ∧ (¬ good → Runs (.mdrain z o) s ((took s).lateFault s.actor 0x01 (BitVec.ofNat 64 s.wordAt))
        ∧ Runs (.mdrainV z vd) s ((took s).lateFault s.actor 0x01 (BitVec.ofNat 64 s.wordAt)))
    ∧ (d.valid = true → d.fmt = 0 → Runs (.mdrain z o) s ((took s).lateFault s.actor 0x01 (BitVec.ofNat 64 s.wordAt)))
    ∧ (good → ¬ (d.valid = true ∧ d.fmt = 0) →
      (¬ table → Runs (.mdrain z o) s ((took s).lateFault s.actor 0x04 (BitVec.ofNat 64 ptab)))
      ∧ (table → (s.g o).toNat % row ≠ 0 → Runs (.mdrain z o) s ((took s).lateFault s.actor 0x06 (BitVec.ofNat 64 a)))
      ∧ (table → (s.g o).toNat % row = 0 → ¬ inside → Runs (.mdrain z o) s ((took s).lateFault s.actor 0x04 (BitVec.ofNat 64 a)))
      ∧ (table → (s.g o).toNat % row = 0 → inside → d.holder ≠ 4 → Runs (.mdrain z o) s ((took s).lateFault s.actor 0x05 (BitVec.ofNat 64 a))))
    ∧ ∀ (fmt : BitVec 4) (f : IntFmt) (isInt : Bool) (r sh : Nat) (x m c q : BitVec 32) (k : Int),
        (fmt, f) ∈ [((4 : BitVec 4), i8), (5, u8), (8, i16), (9, i32)] → cfg.toNat / 2 ^ 61 = 1 → cfg.toNat / 2 ^ 54 % 8 ≤ 4 →
        -2 ^ 31 ≤ x.toInt + q.toInt + c.toInt → x.toInt + q.toInt + c.toInt < 2 ^ 31 → (x.toInt + q.toInt + c.toInt) * m.toInt = k * 2 ^ (31 + sh) →
        let v := k + (BitVec.ofNat 16 (cfg.toNat / 2 ^ 32)).toInt
        f.min ≤ v → v ≤ f.max → ∃ y, drainElem cfg fmt false isInt r x m c q sh = (y, 0) ∧ f.value y = v

/-! ### The F and T columns (R383 to R412) -/

/-- FINJ, FPREF, FUPD, FRED and FGRP complete on a feeder core when their checks hold (R386 to R391): FINJ queues the block under its count, with the copy
four counts before; a count nearer than four is LATE; FPREF makes every line of its range present or under way; FUPD and FRED join their core's
pipeline, with their first line eight cycles on; FGRP puts the entry in force for injections from E + 2 on and drops the group's replay blocks.

It rests on the model's choices of log 36.

Completes (exec answers a next state): finj, fpref, fupd, fred, fgrp. -/
def Obligations.FeederWords : Prop :=
  ∀ (s : State) (f c n : Nat) (a b d : Reg) (g : BitVec 8) (op : FupdOp) (fop : FredOp) (fmt : FFmt) (nM1 : BitVec 16),
    s.actor = .feeder f c → s.slotOf s.actor = some n →
    let x := s.feeder f
    let now := s.vcycOf s.actor
    let v := s.g a
    let page (w : Word) : Option PageMap := s.feederPage f x.asid w
    let t : BitVec 48 := BitVec.ofNat 48 (s.g b).toNat
    let e := x.entryFor g t
    let off := v.toNat % 2 ^ 21
    let cnt := nM1.toNat + 1
    let size : Nat := if fmt = .fp32 then 4 else 2
    let pipe (k : PipeKind) : PipeOp :=
      { seq := s.seq, kind := k, fmt := fmt, gaddr := v, n := cnt, done := 0, due := 8, mode := s.me.cvmode, key := s.me.srkey, flags := 0, acc := [],
        asid := x.asid }
    let queued (o : PipeOp) (u : State) : Prop := Same s u ∧ (u.feeder f).pipes[feederCore c] = x.pipes[feederCore c] ++ [o]
    (e.valid = true → (page v).isSome = true → v.toNat % 512 = 0 → off + e.size ≤ 2 ^ 21 →
      (passed t (now + 4) = true → Runs (.finj a b g) s (s.lateFault s.actor 0x0D (t.zeroExtend 64)))
      ∧ (passed t (now + 4) = false → x.queue.length < 64 → (x.queue ++ x.flying).any (injectClash e.guides e.lam0 e.width t e.beats) = false →
        RunsTo (.finj a b g) s fun u => Same s u
          ∧ (∃ y ∈ (u.feeder f).queue, y.id = x.nextId ∧ y.group = g ∧ y.gaddr = v ∧ y.t = t ∧ y.slot = n ∧ y.copied = none)
          ∧ (⟨.count n t, .injectionModulate f x.nextId⟩ : Due) ∈ u.agenda
          ∧ (t ≠ now + 4 → (⟨.count n (t - 4), .finjCopy f x.nextId⟩ : Due) ∈ u.agenda)
          ∧ (t = now + 4 → u.work = .ev (.finjCopy f x.nextId) :: s.work)))
    ∧ (∀ p, page v = some p → 0 < (s.g b).toNat → off + (s.g b).toNat ≤ 2 ^ 21 → RunsTo (.fpref a b) s fun u => Same s u
        ∧ ∀ l, pageLine p off ≤ l → l ≤ pageLine p (off + (s.g b).toNat - 1) → l ∈ (u.feeder f).present ∨ ∃ y ∈ (u.feeder f).reads, y.line = l)
    ∧ (∀ p, page v = some p → p.write = true → (page (s.g b)).isSome = true → v.toNat % size = 0 → (s.g b).toNat % 4 = 0 → off + cnt * size ≤ 2 ^ 21 →
        (s.g b).toNat % 2 ^ 21 + cnt * 4 ≤ 2 ^ 21 → s.mayStorePage (s.asHolder s.actor) p = true →
        RunsTo (.fupd op fmt a b d nM1) s (queued (pipe (.upd op (s.g b) (BitVec.ofNat 32 (s.g d).toNat) (BitVec.ofNat 32 now.toNat)))))
    ∧ ((page v).isSome = true → v.toNat % size = 0 → off + cnt * size ≤ 2 ^ 21 → RunsTo (.fred fop fmt d a nM1) s fun u =>
        ∃ m, queued (pipe (.red fop d m)) u)
    ∧ ((page v).isSome = false → Runs (.fred fop fmt d a nM1) s (s.lateFault s.actor 0x0A v) ∧ Runs (.fpref a b) s (s.lateFault s.actor 0x0A v)
        ∧ Runs (.fupd op fmt a b d nM1) s (s.lateFault s.actor 0x0A v))
    ∧ (∀ (k : BitVec 4) (w : WinDesc) (y : GroupEntry), s.windowAt s.actor v.toNat = some (k, w) → w.has (v.toNat + 255) = true → v.toNat % 256 = 0 →
        s.poisonedAt s.actor ((List.range 256).map (v.toNat + ·)) = none →
        y = BitVec.ofNat 2048 (leNat ((List.range 256).map fun i => s.seen s.actor (v.toNat + i))) →
        (s.entryRefused f (some n) g.toNat y = true → Runs (.fgrp a g) s (s.lateFault s.actor 0x01 (BitVec.ofNat 64 s.wordAt)))
        ∧ (s.entryRefused f (some n) g.toNat y = false → RunsTo (.fgrp a g) s fun u => Same s u ∧ (u.feeder f).grpNew = x.grpNew ++ [⟨g, now + 2, y⟩]
          ∧ (u.feeder f).replay = x.replay.filter fun r => r.group != g))

/-- TSEND, TRED, TDSEND, TDRECV and TIME complete (R396, R398, R400, R401, R403): the 64 bytes of a line, a port step or a quarter of a register become a
flit, lowest byte first, presented two counts on, and 64 elements a token; TDSEND queues a packet and answers 1, or with its queue full 0; TDRECV
takes the oldest packet, stores its 64 bytes and gives its word, and with none sleeps, or in the .nb form gives 0; TIME gives TIME, VCYC and their
difference. A lane's integer that fits comes back from its digits.

It rests on the model's choices of log 11 and 12.

Completes (exec answers a next state): tsend, tsendP, tsendV, tredV, tredMem, tdsend, tdrecv, tdrecvNb, timeT, timeV, timeOff. -/
def Obligations.TowpathWords : Prop :=
  ∀ (s : State) (id : Nat) (wk : Bool) (a b c d va : Reg) (p : PReg) (imm : BitVec 16) (q : BitVec 2) (len : BitVec 7) (isInt : Bool), s.actor = .tile id wk →
    let t := s.tile id
    let x : Int := (s.g a).toNat + imm.toInt
    let shown (k : PresentKind) (u : State) : Prop := Kept s u ∧ (u.tile id).presents = t.presents ++ [⟨2, s.actor, k⟩]
    let flit (byte : Nat → Nat) (u : State) : Prop := ∃ fl : Flit, shown (.flit fl) u ∧ fl.look = [] ∧ ∀ i < 64, fl.bits.toNat / 256 ^ i % 256 = byte i
    let near (n : Nat) : Prop := s.check s.actor { align := 64 } x (layout x.toNat n) = .ok ∧ s.poisonedAt s.actor (layout x.toNat n) = none
    (near 64 → RunsTo (.tsend a imm) s (flit fun i => (s.seen s.actor (x.toNat + i)).toNat))
    ∧ (∀ st r, (s.me.port p).opened = true → (s.me.port p).write = false → (s.me.port p).array = 0 → (s.me.port p).fetched = st :: r → st.fault = none →
        st.data.length = 64 → RunsTo (.tsendP p) s fun u => flit (fun i => (st.data.getD i 0).toNat) u ∧ (u.me.port p).fetched = r
          ∧ (u.me.port p).pos = ((s.me.port p).pos + 1) % (s.me.port p).period)
    ∧ RunsTo (.tsendV va q) s (flit fun i => ((s.v va)[Fin.ofNat 64 (16 * q.toNat + i / 4)]).toNat / 256 ^ (i % 4) % 256)
    ∧ RunsTo (.tredV isInt va) s (shown (.token isInt (s.v va).toList))
    ∧ (near 256 → RunsTo (.tredMem isInt a imm) s fun u => ∃ es : List (BitVec 32), shown (.token isInt es) u ∧ es.length = 64
        ∧ ∀ i < 64, es.getD i 0 = BitVec.ofNat 32 (leNat ((List.range 4).map fun j => s.seen s.actor (x.toNat + 256 * (i / 16) + 4 * (i % 16) + j))))
    ∧ (∀ (n : Nat) (v : LaneVal), 1 ≤ n → v.n.natAbs < 2 ^ (4 * n - 1) → decodeLane (encodeLane n v) = v)
    ∧ (let addrs := (List.range len.toNat).map ((s.g b).toNat + ·)
      s.destBad (s.g a) = false → s.payloadAccess (s.g b) len.toNat addrs = .ok → s.poisonedAt s.actor addrs = none →
        let queued := t.outQ.filter (·.typ == 0)
        (4 ≤ queued.length → Runs (.tdsend d a b c len) s ((s.useBanks s.actor addrs).laterG 1 d 0))
        ∧ (queued.length < 4 → RunsTo (.tdsend d a b c len) s fun u => Kept s u ∧ u.underWay 1 (.g d 1) ∧ ∃ k : Packet,
            (u.tile id).outQ = t.outQ ++ [k] ∧ k.asid = t.asid ∧ k.srcMod = s.modNum ∧ k.dstMod.toNat = (s.g a).toNat / 2 ^ 51
            ∧ k.dstK.toNat = (s.g a).toNat / 2 ^ 16 % 4 ∧ k.dst.toNat = (s.g a).toNat % 2 ^ 16 ∧ k.tag.toNat = (s.g c).toNat % 2 ^ 16 ∧ k.typ = 0
            ∧ k.payload = addrs.map (s.seen s.actor)))
    ∧ (s.destBad (s.g a) = true → Runs (.tdsend d a b c len) s (s.raise 0x01 (BitVec.ofNat 64 s.wordAt)))
    ∧ (t.recvQ = [] → Runs (.tdrecv d a) s (s.modMe fun c => { c with waits := c.waits ++ [(.tdrecv d a, true)] }) ∧ Runs (.tdrecvNb d a) s (s.laterG 4 d 0))
    ∧ (∀ (k : Packet) (r : List Packet),
        let at_ := (s.g a).toNat
        let word := 2 ^ 63 + k.srcMod.toNat * 2 ^ 50 + k.srcK.toNat * 2 ^ 48 + k.src.toNat * 2 ^ 32 + k.len * 2 ^ 25 + k.tag.toNat
        let took (u : State) : Prop := Same s u ∧ (u.tile id).recvQ = r ∧ ∃ st : PStore, (u.tile id).stores = t.stores ++ [st] ∧ st.due = 2
          ∧ st.bytes = (List.range 64).map fun i => (at_ + i, if i < k.len then k.payload.getD i 0 else 0)
        t.recvQ = k :: r → k.len ≤ 64 → s.check s.actor { store := true, align := 64 } at_ (layout at_ 64) = .ok →
          (RunsTo (.tdrecv d a) s fun u => took u ∧ ∃ tag, (d, tag) ∈ u.me.pending ∧ u.underWay 4 (.remote d (BitVec.ofNat 64 word) tag))
          ∧ RunsTo (.tdrecvNb d a) s fun u => took u ∧ u.underWay 4 (.g d (BitVec.ofNat 64 word)))
    ∧ Runs (.timeT d) s (s.laterG 1 d (s.time + t.timeSkew)) ∧ Runs (.timeV d) s (s.laterG 1 d (BitVec.ofNat 64 (s.vcycOf s.actor).toNat))
    ∧ Runs (.timeOff d) s (s.laterG 1 d (s.time + t.timeSkew - BitVec.ofNat 64 (s.vcycOf s.actor).toNat))

/-- RLD, RST, RAMO, RFENCE, TKT, TSERVE, TADV and the words of page berths complete by asking (R226, R395, R406 to R412): while fewer than 32 requests are
out, the request is outstanding under the core's next tag, its destination pends, it is answered after 2^20 TIME cycles at the latest, and an access of
this module leaves for the feeder over the tile; MOD and SPACE out of range are REMOTE_FAULT and a misaligned address ALIGN. RFENCE waits while a
request is out; a berth that is handed over waits for the remote stores and atomics issued before it (R219, R227); BTAKE of a page sleeps, and so
does TSERVE.

It rests on the model's choices of log 12 and 44.

Completes (exec answers a next state): berthG, bviewG, btakeG, btakeViewG, tkt, tserve, tadv, rld, rst, ramo, rfence. -/
def Obligations.RemoteWords : Prop :=
  ∀ (s : State) (id : Nat) (wk : Bool) (a b c d : Reg) (imm : BitVec 16) (sz : BitVec 2) (uns dword : Bool) (op : AmoOp) (n : BitVec 6), s.actor = .tile id wk →
    let me := s.me
    let sent (g : Word) (k : ReqKind) (dst : Option Reg) (u : State) : Prop := Same s u
      ∧ u.me.reqs = me.reqs ++ [{ tag := me.nextTag, gaddr := g, kind := k, dst := dst, sent := s.time, seq := s.seq }] ∧ u.me.nextTag = me.nextTag + 1
      ∧ (∀ r, dst = some r → (r, me.nextTag) ∈ u.me.pending) ∧ u.me.writes = me.writes
      ∧ (⟨.time (s.time + 2 ^ 20), .remoteTimeout s.actor me.nextTag⟩ : Due) ∈ u.agenda
    let awake (u : State) : Prop := u.me.waits = me.waits
    let leaves (g : Word) (k : ReqKind) (u : State) : Prop := g.toNat / 2 ^ 51 = s.modNum.toNat → me.visit = none → s.feederOk (s.entryFeeder id) = true →
      ∃ p ∈ (u.tile id).outQ, p.dstMod = s.modNum ∧ p.dstK = 1 ∧ p.dst.toNat = s.entryFeeder id
        ∧ p.req = some { srcMod := s.modNum, core := s.actor, tag := me.nextTag, asid := (s.tile id).asid, gaddr := g, kind := k }
    let g := s.g a + imm.signExtend 64
    let inMap (g : Word) : Prop := g.toNat / 2 ^ 51 < 6144 ∧ g.toNat / 2 ^ 48 % 8 ≤ 1
    let words : List (Instr × Nat × ReqKind × Option Reg) :=
      [(.rld sz uns d a imm, 2 ^ sz.toNat, .load (2 ^ sz.toNat) uns, some d), (.rst sz a b imm, 2 ^ sz.toNat, .store (2 ^ sz.toNat) (s.g b), none),
       (.ramo op uns dword d a b c imm, if dword then 8 else 4, .amo op uns dword (s.g b) (s.g c), some d)]
    (∀ w ∈ words, (¬ inMap g → Runs w.1 s (s.raise 0x0A g)) ∧ (inMap g → g.toNat % w.2.1 ≠ 0 → Runs w.1 s (s.raise 0x06 g))
        ∧ (inMap g → g.toNat % w.2.1 = 0 → me.reqs.length < 32 → RunsTo w.1 s fun u => sent g w.2.2.1 w.2.2.2 u ∧ awake u ∧ leaves g w.2.2.1 u))
    ∧ (let due := (∃ o ∈ me.reqs, o.seq < s.seq) ∨ ∃ o ∈ me.ops, o.seq < s.seq ∧ asksAway o.instr = true
      (¬ due → Runs .rfence s s) ∧ (due → Runs .rfence s (s.modMe fun c => { c with waits := c.waits ++ [(.rfence s.seq, true)] })))
    ∧ (me.reqs.length < 32 →
      let page := s.g a
      let taker := s.g b
      let plain := s.takerBad taker = false ∧ isEngineTaker taker = false
      let early := ∃ o ∈ me.ops, o.seq < s.seq ∧ storesAway o.instr = true
      (RunsTo (.tkt d n) s fun u => sent 0 (.tkt n.toNat) (some d) u ∧ awake u) ∧ (RunsTo (.tadv n) s fun u => sent 0 (.tadv n.toNat) none u ∧ awake u)
      ∧ (RunsTo (.tserve a n) s fun u => sent 0 (.tserve n.toNat (BitVec.ofNat 32 (s.g a).toNat)) none u
          ∧ u.me.waits = me.waits ++ [(.tserve n (BitVec.ofNat 32 (s.g a).toNat), true)])
      ∧ (inMap page → plain → me.writesOut = false → ¬ early → (RunsTo (.berthG a b) s fun u => sent page (.berth taker) none u ∧ awake u ∧ leaves page (.berth taker) u)
          ∧ RunsTo (.bviewG a b) s fun u => sent page (.bview taker) none u ∧ awake u ∧ leaves page (.bview taker) u)
      ∧ (inMap page → plain → (me.writesOut = true ∨ early) →
          (RunsTo (.berthG a b) s fun u => Same s u ∧ u.me.reqs = me.reqs
            ∧ u.me.waits = me.waits ++ [(.release { region := .page page, taker := taker, view := false, seq := s.seq }, true)])
          ∧ RunsTo (.bviewG a b) s fun u => Same s u ∧ u.me.reqs = me.reqs
            ∧ u.me.waits = me.waits ++ [(.release { region := .page page, taker := taker, view := true, seq := s.seq }, true)])
      ∧ (inMap page →
          (RunsTo (.btakeG a) s fun u => sent page (.btake false) none u ∧ u.me.waits = me.waits ++ [(.btake (.page page) false s.time, true)])
          ∧ RunsTo (.btakeViewG a) s fun u => sent page (.btakeView false) none u ∧ u.me.waits = me.waits ++ [(.btake (.page page) true s.time, true)])
      ∧ (¬ inMap page → ∀ i ∈ [Instr.berthG a b, .bviewG a b, .btakeG a, .btakeViewG a], Runs i s (s.raise 0x0A page)))

/-- BERTH, BVIEW and BTAKE of a window of the core's tile (R219 to R222, R406 to R408): its holder hands it over or shows it to an allowed taker, in force
two cycles on, HOLDER reading 0 from the next cycle; a window that is not valid is WINDOW, and one not held BERTH with its base; BTAKE takes a passage
in force, HOLDER naming the core from the next cycle, and a view in force ends; with none offered it is BERTH.

It rests on the model's choices of log 15.

Completes (exec answers a next state): berthW, bviewW, btakeW, btakeViewW. -/
def Obligations.WindowBerths : Prop :=
  ∀ (s : State) (id : Nat) (wk : Bool) (w : BitVec 4) (b : Reg), s.actor = .tile id wk → id < 2 ^ 16 →
    let t := s.tile id
    let d := t.win w
    let base := BitVec.ofNat 64 d.base
    let h : Holder := { modl := s.modNum, kind := if wk then 1 else 0, num := BitVec.ofNat 16 id, core := 0, asid := t.asid }
    let code : BitVec 5 := if wk then 2 else 1
    let taker := s.g b
    let four := [Instr.berthW w b, .bviewW w b, .btakeW w, .btakeViewW w]
    (d.valid = false → ∀ i ∈ four, Runs i s (s.raise 0x04 (BitVec.ofNat 64 w.toNat)))
    ∧ (d.valid = true → d.holder ≠ code → Runs (.berthW w b) s (s.raise 0x05 base) ∧ Runs (.bviewW w b) s (s.raise 0x05 base))
    ∧ (d.valid = true → d.holder = code → s.me.writesOut = false → (∀ o ∈ s.me.ops, o.seq < s.seq → storesAway o.instr = false) →
      (s.takerAllowed t.asid (some id) false taker = true → (∀ p : PReg, (s.me.port p).opened = true → (s.me.port p).write = true → (s.me.port p).win ≠ w) →
        RunsTo (.berthW w b) s fun u => Kept s u ∧ (u.tile id).holderNew = t.holderNew ++ [(w, 0)]
          ∧ ((u.tile id).berth w).passage = some { taker := taker, due := 2, giver := some h } ∧ ((u.tile id).berth w).views = [])
      ∧ (s.takerAllowed t.asid (some id) true taker = true → RunsTo (.bviewW w b) s fun u => Kept s u ∧ (u.tile id).holderNew = t.holderNew
          ∧ ((u.tile id).berth w).views = (t.berth w).views ++ [{ taker := taker, due := 2, giver := some h }]))
    ∧ (d.valid = true → (d.holder.toNat < 3 ∨ 6 < d.holder.toNat) →
      (∀ p, (t.berth w).passage = some p → p.taker = h.word → p.due = 0 → RunsTo (.btakeW w) s fun u => Kept s u
        ∧ (u.tile id).holderNew = t.holderNew ++ [(w, code)] ∧ ((u.tile id).berth w).passage = none)
      ∧ (((t.berth w).passage = none ∨ ∃ p, (t.berth w).passage = some p ∧ p.taker ≠ h.word) → Runs (.btakeW w) s (s.raise 0x05 base)))
    ∧ (d.valid = true →
      (∀ v, (t.berth w).views.find? (fun v => v.taker == h.word) = some v → v.due = 0 → RunsTo (.btakeViewW w) s fun u => Kept s u
        ∧ (u.tile id).holderNew = t.holderNew ∧ ((u.tile id).berth w).views = (t.berth w).views.filter (· != v))
      ∧ ((∀ v ∈ (t.berth w).views, v.taker ≠ h.word) → Runs (.btakeViewW w) s (s.raise 0x05 base)))

/-! ### Holds, drift and counter checks (R54 to R75, R404, R405) -/

/-- Holds and drift complete for a crew of the module: HOLDRQ and DRIFT as words; an announcement joins those of its start count, one for a count already run
is LATE with the towline it came by (R69); a release fixes L, one that comes after L is LATE (R71); a hold stands at count 1 and at its end the crew runs its count with what is due at
it (R54, R70), a delivery's start once for each map it matches (R143); a drift pause stands P cycles (R64). A broadcast leaves a crew without skew alone and stops a tile with one (R60), a check loads TIME, and
CREW_START lets the crew run at START when T0 and its correction have come (R67, R111).

It rests on the model's choices of log 5, 43, 49 and 50.

Completes (exec answers a next state): holdrq, vcycBroadcast, crewStart, holdAnnounce, holdStart, holdRelease, holdEnd,
driftPause, timeCheckPulse, referenceLoss, drift. -/
def Obligations.HoldsAndDrift : Prop :=
  ∀ (s : State) (crew : BitVec 16) (n : Nat) (h a : BitVec 48) (len : Nat) (why : HoldWhy) (via : Option Nat) (l : BitVec 16),
    let x := s.slot n
    let r := x.run
    let k : Nat := if len = 0 then 1 else 0
    let msg : HoldMsg := { h := h, len := len, why := why }
    let asked : HoldMsg := { h := r.vcyc + x.rec_.horizon.zeroExtend 48, len := l.toNat, why := .program }
    let number := BitVec.ofNat 64 (via.getD 0)
    let late : Prop := passed h r.vcyc = true ∨ (h = r.vcyc ∧ r.live = true)
    let soonOf (d : Nat) : Word := s.time + BitVec.ofNat 64 d
    (s.slotOf s.actor = some n →
      (RunsTo (.holdrq l) s fun u => Kept s u ∧ (∃ d, 1 ≤ d ∧ d ≤ 32
        ∧ (⟨.time (soonOf d), .holdAnnounce x.rec_.crew r.vcyc asked none⟩ : Due) ∈ u.agenda)
        ∧ ∀ m ∈ x.others s.flight, ∀ k, s.lineTo m = some k → Notice.hold x.rec_.crew r.vcyc asked ∈ (u.towline k).notes)
      ∧ (r.drift.isSome = true → Runs .drift s s)
      ∧ (r.drift = none →
        let acc := s.driftAcc r
        let (p, dc, adj) : Nat × Int × BitVec 8 := if 128 ≤ acc then (2, 1, 0x01) else if acc < -128 then (0, -1, 0xFF) else (1, 0, 0x00)
        RunsTo .drift s fun u => Kept s u ∧ (u.slot n).run = { r with drift := some (r.vcyc, p), driftC := r.driftC + dc, lastAdj := adj, since := 0 }))
    ∧ (s.slotOfCrew crew = some n →
      (late → exec (.holdAnnounce crew a msg via) s = .next (s.seqFault n 0x0D number))
      ∧ (¬ late → (∀ y ∈ r.holds, y.h ≠ h) → Does (.holdAnnounce crew a msg via) s fun u => Same s u ∧ (u.slot n).run.holds = r.holds ++ [⟨h, len, [why], k⟩])
      ∧ (¬ late → ∀ y ∈ r.holds, y.h = h → Does (.holdAnnounce crew a msg via) s fun u => Same s u
          ∧ ⟨h, max y.len len, y.whys ++ [why], y.opens + k⟩ ∈ (u.slot n).run.holds
          ∧ ∀ z ∈ r.holds, z.h ≠ h → z ∈ (u.slot n).run.holds)
      ∧ (∀ y ∈ r.holds, y.h = h → y.opens ≠ 0 →
        (r.vcyc = h → len ≤ r.holdCount → exec (.holdRelease crew ⟨h, len⟩ via) s = .next (s.seqFault n 0x0D number))
        ∧ (¬ (r.vcyc = h ∧ len ≤ r.holdCount) → Does (.holdRelease crew ⟨h, len⟩ via) s fun u => Same s u
            ∧ ⟨h, max y.len len, y.whys, y.opens - 1⟩ ∈ (u.slot n).run.holds ∧ ∀ z ∈ r.holds, z.h ≠ h → z ∈ (u.slot n).run.holds))
      ∧ (Does (.holdStart crew) s fun u => Same s u ∧ (u.slot n).run.holdCount = 1 ∧ (u.slot n).run.live = false ∧ (u.slot n).run.vcyc = r.vcyc
          ∧ (u.slot n).run.rels = r.rels.filter (· != r.vcyc))
      ∧ (Does (.holdEnd crew) s fun u => Same s u ∧ (u.slot n).run.live = true ∧ (u.slot n).run.holdCount = 0 ∧ (u.slot n).run.vcyc = r.vcyc
          ∧ (u.slot n).run.holds = r.holds.filter (fun y => y.h != r.vcyc) ∧ .ev (.vcycBroadcast x.rec_.crew) ∈ u.work
          ∧ ∀ d ∈ s.agenda, d.at_ = .count n r.vcyc → (s.byMap d.ev = [] → .ev d.ev ∈ u.work) ∧ ∀ y ∈ s.byMap d.ev, .ev y.2 ∈ u.work)
      ∧ (∀ e p, r.drift = some (e, p) → Does (.driftPause crew) s fun u => Same s u ∧ (u.slot n).run = { r with pause := p, drift := none })
      ∧ ((∀ t ∈ x.tiles, (s.tile t).vcycSkew.toNat % 2 ^ 16 = 0) → (∀ f ∈ x.feeders, (s.feeder f).vcycSkew.toNat % 2 ^ 16 = 0) →
        exec (.vcycBroadcast crew) s = .next s)
      ∧ (∀ t ∈ x.tiles, (s.tile t).vcycSkew.toNat % 2 ^ 16 ≠ 0 → Does (.vcycBroadcast crew) s fun u => Same s u
          ∧ (u.tile t).stager.run ≠ .running ∧ (u.tile t).worker.run ≠ .running)
      ∧ (x.ready = true → s.time = x.rec_.started + BitVec.ofInt 64 r.driftC → (x.modules ≤ 1 ∨ s.halted = true) →
        (x.rec_.state = .starting ∨ (x.rec_.state = .running ∧ r.stopped = true)) → Does (.crewStart crew) s fun u => Same s u
          ∧ (u.slot n).rec_.state = .running ∧ (u.slot n).run.vcyc = x.rec_.start ∧ (u.slot n).run.stopped = false ∧ (u.slot n).run.draw = none
          ∧ (u.slot n).run.holds = r.holds ∧ (u.slot n).run.sel = r.sel))
    ∧ (Does .timeCheckPulse s fun u => Same s u ∧ (∀ id, (u.tile id).timeSkew = 0) ∧ (∀ f, (u.feeder f).timeSkew = 0) ∧ u.time = s.time
        ∧ (⟨.time (s.time + 2 ^ 20), .timeCheckPulse⟩ : Due) ∈ u.agenda)
    ∧ (Does .referenceLoss s fun u => Same s u ∧ u.pwr.refLost = true ∧ ∀ m, (m, s.slot m) ∈ s.lh.slots → 1 < (s.slot m).modules →
        (s.slot m).rec_.state.placed = true → (s.slot m).modIdx = 0 → ∃ d ∈ u.agenda, ∃ a q, d.ev = .crewFaultReport (s.slot m).rec_.crew 0x0E a q)

/-! ### Selections, phases and starts (R101 to R124, R314) -/

/-- Selections, phases and starts complete for a crew of the module: at the decision the pick becomes the next selection and the switch is due at E + SELLAT
(R117, R118); the switch takes its bank with the row index at 0; an allowance is kept, and a selector hold it covers is let go (R121); a phase that a
member did not report is PHASE_SKEW (R314); an asked module answers once it may bind, and the last answer binds or refuses the crew (R104); a cleared and filled place
is ready (R111); a pass starts the one slot that waits when an origin is free (R124); AGE rises of each slot that waits (R123).

It rests on the model's choices of log 1, 25, 31 and 49.

Completes (exec answers a next state): bindRequest, dispatchReady, selectionDecide, selectionSwitch, phaseCheckTimeout,
bindResponse, allowChange, schedulerPass, ageTick. -/
def Obligations.SelectionsPhasesAndStarts : Prop :=
  ∀ (s : State) (crew : BitVec 16) (n : Nat) (cls : BitVec 3) (e : BitVec 48) (i : Nat) (allow : BitVec 16) (level : BitVec 2) (st : BitVec 8) (res a : Word),
    let x := s.slot n
    let r := x.run
    (s.slotOfCrew crew = some n →
      (∀ v waits, pickVariant (x.ofClass cls) (r.groupSizes e) x.allowance = some (v, waits) → Does (.selectionDecide crew cls e) s fun u => Same s u
        ∧ (∃ q, (u.slot n).run.selNext = some q ∧ q.cls = cls ∧ q.index = v.index ∧ q.bank = v.bank)
        ∧ (⟨.count n (e + x.rec_.sellat.zeroExtend 48), .selectionSwitch crew⟩ : Due) ∈ u.agenda
        ∧ (waits = true → (u.slot n).run.selWait = some (r.vcyc + x.rec_.horizon.zeroExtend 48, v.est.toNat)))
      ∧ (∀ q, r.selNext = some q → Does (.selectionSwitch crew) s fun u => Same s u ∧ (u.slot n).run.sel = some q ∧ (u.slot n).run.selNext = none
          ∧ (u.slot n).run.bank = q.bank ∧ (u.slot n).run.row = 0 ∧ (u.slot n).run.switchAt = r.vcyc)
      ∧ (Does (.allowChange crew i allow) s fun u => Same s u ∧ lookup? (u.slot n).allows i = some allow
          ∧ ∀ h est, r.selWait = some (h, est) → est ≤ (u.slot n).allowance → (u.slot n).run.selWait = none)
      ∧ (∀ p m, r.phases.find? (fun p => p.level == level && p.count == e) = some p →
        lowestMember ((s.reporters x level p.tile).filter fun c => !p.seen.contains c) = some m → Does (.phaseCheckTimeout crew level e) s fun u => Same s u
          ∧ p ∉ (u.slot n).run.phases ∧ (x.modIdx = 0 → ∃ d ∈ u.agenda, ∃ q, d.ev = .crewFaultReport x.rec_.crew 0x12 m.addr q))
      ∧ (x.rec_.state = .starting → Does (.dispatchReady crew) s fun u => (u.slot n).ready = true ∧ (u.slot n).drawn = none
          ∧ (x.modIdx = 0 → x.modules = 1 → (u.slot n).rec_.started = s.time + 2 ^ 16
            ∧ (⟨.time (s.time + 2 ^ 16 + BitVec.ofInt 64 s.phaseCount), .crewStart x.rec_.crew⟩ : Due) ∈ u.agenda)
          ∧ (x.modIdx ≠ 0 → ∀ k, s.lineTo (x.rec_.crew.toNat / 2 ^ 11) = some k → ∃ members, Notice.ready x.rec_.crew x.modIdx members ∈ (u.towline k).notes)
          ∧ (x.drawn = none → x.current = none → (∀ f ∈ x.feeders, (u.feeder f).slot = some n ∧ (u.feeder f).crew = x.rec_.crew)
            ∧ ∀ p ∈ relPlaces (0, 0, x.width - 1, x.height - 1), let y := u.tile (s.rectId (x.rec_.x0.toNat / 31, x.rec_.y0.toNat / 32) p)
              y.slot = some n ∧ y.crew = x.rec_.crew ∧ y.asid = x.rec_.asid ∧ y.v = Vector.replicate 32 (Vector.replicate 64 0)
                ∧ y.z0 = Vector.replicate 256 0 ∧ y.z1 = Vector.replicate 256 0 ∧ y.sluice = Vector.replicate 16 0))
      ∧ (∀ b, s.lh.binds.find? (fun b => b.slot == n && b.left.contains i) = some b → b.left = [i] → b.refusals = [] →
        (st = 0 → Does (.bindResponse crew i st res a) s fun u => SameFiles s u ∧ (u.slot n).pending = false ∧ b ∉ u.lh.binds)
        ∧ (st ≠ 0 → i < 33 → Does (.bindResponse crew i st res a) s fun u => SameFiles s u ∧ lookup? u.lh.slots n = none ∧ b ∉ u.lh.binds
            ∧ ∀ m ∈ x.others s.flight, ∀ k, s.lineTo m = some k → Notice.bindRelease crew ∈ (u.towline k).notes)))
    ∧ (∀ b : BindReq,
      let q : BindAsk := { asid := b.asid, addr := b.image, length := b.length, opts := b.options, mods := optMods b.options, modIdx := b.modIdx }
      let img := s.image b.asid b.image
      let answered (st : BitVec 8) (res log : Word) (u : State) : Prop :=
        ∀ k, s.lineTo (b.crew.toNat / 2 ^ 11) = some k → Notice.bindResponse b.crew b.modIdx st res log ∈ (u.towline k).notes
      (s.mayBind = false → Does (.bindRequest b) s fun u => Same s u ∧ (⟨.time (s.time + 1), .bindRequest b⟩ : Due) ∈ u.agenda)
      ∧ (∀ m, s.mayBind = true → s.memberNo img q = some m → Does (.bindRequest b) s fun u => Same s u ∧ answered m.status m.result m.log u)
      ∧ (∀ m, s.mayBind = true → s.memberNo img q = none → s.freeSlot = some m → Does (.bindRequest b) s fun u => Same s u
          ∧ answered 0 0 (BitVec.ofNat 64 (s.horizonOf img (img.linksOf b.modIdx))) u
          ∧ (u.slot m).rec_.state = .bound ∧ (u.slot m).rec_.crew = b.crew ∧ (u.slot m).rec_.asid = b.asid ∧ (u.slot m).modIdx = b.modIdx))
    ∧ (Does .schedulerPass s fun u => SameFiles s u ∧ ∃ d ∈ u.agenda, d.ev = .schedulerPass)
    ∧ (∀ o, s.halted = false → s.pwr.step = 6 → s.lh.regrading = none → s.lh.slots.filter (fun y => y.2.waiting) = [(n, x)] → x.claim = none →
      (x.modules = 1 ∨ x.go = true) → s.canStart n = some o → Does .schedulerPass s fun u => Same s u ∧ (u.slot n).rec_.state = .starting ∧ (u.slot n).rec_.x0.toNat = 31 * o.1 % 256
        ∧ (u.slot n).rec_.y0.toNat = 32 * o.2 % 256 ∧ (u.slot n).rec_.age = 0 ∧ (∀ t ∈ x.links, (u.towline t).owner = some n)
        ∧ ∃ d ∈ u.agenda, d.ev = .dispatchReady x.rec_.crew)
    ∧ (Does .ageTick s fun u => Same s u ∧ (∃ d ∈ u.agenda, d.ev = .ageTick) ∧ ∀ m, (m, s.slot m) ∈ s.lh.slots →
        (u.slot m).rec_.age = if (s.slot m).rec_.state = .bound ∨ (s.slot m).rec_.state = .preempted then
          (if (s.slot m).rec_.age = 0xFFFF then 0xFFFF else (s.slot m).rec_.age + 1) else (s.slot m).rec_.age)

/-! ### Draw-offs, marks and crew faults (R125, R236 to R244) -/

/-- Draw-offs, marks and crew faults complete for a crew of the module: at a draw-off count its machinery stands, and is saved once its routers and ports
are at rest, what they held in the spill rings, and its requests answered (R125, R183, R244); after the last of its modules it is PREEMPTED, or FREE with a save handle, or its mark stands with its logs empty (R242); the
first report of a fault fixes the fault and the stop's count, which a draw-off already announced keeps (R240); at the stop the crew rewinds, or ends when
ONFAULT is 0, it has rewound three times or its log filled (R241, R243), and with the lockhouse halted it waits (R93); a rewind plays its undo logs back and binds the crew again.

It rests on the model's choices of log 28, 29, 43 and 49.

Completes (exec answers a next state): crewFaultReport, crewFaultStop, rewind, drawOff, drawOffInjectStop, drawOffComplete,
markComplete. -/
def Obligations.DrawOffsMarksAndFaults : Prop :=
  ∀ (s : State) (crew : BitVec 16) (n : Nat) (cause : BitVec 8) (addr : Word) (member : Nat), s.slotOfCrew crew = some n →
    let x := s.slot n
    let r := x.run
    let alone : Prop := x.modIdx = 0 ∧ x.modules = 1
    let saved (v : Saved) : Prop := v.count = r.vcyc ∧ ∀ t ∈ x.tiles,
      (∃ y, (t, y) ∈ v.tiles ∧ { y with links := (s.tile t).links, red := (s.tile t).red, spill := (s.tile t).spill } = s.tile t)
      ∧ ∀ c ∈ s.mem, Config.tileKey t 0 ≤ c.1 → c.1 < Config.tileKey t 0 + 2 ^ 19 → c ∈ v.cells
    let runs : Prop := x.rec_.state = .starting ∨ x.rec_.state = .running ∨ x.rec_.state = .drawing ∨ x.rec_.state = .killing
    let f : FaultRec := { cause := cause, addr := addr, member := member, at_ := r.vcyc }
    let away (u : State) : Prop := ∀ t ∈ x.tiles, (u.tile t).slot = none ∧ (u.tile t).worker.run = .idle ∧ (u.tile t).stager.run = .idle
    (Does (.drawOff crew) s fun u => Same s u ∧ (u.slot n).run.stopped = true ∧ (u.slot n).run.live = false ∧ (u.slot n).run.injectStop = true
        ∧ (r.fault = none → (⟨.time (s.time + BitVec.ofNat 64 (s.saveTime x)), .drawOffComplete crew⟩ : Due) ∈ u.agenda)
        ∧ (r.fault.isSome = true → .ev (.crewFaultStop crew) ∈ u.work))
    ∧ (Does (.drawOffInjectStop crew) s fun u => Same s u ∧ (u.slot n).run = { r with injectStop := r.draw.isSome })
    ∧ (r.stopped = true → r.fault = none →
      (s.unanswered x = true → Does (.drawOffComplete crew) s fun u => Same s u ∧ (⟨.time (s.time + 1), .drawOffComplete crew⟩ : Due) ∈ u.agenda)
      ∧ (s.unanswered x = false →
        (∀ d, r.draw = some d → (d.why = .preempt ∨ d.why = .regrade) → alone → Does (.drawOffComplete crew) s fun u => SameBytes s u ∧ away u
          ∧ (u.slot n).rec_.state = .preempted ∧ (u.slot n).rec_.start = r.vcyc ∧ .ev .schedulerPass ∈ u.work ∧ ∃ v, (u.slot n).drawn = some v ∧ saved v)
        ∧ (∀ d, r.draw = some d → d.why = .host → alone → Does (.drawOffComplete crew) s fun u => away u ∧ lookup? u.lh.slots n = none
          ∧ .ev .schedulerPass ∈ u.work
          ∧ ∃ y ∈ u.lh.saved, y.handle = s.lh.nextHandle ∧ y.asid = x.rec_.asid ∧ ∃ v, y.slot.drawn = some v ∧ saved v)
        ∧ (∀ d, r.draw = some d → d.why = .mark → Does (.drawOffComplete crew) s fun u => Same s u
          ∧ (alone → .ev (.markComplete x.rec_.crew) ∈ u.work) ∧ ∃ v, (u.slot n).drawn = some v ∧ saved v)
        ∧ (x.modIdx ≠ 0 → Does (.drawOffComplete crew) s fun u => Same s u ∧ (∃ v, (u.slot n).drawn = some v ∧ saved v)
          ∧ ∀ k, s.lineTo (x.rec_.crew.toNat / 2 ^ 11) = some k → Notice.drawn crew x.modIdx ∈ (u.towline k).notes)
        ∧ (∀ d, r.draw = some d → x.modIdx = 0 → (∃ m < x.modules, m ≠ 0 ∧ m ∉ d.drawn) → Does (.drawOffComplete crew) s fun u => Same s u
          ∧ (u.slot n).rec_.state = x.rec_.state ∧ ∃ v, (u.slot n).drawn = some v ∧ saved v)))
    ∧ (∀ v, x.drawn = some v → x.rec_.state = .running → r.stopped = true → Does (.markComplete crew) s fun u => Same s u ∧ (u.slot n).current = some v
        ∧ (u.slot n).drawn = none ∧ (u.slot n).undo = [] ∧ (u.slot n).rewinds = 0 ∧ (u.slot n).rec_.start = v.count ∧ (u.slot n).ready = true
        ∧ ∀ t ∈ x.tiles, (u.tile t).dirtymask = 0 ∧ (u.tile t).dirtylog = Vector.replicate 64 0)
    ∧ (runs → r.fault = none → Does (.crewFaultReport crew cause addr member) s fun u => SameFiles s u ∧ (u.slot n).run.fault = some f
        ∧ (r.draw = none → x.rec_.state ≠ .starting → r.stopped = false →
            (u.slot n).run.draw = some { v := r.vcyc + x.rec_.horizon.zeroExtend 48, why := .fault })
        ∧ (r.draw = none → (x.rec_.state = .starting ∨ r.stopped = true) → .ev (.crewFaultStop crew) ∈ u.work)
        ∧ ∀ d, r.draw = some d → (u.slot n).run.draw = some { d with why := .fault })
    ∧ (∀ g, runs → r.fault = some g → Does (.crewFaultReport crew cause addr member) s fun u => Same s u ∧ (u.slot n).run.draw = r.draw
        ∧ (u.slot n).run.fault = some (if g.at_ = r.vcyc ∧ member < g.member then f else g))
    ∧ (∀ g, r.fault = some g →
      (s.halted = true → Does (.crewFaultStop crew) s fun u => Same s u ∧ (u.slot n).run.stopped = true
        ∧ (⟨.time (s.time + 1), .crewFaultStop crew⟩ : Due) ∈ u.agenda)
      ∧ (s.halted = false → x.rec_.onfault = true → r.fatal = false → x.rewinds < 3 → x.rec_.state ≠ .killing → Does (.crewFaultStop crew) s fun u => SameFiles s u
        ∧ (u.slot n).rec_.state = .rewinding ∧ (u.slot n).lastCause = g.cause ∧ (u.slot n).lastAddr = g.addr ∧ (u.slot n).run.stopped = true
        ∧ ∃ d ∈ u.agenda, d.ev = .rewind crew)
      ∧ (s.halted = false → (x.rec_.onfault = false ∨ r.fatal = true ∨ 3 ≤ x.rewinds ∨ x.rec_.state = .killing) → Does (.crewFaultStop crew) s fun u => away u
          ∧ lookup? u.lh.slots n = none))
    ∧ (x.rec_.state = .rewinding → (x.undo.map (·.1)).Nodup → (∀ y ∈ x.undo, y.1 % 128 = 0 ∧ y.2.1.length = 128) → Does (.rewind crew) s fun u => away u
        ∧ (u.slot n).rec_.state = .bound ∧ (u.slot n).rec_.start = (match x.current with | some v => v.count | none => 0)
        ∧ (u.slot n).rewinds = x.rewinds + 1 ∧ (u.slot n).undo = [] ∧ .ev .schedulerPass ∈ u.work
        ∧ (Memory.wf s.mem = true → ∀ y ∈ x.undo, ∀ i < 128, readCell u.mem (y.1 + i) = y.2.1.getD i 0))

/-! ### The ends of waits (R203, R220, R234, R313 to R320, R332, R336, R401, R412) -/

/-- The waits of a core end as the spec says: WAITV's once its target has passed (R313), SLWAIT's when the count suffices, taking its n (R317), PHASE's with
its partner (R314), WAITI's (R320), FENCE's and RFENCE's when nothing is left (R336, R412), TSERVE's when it is served (R234), TDRECV's with a packet,
which it takes (R401), BTAKE's with its offer, or as BERTH after 2^20 cycles (R220). A port drains a line, and fetches a line or a step (R332).

It rests on the model's choices of log 15 and 38.

Completes (exec answers a next state): berthOfferArrive, btakeTimeout, portFetch, waitvExpire, slwaitProceed, phaseWake,
waitiWake, tdrecvWake, tserveWake, fenceRelease, rfenceRelease. -/
def Obligations.WaitsEnd : Prop :=
  ∀ (s : State) (core : CoreRef) (p : PReg), s.coreOk core = true →
    let c := s.core core
    let ends (q : Wait → Bool) (u : State) : Prop := Same s u ∧ (u.core core).waits = c.waits.filter fun w => !(q w.1)
    Does (.waitvExpire core) s (ends fun w => match w with | .waitv v => passed v (s.vcycOf core) | _ => false)
    ∧ Does (.waitiWake core) s (ends (· == .waiti)) ∧ Does (.fenceRelease core) s (ends fenceOver)
    ∧ (∀ (n : BitVec 6) (k : BitVec 32), Does (.tserveWake ⟨core, n, k⟩) s (ends (· == .tserve n k)))
    ∧ (c.partnerPhase = true → (∃ b, (.phase, b) ∈ c.waits) → Does (.phaseWake core) s fun u => ends (· == .phase) u ∧ (u.core core).partnerPhase = false)
    ∧ (∀ q, (∀ o ∈ c.reqs, q ≤ o.seq) → (∀ o ∈ c.ops, o.seq < q → asksAway o.instr = false) → (∀ w ∈ c.waits, ∀ p, w.1 = .rfence p → p = q) →
        Does (.rfenceRelease core) s (ends (· == .rfence q)))
    ∧ (∀ sl n, c.slwait = some (sl, n) → s.sluiceReady core sl n.toNat = true → Does (.slwaitProceed core) s fun u => Same s u ∧ (u.core core).slwait = none
        ∧ (u.core core).granted = true ∧ (u.core core).stand = 0 ∧ match core with
          | .tile id _ => (⟨sl, -(n.toNat : Int), none⟩ : SlUpd) ∈ (u.tile id).slUpd
          | .feeder f _ => (⟨sl, -(n.toNat : Int), none⟩ : SlUpd) ∈ (u.feeder f).slUpd)
    ∧ (∀ g v t b, c.waits = [(.btake g v t, b)] → 2 ^ 20 ≤ (s.time - t).toNat →
        exec (.btakeTimeout core) s = .next (s.raiseWaiting core 0x05 (s.regionAddr g)))
    ∧ (∀ id wk w t b q, core = .tile id wk → c.waits = [(.btake (.window id w) false t, b)] → ((s.tile id).berth w).passage = some q →
        q.taker = (s.asHolder core).word → q.due = 0 → ((s.tile id).win w).holder.toNat < 3 →
          Does (.berthOfferArrive core (BitVec.ofNat 64 (id * 65536 + w.toNat)) false) s fun u => Same s u ∧ (u.core core).waits = []
            ∧ ((u.tile id).berth w).passage = none ∧ (u.tile id).holderNew = (s.tile id).holderNew ++ [(w, if wk then 2 else 1)])
    ∧ (∀ id wk d a b k r, core = .tile id wk → c.waits = [(.tdrecv d a, b)] → (s.tile id).recvQ = k :: r → k.len ≤ 64 →
        let at_ := (c.readG a).toNat
        ({ s with actor := core } : State).check core { store := true, align := 64 } at_ (layout at_ 64) = .ok →
          Does (.tdrecvWake core) s fun u => Same s u ∧ (u.core core).waits = [] ∧ (u.tile id).recvQ = r ∧ (∃ tag, (d, tag) ∈ (u.core core).pending)
            ∧ ∃ st ∈ (u.tile id).stores, st.bytes = (List.range 64).map fun i => (at_ + i, if i < k.len then k.payload.getD i 0 else 0))
    ∧ (let x := c.port p
      let a := s.stepAddr core x x.fpos
      (∀ st rest ad bs, x.opened = true → x.write = true → x.pause = false → x.wbuf = st :: rest → st.lines = [(ad, bs)] → s.slotFree core ad = true →
        Does (.portFetch core p) s fun u => Same s u ∧ ((u.core core).port p).wbuf = rest)
      ∧ (x.opened = true → x.write = false → x.pause = false → x.array = 0 → x.wbuf = [] → x.fetched.length < 4 →
        (∀ fl, s.stepFault core x a = some fl → Does (.portFetch core p) s fun u => Same s u ∧ ((u.core core).port p).fpos = (x.fpos + 1) % x.period
          ∧ ((u.core core).port p).fetched = x.fetched ++ [{ addr := a, data := [], fault := some fl }])
        ∧ (s.stepFault core x a = none → x.partLines = [] → s.slotFree core a.toNat = true → (∀ id, core = .tile id true → (s.tile id).drains = []) →
          (x.bytes ≤ 64 → Does (.portFetch core p) s fun u => Same s u ∧ ((u.core core).port p).fpos = (x.fpos + 1) % x.period
            ∧ ∃ st, ((u.core core).port p).fetched = x.fetched ++ [st] ∧ st.addr = a
              ∧ st.data = (List.range x.bytes).map fun i => s.seen core (a.toNat + i))
          ∧ (64 < x.bytes → Does (.portFetch core p) s fun u => Same s u ∧ ((u.core core).port p).fetched = x.fetched
              ∧ ((u.core core).port p).partLines.map (·.1) = [(List.range 64).map fun i => s.seen core (a.toNat + i)]))))

/-! ### The aqueduct's events (R131 to R151, R252, R253, R386, R387) -/

/-- The aqueduct's events complete: a queued block is copied when its lines are present, else given up as LATE (R386), and modulated onto every rung of
its set that drops light, for a delivery 40 counts on (R131, R141), unless its crew is to be drawn off (R150); a weight read without data announces an
open hold, and data ends the read (R74); a start beat that one map hears begins its delivery into the chamber slot or a weir place, or is lost (R140 to
R145), and a delivery that completes fills its slot, counts its sluice and lets a free
worker's armed word enter (R141, R142); taps without their rail take nothing (R24); a scrub or an evicted line poisons (R252, R253); a laser's gap
ends in 2 ms (R24), and in a count that its crew runs a feeder without light faults the crews of the blocks it modulates, and in no hold (R148).

It rests on the model's choices of log 5, 13 and 36.

Completes (exec answers a next state): weightReadRetry, weightReadData, dirtyLineEvict, finjCopy, injectionModulate,
deliveryStart, deliveryComplete, laserFailover, scrubRead. -/
def Obligations.AqueductEvents : Prop :=
  ∀ (s : State) (f id line tile addr laser : Nat) (lane : BitVec 2) (lams : BitVec 16) (tag bad : BitVec 8) (tm : BitVec 48) (light : Light)
    (only : Option (BitVec 3)), s.feederOk f = true → s.tileOk tile = true →
    let x := s.feeder f
    let t := s.tile tile
    (∀ b, x.queue.find? (·.id == id) = some b →
      let e := x.entryFor b.group b.t
      let off := b.gaddr.toNat % 2 ^ 21
      (∀ p, e.valid = true → s.feederPage f (s.slot b.slot).rec_.asid b.gaddr = some p →
        ((∀ l, pageLine p off ≤ l → l ≤ pageLine p (off + e.size - 1) → l ∈ x.present) → s.poisonedSector (pageKey p off) e.size = none → x.lineWrites = [] →
          Does (.finjCopy f id) s fun u => Same s u ∧ ∀ y ∈ (u.feeder f).queue, y.id = id →
            y.copied = some (readCells s.mem (pageKey p off) (min 4096 (2 ^ 21 - off) / 8 * 8)))
        ∧ (∀ l, pageLine p off ≤ l → l ≤ pageLine p (off + e.size - 1) → l ∉ x.present → Does (.finjCopy f id) s fun u => Same s u
            ∧ (∀ y ∈ (u.feeder f).queue, y.id ≠ id) ∧ ∀ c : Fin 4, (u.feeder f).cores[c].run ≠ .running))
      ∧ (∀ bs, (s.slot b.slot).run.injectStop = false → (∀ d, (s.slot b.slot).run.draw = some d → b.t ≠ d.v - 40) → b.copied = some bs → s.laserOut f = false →
        let y := x.foldGroups b.t
        let e := y.entryFor b.group b.t
        let set := if e.deal then e.pat (lookupD y.deal b.group.toNat 0) else 0
        e.valid = true → Does (.injectionModulate f id) s fun u => Same s u ∧ (∀ y ∈ (u.feeder f).queue, y.id ≠ id)
          ∧ { group := b.group, t := b.t, data := bs.take e.size } ∈ (u.feeder f).replay
          ∧ ∀ r ∈ e.rungs, r.set = set → r.code ≠ 0 → ∀ j, s.rungTile f r = some j → (⟨.count b.slot (b.t + 40),
              .deliveryStart j (laneOfGuide f r.wg) (lamsOf e.lam0 e.width) b.group f b.t ⟨e.beatsOf bs, []⟩ none⟩ : Due) ∈ u.agenda)
      ∧ ((s.slot b.slot).run.injectStop = true → exec (.injectionModulate f id) s = .next s))
    ∧ (∀ r, x.reads.find? (·.line == line) = some r →
      (r.retried = true → exec (.weightReadRetry f line) s = .next s)
      ∧ (r.retried = false → Does (.weightReadRetry f line) s fun u => Same s u ∧ (∀ y ∈ (u.feeder f).reads, y.line = line → y.retried = true ∧ y.held = true)
          ∧ ∃ d, 1 ≤ d ∧ d ≤ 32 ∧ (⟨.time (s.time + BitVec.ofNat 64 d), .holdAnnounce (s.slot r.slot).rec_.crew (s.slot r.slot).run.vcyc
              { h := (s.slot r.slot).run.vcyc + (s.slot r.slot).rec_.horizon.zeroExtend 48, len := 0, why := .weightRead } none⟩ : Due) ∈ u.agenda)
      ∧ Does (.weightReadData f line) s fun u => Same s u ∧ line ∈ (u.feeder f).present ∧ ∀ y ∈ (u.feeder f).reads, y.line ≠ line)
    ∧ (let hears (l : Nat) : Prop := l < 16 ∧ lams.getLsbD l = true ∧ t.tuned lane l = true
      let hit (i : Nat) : Prop := (t.map i).en = true ∧ (t.map i).group = tag ∧ (t.map i).lane = lane
        ∧ ∃ l, hears l ∧ (t.map i).lam0 ≤ l ∧ l < (t.map i).lam0 + (t.map i).width
      ((∀ i < 8, ¬ hit i) ∨ s.transit tile = false) → Does (.deliveryStart tile lane lams tag f tm light only) s fun u => Same s u ∧ (u.tile tile).blocks = t.blocks)
    ∧ (∀ i < 8,
      let m := t.map i
      let hears (l : Nat) : Prop := l < 16 ∧ lams.getLsbD l = true ∧ t.tuned lane l = true
      let hit (i : Nat) : Prop := (t.map i).en = true ∧ (t.map i).group = tag ∧ (t.map i).lane = lane
        ∧ ∃ l, hears l ∧ (t.map i).lam0 ≤ l ∧ l < (t.map i).lam0 + (t.map i).width
      let whole : Prop := ∀ l, m.lam0 ≤ l → l < m.lam0 + m.width → lams.getLsbD l = true ∧ t.tuned lane l = true ∧ (0, l, StoreErr.uncorrectable) ∉ light.errs
      hit i → (∀ j < 8, j ≠ i → ¬ hit j) → s.transit tile = true → (only = none ∨ only = some (BitVec.ofNat 3 i)) →
        Does (.deliveryStart tile lane lams tag f tm light only) s fun u => Same s u
        ∧ (u.tile tile).arrmap[Fin.ofNat 8 i] = m.advance
        ∧ ∃ b, (u.tile tile).blocks = t.blocks ++ [b] ∧ b.slot = m.next ∧ b.map.toNat = i ∧ b.group = tag ∧ b.t = tm ∧ b.data = light.data ∧ b.age = 0 ∧ b.full = false
          ∧ (∀ pl, whole → t.berthFor m.next = some pl → b.lost = false ∧ b.place = pl) ∧ (¬ whole ∨ t.berthFor m.next = none → b.lost = true))
    ∧ (∀ b, t.blocks.find? (·.id == id) = some b →
      (b.lost = true → Does (.deliveryComplete tile id) s fun u => Same s u ∧ (u.tile tile).blocks = t.blocks.filter (·.id != id))
      ∧ (b.lost = false → Does (.deliveryComplete tile id) s fun u => Same s u ∧ (∃ y ∈ (u.tile tile).blocks, y.id = id ∧ y.full = true ∧ y.slot = b.slot)
          ∧ ((t.worker.timed = true ∨ ∀ a ∈ t.arms, a.block ≠ some id) → (u.tile tile).arms = t.arms.filter (fun a => a.block != some id))
          ∧ (t.worker.timed = false → ∀ a, t.arms = [a] → a.block = some id → (∀ h ∈ t.worker.holds, h.col ≠ .m) →
              ∃ o ∈ (u.core (.tile tile true)).ops, o.instr = a.instr ∧ o.due = 1 + a.d ∧ o.seq = a.seq ∧ o.block = some id)
          ∧ ((t.map b.map.toNat).slen = true → (⟨(t.map b.map.toNat).sluice, 1, none⟩ : SlUpd) ∈ (u.tile tile).slUpd)))
    ∧ (addr < 2 ^ 19 → exec (.scrubRead tile addr .none) s = .next s
      ∧ (Does (.scrubRead tile addr .corrected) s fun u => Same s u ∧ u.poison = s.poison)
      ∧ Does (.scrubRead tile addr .uncorrectable) s fun u => Same s u ∧ Config.tileKey tile (addr / 8 * 8) ∈ u.poison)
    ∧ (Does (.dirtyLineEvict f line bad) s fun u => Same s u ∧ line ∉ (u.feeder f).present
        ∧ ∀ k < 8, bad.getLsbD k = true → Config.weightKey f (line * 128) + 16 * k ∈ u.poison)
    ∧ (laser < 4 → Does (.laserFailover laser) s fun u => Same s u ∧ ∃ d ≤ 2500000, (laser, s.time + BitVec.ofNat 64 d) ∈ u.pwr.lasersOut)
    ∧ (∀ n, x.slot = some n →
      ((s.slot n).run.live = false → s.lightCycle f = s)
      ∧ ((s.slot n).run.live = true → s.laserOut f = true → ∀ y ∈ x.flying, y.dark = false → ((s.slot n).run.vcyc - y.t).toNat < y.beats →
        (s.slot y.slot).modIdx = 0 → ∃ d ∈ (s.lightCycle f).agenda, ∃ q, d.ev = .crewFaultReport (s.slot y.slot).rec_.crew 0x09 (BitVec.ofNat 64 f) q))

/-! ### The towpath's and the towlines' events (R32 to R47, R153 to R181) -/

/-- The towpath's and the towlines' events complete: a flit goes to the outputs that the row in force names (R158, R161), and those of a retiming buffer
appear at their count (R41); a token is written through its descriptor, whose NEXT advances (R162, R163); a packet's head hops with its fields brought
forward (R173), a packet's head sets LATLAST (R179), and a packet delivered reaches its queue, core or towline (R177); a frame is sent, sent again at most
seven times, and taken or NACKed, and the position it announces is in force two frames on (R35 to R42, R44); a step that no symbol forbids announces
the next position, lanes walk, are parked, and dark ones are known, each direction for itself (R44 to R47); a HELLO is heard on its wire (R16, R180).

It rests on the model's choices of log 1, 11, 32, 41, 42 and 52.

Completes (exec answers a next state): frameReplay, staticFlitHandoff, laneRotationStep, staticFlitHop, tokenEject, dynPacketHop,
dynPacketDeliver, frameSend, hello, frameReceive, weakLane, laneSignalLoss. -/
def Obligations.TowpathEvents : Prop :=
  ∀ (s : State) (tile tl lane : Nat) (ejd : BitVec 4) (rfx : BitVec 3) (flits : List FlitBits) (p : Packet) (seq : BitVec 12) (fr : Frame) (bad differ : Bool)
    (port : BitVec 2) (code : BitVec 3), s.tileOk tile = true → tl < 64 → lane < 17 →
    let t := s.tile tile
    let x := s.towline tl
    (∀ n, t.slot = some n →
      ((s.slot n).run.live = false → exec (.staticFlitHop tile) s = .next s)
      ∧ ((s.slot n).run.live = true → s.dead tile = false →
        let row := s.rowWord tile
        (∀ k j l d, k < 4 → j < 4 → rowSrc row k = j + 1 → (∀ r, t.red = some r → r.outs.getLsbD k = false) →
          t.links.find? (fun l => l.due == 0 && l.inp.toNat == j) = some l → s.neighbour tile k = some d → (s.tile d).slot = some n → s.holeAt tile k d = false →
          s.fenced d = false → Does (.staticFlitHop tile) s fun u => Same s u
            ∧ (⟨BitVec.ofNat 3 ((k + 2) % 4), s.hopCounts tile d, l.flit⟩ : LinkFlit) ∈ (u.tile d).links)
        ∧ (rowRed row ≠ 0 → t.red = none → Does (.staticFlitHop tile) s fun u => Same s u
            ∧ ∃ r, (u.tile tile).red = some r ∧ r.op = rowRed row ∧ r.mask = rowMask row ∧ r.left = rowT row ∧ r.ejd = rowEjd row)))
    ∧ (∀ n, x.owner = some n → (s.slot n).run.live = true → Does (.staticFlitHandoff tl) s fun u => Same s u
        ∧ (u.towline tl).retime = x.retime.filter (fun r => r.count != (s.slot n).run.vcyc)
        ∧ ∀ r ∈ x.retime, r.count = (s.slot n).run.vcyc →
          (⟨edgePort (.towline tl), 0, r.flit⟩ : LinkFlit) ∈ (u.tile (s.towlineTile tl r.port.toNat)).links)
    ∧ (t.ejecting = [] →
      let d := t.desc ejd
      let w := t.win (ejWin d)
      let bytes := ejectBytes (ejOutf d) (((t.rfmt[rfx.toNat]'(by omega)).extractLsb' 0 9).toInt) false flits
      let off : Int := (ejBase d + ejNext d * ejStride d) * 64
      (ejEn d = true → w.valid = true → 0 ≤ off → off + bytes.length ≤ w.size → w.holder = 5 → Does (.tokenEject tile ejd rfx flits) s fun u => Same s u
        ∧ (u.tile tile).stores = t.stores ++ [{ due := 2, owner := none, bytes := keyed (w.base + off.toNat) bytes, bad := [] }]
        ∧ (u.tile tile).desc ejd = ejSetNext d ((ejNext d + 1) % ejCount d))
      ∧ ((ejEn d = false ∨ w.valid = false ∨ off < 0 ∨ (w.size : Int) < off + bytes.length ∨ w.holder ≠ 5) → Does (.tokenEject tile ejd rfx flits) s fun u =>
          Same s u ∧ (u.tile tile).stores = t.stores ∧ (u.tile tile).desc ejd = d))
    ∧ (∀ d k j, s.dead tile = false → t.dyn = [d] → t.outHolds = [] → d.due = 0 → d.body = false → d.inp.toNat < 5 → nextDir d.pkt = some k → k < 4 →
        s.neighbour tile k = some j → s.stopOf tile d.pkt = none → s.outOpen tile (BitVec.ofNat 3 k) = true →
        (BitVec.ofNat 3 ((k + 2) % 4), (hopped d.pkt).ch) ∉ (s.tile j).off → Does (.dynPacketHop tile) s fun u => Same s u ∧ (u.tile tile).dyn = []
          ∧ (u.tile j).dyn = (s.tile j).dyn ++ [{ inp := BitVec.ofNat 3 ((k + 2) % 4), due := s.hopCounts tile j, body := false, pkt := hopped d.pkt }])
    ∧ ((p.head = true ∨ p.len = 0) → Does (.dynPacketDeliver tile p) s fun u => SameFiles s u ∧ (u.tile tile).latlast = latWord p s.time)
    ∧ (p.head = true → Does (.dynPacketDeliver tile p) s fun u => Same s u ∧ u.towlines = s.towlines ∧ u.work = s.work ∧ u.agenda = s.agenda)
    ∧ (p.head = false → Does (.dynPacketDeliver tile p) s fun u => SameFiles s u
        ∧ (∀ y, s.exitSite p = .towline y → (s.towline y).up = true → (u.towline y).dynOut = (s.towline y).dynOut ++ [p])
        ∧ (∀ id, s.exitSite p = .tile id → p.offer = none → p.ans = none → p.req = none →
            (u.tile id).recvQ = if p.asid = (s.tile id).asid then (s.tile id).recvQ ++ [p] else (s.tile id).recvQ)
        ∧ (∀ r a, (∀ y, s.exitSite p ≠ .towline y) → p.offer = none → p.ans = some (r, a) → .ev (.remoteAnswer r p.tag a) ∈ u.work)
        ∧ (∀ r g v, (∀ y, s.exitSite p ≠ .towline y) → p.offer = some (r, g, v) → (⟨.time (s.time + 1), .berthOfferArrive r g v⟩ : Due) ∈ u.agenda))
    ∧ (x.up = true →
      (x.replayQ = [] → Does (.frameSend tl) s fun u => Same s u ∧ (u.towline tl).seqNext = x.seqNext + 1 ∧ (u.towline tl).nacks = x.nacks.drop 1
        ∧ (x.outLanes.walkTo = none → (u.towline tl).outLanes.rot = x.outLanes.next ∧ (u.towline tl).outLanes.next = x.outLanes.goal)
        ∧ ∃ f, .frame tl f ∈ u.outbox ∧ f.seq = x.seqNext ∧ f.ackseq = x.nacks.headD x.ackSeq ∧ f.nack = !x.nacks.isEmpty ∧ f.rot = x.outLanes.goal
          ∧ f.resv = false)
      ∧ (∀ q r, x.replayQ = q :: r → Does (.frameSend tl) s fun u => Same s u ∧ (u.towline tl).replayQ = r ∧ .ev (.frameReplay tl q) ∈ u.work)
      ∧ (x.frameBad fr bad = true → Does (.frameReceive tl fr bad) s fun u => Same s u ∧ fr.seq ∈ (u.towline tl).nacks
          ∧ (u.towline tl).ackSeq = x.ackSeq ∧ (u.towline tl).retime = x.retime)
      ∧ (x.frameBad fr bad = false → Does (.frameReceive tl fr bad) s fun u => SameFiles s u)
      ∧ (x.frameBad fr bad = false → (∀ m, .notice m ∉ fr.slots) → Does (.frameReceive tl fr bad) s fun u => Same s u ∧ (u.towline tl).ackSeq = fr.seq
          ∧ (u.towline tl).nacks = x.nacks ∧ (fr.nack = true → fr.ackseq ∈ (u.towline tl).replayQ)
          ∧ (x.inLanes.walkTo = none → (u.towline tl).inLanes.rot = x.inLanes.next ∧ (u.towline tl).inLanes.next = fr.rot)
          ∧ ∀ n pt o g, s.slotOfCrew fr.crewTag = some n → .static pt o g ∈ fr.slots →
            let c := fr.vstamp + o.zeroExtend 48 + x.lat.zeroExtend 48
            passed c (s.slot n).run.vcyc = false → (c = (s.slot n).run.vcyc → (s.slot n).run.live = false) →
              ⟨c, pt, g⟩ ∈ (u.towline tl).retime ∧ (⟨.count n c, .staticFlitHandoff tl⟩ : Due) ∈ u.agenda))
    ∧ (∀ f, x.sent.find? (fun f => f.frame.seq == seq) = some f →
      (f.sendings < 7 → Does (.frameReplay tl seq) s fun u => Same s u ∧ { f with sendings := f.sendings + 1 } ∈ (u.towline tl).sent
        ∧ .frame tl { f.frame with ackseq := x.nacks.headD x.ackSeq, nack := !x.nacks.isEmpty, rot := x.outLanes.goal } ∈ u.outbox)
      ∧ (7 ≤ f.sendings → Does (.frameReplay tl seq) s fun u => SameFiles s u ∧ (u.towline tl).up = false))
    ∧ (∀ out : Bool,
      let dir : TowDir := ⟨tl, out⟩
      let l := x.lanes out
      let one (p g : Nat) : Nat := if p < g then p + 1 else if g < p then p - 1 else g
      ((x.up = false ∨ l.step ≠ some s.time) → exec (.laneRotationStep dir differ) s = .next s)
      ∧ (x.up = true → l.step = some s.time →
        (l.walkTo = none → l.parked = none → out = true → Does (.laneRotationStep dir differ) s fun u => Same s u
          ∧ (∃ b, (⟨.time (s.time + 2 ^ 24), .laneRotationStep dir b⟩ : Due) ∈ u.agenda)
          ∧ (differ = true → (u.towline tl).outLanes.goal = l.goal)
          ∧ (differ = false → ((u.towline tl).outLanes.goal = l.goal - 1 ∨ (u.towline tl).outLanes.goal = l.goal + 1)
              ∧ (l.goal = 16 → (u.towline tl).outLanes.goal = 15) ∧ (l.goal = 0 → (u.towline tl).outLanes.goal = 1)))
        ∧ (∀ w, l.walkTo = some w → Does (.laneRotationStep dir differ) s fun u => Same s u ∧
          (w < 17 → l.goal.toNat < 17 → l.rot.toNat < 17 → (differ = false ∨ w ∈ l.dark) →
            (out = true → (u.towline tl).outLanes.goal.toNat = one l.goal.toNat w)
            ∧ (out = false → l.unreadable = true → (u.towline tl).inLanes.rot.toNat = one l.rot.toNat w)
            ∧ (out = false → l.unreadable = false → (u.towline tl).inLanes.rot = l.rot))
          ∧ (differ = true → w ∉ l.dark → ((u.towline tl).lanes out).goal = l.goal ∧ ((u.towline tl).lanes out).rot = l.rot)))
      ∧ (l.parked = none → l.walkTo = none → (l.rot.toNat ≠ lane ∨ l.next ≠ l.rot ∨ l.goal ≠ l.rot) → Does (.weakLane dir lane) s fun u => Same s u
          ∧ ((u.towline tl).lanes out).walkTo = some lane ∧ ∃ b, (⟨.time (s.time + 2 ^ 16), .laneRotationStep dir b⟩ : Due) ∈ u.agenda)
      ∧ (l.parked = none → l.walkTo = none → l.rot.toNat = lane → l.next = l.rot → l.goal = l.rot → Does (.weakLane dir lane) s fun u => Same s u
          ∧ ((u.towline tl).lanes out).parked = some lane)
      ∧ ((l.parked.isSome = true ∨ l.walkTo.isSome = true) → Does (.weakLane dir lane) s fun u => Same s u ∧ u.towline tl = x)
      ∧ (lane ∉ l.dark → Does (.laneSignalLoss dir lane) s fun u => Same s u ∧ ((u.towline tl).lanes out).dark = lane :: l.dark))
    ∧ (∀ wire : BitVec 2, (wire = 0 ∨ (wire ≠ 3 ∧ port.toNat % 2 = 0)) → s.pwr.greeting = 1 → code.toNat ≤ 2 → Does (.hello tile ⟨port, wire⟩ code) s fun u =>
        Same s u ∧ u.heardOn tile port.toNat wire.toNat = code
        ∧ ∀ k < 4, ∀ w < 4, (k ≠ port.toNat ∨ w ≠ wire.toNat) → u.heardOn tile k w = s.heardOn tile k w)

/-! ### Remote requests, the ferry and tickets (R51 to R53, R226 to R234, R250, R411) -/

/-- Remote requests complete: one whose page hits at its home feeder is performed and answered, one that misses waits for a walk (R51, R52, R216), which
fills the entry and lets it go on; an answer closes its request, its data lands two cycles later and a refusal traps (R395, R411), and none after 2^20
cycles is REMOTE_NACK (R53); a page moves line by line with its entry last (R233); a free stager at rest boards the ferry and returns home (R250, R251);
a dispenser counts its tickets (R234).

It rests on the model's choices of log 7, 12 and 44.

Completes (exec answers a next state): pageWalkDone, remoteRequestReceive, remoteTimeout, remoteAnswer, pageMigration,
migrationClose, ferryOffer, ferryReturn, ticketRequest. -/
def Obligations.RemoteEvents : Prop :=
  ∀ (s : State) (f id home : Nat) (wk : Bool) (q : Req) (tag asid : BitVec 16) (a : Ans) (gaddr : Word) (core : CoreRef), s.feederOk f = true →
    s.feederOk home = true → s.coreOk core = true →
    let x := s.iface (.feeder f)
    let c := s.core core
    let ours : Prop := q.copy = false ∧ q.srcMod = s.modNum ∧ q.core = .tile id wk ∧ s.tileOk id = true ∧ (s.core q.core).visit = none
    let answered (a : Ans) (l : List Packet) : Prop := ∃ p ∈ l, p.ans = some (q.core, a) ∧ p.tag = q.tag ∧ p.dstMod = s.modNum ∧ p.dst.toNat = id
    let waits := x.walking q
    (x.walks = [] → x.hits q.asid (gPage q.gaddr) = true → ours → ∀ p, s.pageOf q.asid q.gaddr = some p → attrForbid p q.copy q.kind = false →
      gSpace q.gaddr = 1 → pageHome p = f → s.migrationOf q.asid q.gaddr = none →
      let k := pageKey p (q.gaddr.toNat % 2 ^ 21)
      (∀ n uns, q.kind = .load n uns → s.poisonedSector k n = none → Does (.remoteRequestReceive (.feeder f) q) s fun u => Same s u
        ∧ answered (.data (extendBytes uns (readCells s.mem k n))) (u.feeder f).outQ)
      ∧ (∀ n v, q.kind = .store n v → s.mayStorePage (reqHolder q) p = true → p.repl = false → Memory.wf s.mem = true → Does (.remoteRequestReceive (.feeder f) q) s fun u =>
          SameFiles s u ∧ answered .ack (u.feeder f).outQ ∧ (∀ i < n, readCell u.mem (k + i) = (leBytes n v.toNat).getD i 0)
            ∧ ∀ j, (j < k ∨ k + n ≤ j) → readCell u.mem j = readCell s.mem j)
      ∧ (∀ n v, q.kind = .store n v → s.mayStorePage (reqHolder q) p = false → Does (.remoteRequestReceive (.feeder f) q) s fun u => Same s u
          ∧ answered (.fault 0x05) (u.feeder f).outQ))
    ∧ (∀ w, x.walks = [(w, false)] → waits = false → x.hits q.asid (gPage q.gaddr) = true → s.destOf (.feeder f) w = s.destOf (.feeder f) q →
        (s.destOf (.feeder f) q).isSome = true → Does (.remoteRequestReceive (.feeder f) q) s fun u => Same s u
        ∧ (u.iface (.feeder f)).walks = [(w, false), (q, true)])
    ∧ ((waits = true ∨ x.hits q.asid (gPage q.gaddr) = false) → Does (.remoteRequestReceive (.feeder f) q) s fun u => Same s u
        ∧ (u.iface (.feeder f)).walks = x.walks ++ [(q, false)] ∧ (waits = false → ∃ d ∈ u.agenda, d.ev = .pageWalkDone (.feeder f) q.asid q.gaddr))
    ∧ (s.halted = true → exec (.pageWalkDone (.feeder f) asid gaddr) s = .next s)
    ∧ (s.halted = false → Does (.pageWalkDone (.feeder f) asid gaddr) s fun u => SameFiles s u
        ∧ (∀ w ∈ (u.iface (.feeder f)).walks, w.1.asid = asid → gPage w.1.gaddr = gPage gaddr → w.2 = true)
        ∧ ((s.pageOf asid gaddr).isSome = true → (u.iface (.feeder f)).hits asid (gPage gaddr) = true))
    ∧ ((∀ o ∈ c.reqs, o.tag ≠ tag) → exec (.remoteAnswer core tag a) s = .next s)
    ∧ (∀ o, c.reqs.find? (fun o => o.tag == tag) = some o → c.waits = [] → c.visit = none →
      (∀ v d, o.dst = some d → Does (.remoteAnswer core tag (.data v)) s fun u => Same s u ∧ (u.core core).reqs = c.reqs.filter (fun o => o.tag != tag)
        ∧ (⟨3, o.seq, .remote d v tag⟩ : PendWr) ∈ (u.core core).writes)
      ∧ (Does (.remoteAnswer core tag .ack) s fun u => Same s u ∧ (u.core core).reqs = c.reqs.filter (fun o => o.tag != tag) ∧ (u.core core).writes = c.writes)
      ∧ (Does (.remoteAnswer core tag .nack) s fun u => Same s u ∧ (u.core core).traps = c.traps ++ [(0x0B, o.gaddr, false)]
          ∧ (u.core core).pending = c.pending.filter fun x => x.2 != tag))
    ∧ (∀ o b q, c.reqs = [o] → o.tag = tag → c.ops = [] → c.traps = [] → c.waits = [(.rfence q, b)] → Does (.remoteAnswer core tag .ack) s fun u => Same s u
        ∧ .ev (.rfenceRelease core) ∈ u.work)
    ∧ (∀ o ∈ c.reqs, o.tag = tag → 2 ^ 20 ≤ (s.time - o.sent).toNat → Does (.remoteTimeout core tag) s fun u => Same s u
        ∧ .ev (.remoteAnswer core tag .nack) ∈ u.work)
    ∧ (∀ p, s.pageOf asid gaddr = some p →
      (∀ i, s.migrationOf asid gaddr = none → gSpace gaddr = 1 → p.pins = 0 → pageHome p ≠ home → (s.freePage home).1 = some i →
        Does (.pageMigration asid gaddr home) s fun u => Same s u ∧ (⟨.time (s.time + 1), .pageMigration asid gaddr home⟩ : Due) ∈ u.agenda
          ∧ ∃ m ∈ u.lh.migrations, m.page = p.page ∧ m.oldF = pageHome p ∧ m.newF = home ∧ m.copied = 0 ∧ m.step = 1)
      ∧ (∀ m, s.migrationOf asid gaddr = some m → m.step = 1 → Memory.wf s.mem = true → Does (.pageMigration asid gaddr home) s fun u => SameFiles s u
          ∧ (∀ i < 128, readCell u.mem (pageKey { p with phys := m.newPhys } (m.copied * 128) + i) = s.latestWeight m.oldF (pageKey p (m.copied * 128) + i))
          ∧ (m.copied + 1 < 16384 → (⟨.time (s.time + 1), .pageMigration asid gaddr home⟩ : Due) ∈ u.agenda)
          ∧ (16384 ≤ m.copied + 1 → (⟨.time (s.time + 2 ^ 20), .migrationClose p.page⟩ : Due) ∈ u.agenda
              ∧ (u.pageOf asid gaddr).map (·.phys) = some m.newPhys)))
    ∧ (∀ m page, s.lh.migrations.find? (fun m => m.page == page && m.step == 2) = some m →
      let mark : Req := { srcMod := s.modNum, core := .feeder m.oldF 0, tag := 0, asid := 0, gaddr := BitVec.ofNat 64 (page * 2 ^ 21), kind := .marker }
      (s.feederOk m.newF = true → Does (.migrationClose page) s fun u => Same s u ∧ u.lh.migrations = s.lh.migrations
        ∧ ∃ p ∈ (u.feeder m.oldF).outQ, p.req = some mark ∧ p.dst.toNat = m.newF)
      ∧ (page < 2 ^ 43 → s.arriveAtHome m.newF (some m.oldF) mark =
          m.queued.foldl (fun s q => s.requestAtHome m.newF none q) { s with lh := { s.lh with migrations := s.lh.migrations.filter (· != m) } }))
    ∧ (core = .tile id false → c.timed = false → c.run = .running → c.visit = none → (∃ o, c.reqs = [o] ∧ o.tag = tag) → (∀ p : PReg, (c.port p).opened = false) →
        s.inPassage (s.asHolder core) = false → Does (.ferryOffer core tag f) s fun u => Same s u
          ∧ (∃ k, (u.core core).visit = some { feeder := f, fcore := k, since := s.time }) ∧ (⟨.time (s.time + 2 ^ 20), .ferryReturn core⟩ : Due) ∈ u.agenda)
    ∧ (∀ v, c.visit = some v → (v.leaving = true ∨ 2 ^ 20 ≤ (s.time - v.since).toNat ∨ s.drawAnnounced core = true) →
      (c.writesOut = false → Does (.ferryReturn core) s fun u => Same s u ∧ (u.core core).visit = none
        ∧ ∀ k, v.fcore = some k → (u.core (.feeder v.feeder k)).guest = none)
      ∧ (c.writesOut = true → Does (.ferryReturn core) s fun u => Same s u ∧ (u.core core).visit = some { v with leaving := true }))
    ∧ (∀ rx ry n m, rx < 8 → ry < 6 → s.slotAtReach rx ry = some n →
      let d := (s.reach rx ry).dispenser m
      let at_ := s.anchorTile (s.slot n)
      (q.kind = .tkt m → Does (.ticketRequest rx ry q) s fun u => Same s u ∧ (u.reach rx ry).dispenser m = (d.1 + 1, d.2)
        ∧ (ours → answered (.data (d.1.zeroExtend 64)) (u.tile at_).outQ))
      ∧ (q.kind = .tadv m → Does (.ticketRequest rx ry q) s fun u => Same s u ∧ (u.reach rx ry).dispenser m = (d.1, d.2 + 1)
          ∧ (ours → answered .ack (u.tile at_).outQ))
      ∧ ∀ k, q.kind = .tserve m k → Does (.ticketRequest rx ry q) s fun u => Same s u ∧ (u.reach rx ry).dispenser m = d
          ∧ (ours → answered (if d.2 = k then .ack else .asleep) (u.tile at_).outQ))

/-! ### Power, reset and heat (R22 to R31, R97, R122, R180 to R184) -/

/-- Power and heat complete: PWR_EN starts the sequence (R25), whose steps go on to READY, and the greeting fixes NBRSTAT (R180); PWR_EN low leaves nothing
but flash, grade and host memory, and a reset pulse of 10 µs keeps the weight store (R30, R31); a warning holds the crews at its sensor and lowers
allowances, a limit holds every crew, and below 90 % of the cap the holds are let go (R27, R122); a trip takes every rail but the control die's (R27); a
reach's voltage follows its slack within 0.64 V and 0.78 V, and above a re-grading begins, which ends as R18 grades (R28, R29); a reach without its core
rail has no cores, one without its transit rail is a hole (R24, R184).

It rests on the model's choices of log 5, 7, 30, 31, 51 and 55.

Completes (exec answers a next state): coreRailReturn, powerEnable, powerSequenceStep, greetingPhase, powerDisable, regradeDone,
resetPulse, thermalWarning, thermalLimit, thermalTrip, powerWarning, powerLimit, powerLimitRelease, voltageReplan, coreRailLoss,
transitRailLoss, transitConverterLoss. -/
def Obligations.PowerAndHeat : Prop :=
  ∀ (s : State) (z : Sensor) (mean cycles rx ry slack : Nat) (second : Bool), s.sensorOk z = true → s.reachOk rx ry = true →
    let next (u : State) : Prop := ∃ d ∈ u.agenda, d.ev = .powerSequenceStep
    let told (u : State) (m : Nat) (a : Notice) : Prop := ∀ t, s.lineTo ((s.slot m).rec_.crew.extractLsb' 11 5).toNat = some t → a ∈ (u.towline t).notes
    let limited (u : State) : Prop := u.lh.limit = true ∧ ∀ m, (m, s.slot m) ∈ s.lh.slots → (s.slot m).counting = true → (∀ x ∈ s.lh.limitHeld, x.1 ≠ m) →
      let x := s.slot m
      let h := x.run.vcyc + x.rec_.horizon.zeroExtend 48
      (m, h) ∈ u.lh.limitHeld
        ∧ (x.modIdx = 0 → ∃ d ∈ u.agenda, d.ev = .holdAnnounce x.rec_.crew x.run.vcyc { h := h, len := 0, why := .limit } none)
        ∧ (x.modIdx ≠ 0 → told u m (.askHold x.rec_.crew x.modIdx .limit))
    let quiet (i : Instr) : Prop := s.halted = true → Does i s fun u => Same s u ∧ u.lh.slots = s.lh.slots ∧ u.lh.limitHeld = s.lh.limitHeld
    (s.pwr.pwrEn = true → exec .powerEnable s = .next s)
    ∧ (s.pwr.pwrEn = false → Does .powerEnable s fun u => (s.graded = s → Same s u) ∧ u.pwr.pwrEn = true ∧ u.pwr.tripN = true ∧ u.pwr.step = 1
        ∧ u.lh.bootCount = s.lh.bootCount + 1 ∧ next u)
    ∧ (s.pwr.step = 1 → Does .powerSequenceStep s fun u => Same s u ∧ u.pwr.step = 2 ∧ u.pwr.rails.control = true ∧ next u)
    ∧ (s.pwr.step = 2 → Does .powerSequenceStep s fun u => Same s u ∧ match s.lh.bootBank with
        | some b => u.pwr.step = 3 ∧ u.lh.phase = .triplex ∧ u.lh.bankActive = b ∧ u.lh.measure[(1 : Fin 5)] = digest (s.lh.bank b) ∧ next u
        | none => u.lh.phase = s.lh.phase ∧ .console ∈ u.outbox)
    ∧ (s.pwr.step = 3 → s.reachesGood = false → exec .powerSequenceStep s = .next s)
    ∧ (s.pwr.step = 3 → s.reachesGood = true → Does .powerSequenceStep s fun u => Same s u ∧ u.pwr.step = 4 ∧ u.pwr.off = false
        ∧ (s.pwr.rails.control = true → u.pgood = true) ∧ (∀ id, (u.tile id).timeSkew = 0) ∧ next u)
    ∧ (s.pwr.step = 4 → Does .powerSequenceStep s fun u => Same s u ∧ u.pwr.step = 5 ∧ u.pwr.greeting = 0
        ∧ (⟨.time (s.time + 2 ^ 16), .greetingPhase⟩ : Due) ∈ u.agenda)
    ∧ (s.pwr.step = 5 → s.pwr.greeting = 2 → Does .powerSequenceStep s fun u => (s.graded = s → SameFiles s u) ∧ u.pwr.step = 6 ∧ u.pwr.routes ≠ 0
        ∧ (∀ x y, x < 8 → y < 6 → u.reachOk x y = true → ∃ d ∈ u.agenda, ∃ l, d.ev = .voltageReplan x y l)
        ∧ (∃ d ∈ u.agenda, d.ev = .timeCheckPulse) ∧ (∃ d ∈ u.agenda, d.ev = .schedulerPass) ∧ ∃ d ∈ u.agenda, d.ev = .ageTick)
    ∧ (s.pwr.step = 5 → s.pwr.greeting = 0 → Does .greetingPhase s fun u => Same s u ∧ u.pwr.greeting = 1 ∧ u.pwr.health = s.free + 1 ∧ (∀ id, (u.tile id).heard = [])
        ∧ (⟨.time (s.time + 2 ^ 16), .greetingPhase⟩ : Due) ∈ u.agenda)
    ∧ (s.pwr.step = 5 → s.pwr.greeting = 1 → Does .greetingPhase s fun u => Same s u ∧ u.pwr.greeting = 2 ∧ .ev .powerSequenceStep ∈ u.work)
    ∧ (Does .powerDisable s fun u => u.pwr.pwrEn = false ∧ u.tiles = [] ∧ u.feeders = [] ∧ u.lh.slots = [] ∧ u.lh.log = [] ∧ u.agenda = [] ∧ u.grade = s.grade
        ∧ u.modNum = s.modNum ∧ ∀ k < 2 ^ 64, readCell u.mem k = 0)
    ∧ ((cycles < 12500 ∨ s.pwr.pwrEn = false) → exec (.resetPulse cycles) s = .next s)
    ∧ (12500 ≤ cycles → s.pwr.pwrEn = true → Does (.resetPulse cycles) s fun u => u.tiles = [] ∧ u.lh.slots = [] ∧ u.lh.log = s.lh.log
        ∧ u.pwr.step = 2 ∧ next u ∧ (∀ k, isTileKey k = true → readCell u.mem k = 0)
        ∧ (Memory.wf s.mem = true → ∀ k, isTileKey k = false → readCell u.mem k = readCell s.mem k))
    ∧ quiet (.thermalWarning z) ∧ quiet (.thermalLimit z) ∧ quiet (.powerLimit mean) ∧ quiet (.powerWarning mean)
    ∧ (s.halted = false → Does (.thermalWarning z) s fun u => SameFiles s u ∧ ∀ m ∈ s.crewsAt z,
        let x := s.slot m
        (x.modIdx = 0 → ∃ d ∈ u.agenda, d.ev = .holdAnnounce x.rec_.crew x.run.vcyc { h := x.drawCount x.run.vcyc, len := 65536, why := .warning } none)
        ∧ (x.modIdx ≠ 0 → told u m (.askHold x.rec_.crew x.modIdx .warning)))
    ∧ (s.halted = false → Does (.thermalLimit z) s fun u => Same s u ∧ limited u)
    ∧ (mean ≤ s.lh.powerCap.toNat → exec (.powerLimit mean) s = .next s)
    ∧ (s.halted = false → s.lh.powerCap.toNat < mean → Does (.powerLimit mean) s fun u => Same s u ∧ limited u)
    ∧ (mean * 100 ≤ s.lh.powerCap.toNat * 95 → exec (.powerWarning mean) s = .next s)
    ∧ (∀ n e, s.halted = false → s.lh.powerCap.toNat * 95 < mean * 100 → s.runningLow = [(n, s.slot n)] → (s.slot n).currentEst = some e →
        e < (s.slot n).rec_.allow.toNat → Does (.powerWarning mean) s fun u => Same s u ∧ (u.slot n).rec_.allow = BitVec.ofNat 16 e)
    ∧ ((s.lh.powerCap.toNat * 90 ≤ mean * 100 ∨ s.halted = true) → exec (.powerLimitRelease mean) s = .next s)
    ∧ (mean * 100 < s.lh.powerCap.toNat * 90 → s.halted = false → Does (.powerLimitRelease mean) s fun u => Same s u ∧ u.lh.limitHeld = []
        ∧ u.lh.limit = false ∧ ∀ x ∈ s.lh.limitHeld,
        let y := s.slot x.1
        let now : Prop := y.run.vcyc = x.2 ∧ y.run.holdCount ≠ 0
        (now → y.modIdx = 0 → ∃ d ∈ u.agenda, d.ev = .holdRelease y.rec_.crew ⟨x.2, y.run.holdCount + y.rec_.horizon.toNat⟩ none)
        ∧ (¬ now → y.modIdx = 0 → x.2 ∈ (u.slot x.1).run.rels)
        ∧ (y.modIdx ≠ 0 → told u x.1 (.endHold y.rec_.crew y.modIdx .limit)))
    ∧ (Does (.thermalTrip z) s fun u => u.pwr.tripN = false ∧ u.pgood = false ∧ u.pwr.step = 0 ∧ (∀ k < 2 ^ 64, readCell u.mem k = 0)
        ∧ u.pwr.rails = { s.pwr.rails with feeder := false, hbm := false, laser := false } ∧ u.tiles = [] ∧ u.feeders = []
        ∧ (∀ m, (m, s.slot m) ∈ s.lh.slots → (s.slot m).rec_.state ≠ .free → (u.slot m).run.stopped = true)
        ∧ (∀ id, u.powered id = false ∧ u.transit id = false) ∧ ∀ d ∈ u.agenda, d.ev ≠ .powerSequenceStep)
    ∧ (let v := (s.reach rx ry).volts
      let w := max 1280 (if slack < 40 then v + 10 else if 64 < slack then v - 5 else v)
      Does (.voltageReplan rx ry slack) s fun u => SameFiles s u ∧ (u.reach rx ry).volts = min 1560 w ∧ (1560 < w → u.lh.regrading.isSome = true)
        ∧ ∃ d ∈ u.agenda, ∃ l, d.ev = .voltageReplan rx ry l)
    ∧ (∀ o, s.lh.regrading = some o →
      ((∃ x ∈ s.lh.slots, x.2.holdsPlace = true) → Does .regradeDone s fun u => Same s u ∧ (⟨.time (s.time + 1), .regradeDone⟩ : Due) ∈ u.agenda)
      ∧ (∀ n, (n, s.slot n) ∈ s.lh.slots → (s.slot n).rec_.state = .running → (s.slot n).run.draw = none → (s.slot n).run.stopped = false →
          (s.slot n).run.wish = none → (s.slot n).boundary = none → Does .regradeDone s fun u => (u.slot n).run.wish = some (s.time + 2 ^ 30))
      ∧ (let s' := { s with worn := o :: s.worn }
        (∀ x ∈ s.lh.slots, x.2.holdsPlace = false) → Does .regradeDone s fun u => u.lh.regrading = none ∧ u.worn = s'.worn ∧
          match s'.gradeOf with
          | some (g, some col) => u.lh.regraded = some g ∧ u.retired = some col
              ∧ (s.retired ≠ some col → u.grade = g ∧ u.tiles = [] ∧ u.pwr.greeting = 0) ∧ (s.retired = some col → SameFiles s u ∧ u.grade = s.grade)
          | some (g, none) => u.lh.regraded = some g ∧ u.grade = g ∧ u.retired = none
          | none => SameFiles s u ∧ u.grade = s.grade ∧ u.lh.regraded = some 0)
      ∧ (let s' := { s with worn := o :: s.worn }
        ((∀ k < 8, k ≠ o.1 → s'.colBad k = false) → (o.1 = 0 ∨ o.1 = 7) → s'.gradeOf = some (0x0936, some o.1))
        ∧ (0 < o.1 → o.1 < 7 → s'.gradeOf = none)))
    ∧ (Does (.coreRailLoss rx ry) s fun u => Same s u ∧ (u.reach rx ry).coreGood = false ∧ u.pgood = false ∧ ∀ t ∈ s.reachTiles rx ry, u.powered t = false
        ∧ (u.tile t).worker.run ≠ .running ∧ (u.tile t).stager.run ≠ .running)
    ∧ (Does (.coreRailReturn rx ry) s fun u => Same s u ∧ (u.reach rx ry).coreGood = true
        ∧ (s.pwr.off = false → ∀ t ∈ s.reachTiles rx ry, u.powered t = true)
        ∧ (s.pwr.step = 3 → .ev .powerSequenceStep ∈ u.work) ∧ (s.pwr.step ≠ 3 → .ev .schedulerPass ∈ u.work))
    ∧ (let dark (u : State) : Prop := Same s u ∧ (u.reach rx ry).transitGood = false ∧ (u.reach rx ry).hole = true ∧ u.pgood = false
        ∧ ∀ t ∈ s.reachTiles rx ry, (u.tile t).dyn = [] ∧ (u.tile t).links = [] ∧ (u.tile t).red = none ∧ u.transit t = false
      Does (.transitRailLoss rx ry) s dark
        ∧ ((s.reach rx ry).converterOut = none → Does (.transitConverterLoss rx ry second) s fun u => Same s u ∧ (u.reach rx ry).converterOut = some second
            ∧ (u.reach rx ry).transitGood = (s.reach rx ry).transitGood)
        ∧ ((s.reach rx ry).converterOut = some (!second) → Does (.transitConverterLoss rx ry second) s dark))

/-! ### The host's ports and the vote (R76 to R85, R90 to R94) -/

/-- The host's ports complete: an entry of 64 bytes at an aperture is accepted while fewer than DEPTH commands are in flight, else counted in DROPPED (R80,
R81); CQHEAD moves forward, at most to the last completion written (R82); the oldest completion goes to its slot with PHASE in word 0 (R84), and an
interrupt follows; BAR0's ring registers keep what R78 lets them; a commit on which two copies agree stands, one copy that disagrees goes out of the vote,
and without two the lockhouse halts (R91, R93) until LHCTL restarts it (R94); a copy restored joins again (R92).

It rests on the model's choices of log 5, 37, 45 and 53.

Completes (exec answers a next state): completionWrite, voteCommit, voteTimeout, resyncDone, submit, cqheadWrite, lhctlRestart,
lockhouseRestartDone, bar0Write. -/
def Obligations.HostPortAndVote : Prop :=
  ∀ (s : State) (port off qid addr : Nat) (data : List Byte) (val : Word) (m : Voted) (c0 c1 c2 : Option Word) (agree : Bool), port < 4 → votedOk m = true →
    let power := s.pwr.pwrEn
    let p := Fin.ofNat 4 port
    let v : BitVec 32 := val.extractLsb' 0 32
    let w := copyWord c0 c1 c2
    let voted (i : Instr) : Prop :=
      (∀ x, agreed s.liveCopies w = some x → Does i s fun u => SameFiles s u ∧ lookup? u.lh.words addr = some x
        ∧ (∀ k, s.liveCopies.find? (fun i => w i ≠ some x) = some k → u.lh.phase = .duplex ∧ u.lh.out = BitVec.ofNat 3 (2 ^ k)
            ∧ ∃ d ∈ u.agenda, d.ev = .resyncDone)
        ∧ (s.liveCopies.find? (fun i => w i ≠ some x) = none → u.lh.phase = s.lh.phase ∧ u.lh.out = s.lh.out))
      ∧ (agreed s.liveCopies w = none → Does i s fun u => SameFiles s u ∧ u.lh.phase = .halted ∧ u.lh.accepted = [] ∧ u.lh.open_ = [] ∧ u.lh.words = s.lh.words
          ∧ ∀ n, (n, s.slot n) ∈ s.lh.slots → (s.slot n).modIdx = 0 → ((s.slot n).counting = true ∨ (s.slot n).ready = true) →
            s.timedMembers (s.slot n) ≠ [] →
            let x := s.slot n
            let m : HoldMsg := { h := x.nextCount + x.rec_.horizon.zeroExtend 48, len := 0, why := .halt }
            (n, m.h) ∈ u.lh.haltHeld ∧ ∃ d ∈ u.agenda, d.ev = .holdAnnounce x.rec_.crew x.nextCount m none)
    (power = false → exec (.bar0Write port (off % 2 ^ 20) val) s = .next s ∧ exec (.lhctlRestart port val) s = .next s
      ∧ exec (.submit port (off % 2 ^ 27) data) s = .next s ∧ exec (.cqheadWrite port (off % 2 ^ 27) val) s = .next s)
    ∧ (power = true →
      (∀ q, off < 2 ^ 27 → s.aperture port off = some q →
        (off % 4096 = 0 → data.length = 64 → q.inflight < q.depth → s.lh.phase ≠ .halted → Does (.submit port off data) s fun u => Same s u
          ∧ (u.queue? q.qid).map (·.inflight) = some (q.inflight + 1) ∧ ∃ c, u.lh.accepted = s.lh.accepted ++ [c] ∧ c.qid = q.qid
            ∧ c.opc = data.getD 0 0 ∧ c.flags = data.getD 1 0 ∧ c.cid.toNat = leNat ((data.drop 2).take 2) ∧ c.resv.toNat = leNat ((data.drop 4).take 4)
            ∧ c.w1.toNat = leNat ((data.drop 8).take 8) ∧ c.w7.toNat = leNat (data.drop 56))
        ∧ (off % 4096 = 0 → data.length = 64 → q.depth ≤ q.inflight → Does (.submit port off data) s fun u => Same s u ∧ u.lh.accepted = s.lh.accepted
            ∧ (u.queue? q.qid).map (·.dropped) = some (q.dropped + 1))
        ∧ (off % 4096 = 0x40 → (v - q.cqhead).toNat ≤ (BitVec.ofNat 32 q.written - q.cqhead).toNat → Does (.cqheadWrite port off val) s fun u => SameFiles s u
            ∧ (u.queue? q.qid).map (·.cqhead) = some v)
        ∧ (off % 4096 = 0x40 → (BitVec.ofNat 32 q.written - q.cqhead).toNat < (v - q.cqhead).toNat → Does (.cqheadWrite port off val) s fun u => Same s u
            ∧ u.lh.queues = s.lh.queues))
      ∧ (Does (.bar0Write port 0x10 val) s fun u => SameFiles s u ∧ u.lh.admBase[p] = val &&& ~~~0xFFF)
      ∧ (Does (.bar0Write port 0x18 val) s fun u => SameFiles s u ∧ u.lh.admCfg[p] = val &&& 0xF07FF)
      ∧ (val.getLsbD 0 = true → s.lh.phase = .halted → s.lh.spent = false → Does (.lhctlRestart port val) s fun u => Same s u ∧ u.lh.phase = .restarting))
    ∧ (s.lh.phase = .restarting → Does (.lockhouseRestartDone agree) s fun u => SameFiles s u ∧
        if agree = true ∧ s.lh.bootBank.isSome = true then u.lh.phase = .triplex ∧ u.lh.out = 0 ∧ u.lh.disputed = none ∧ u.lh.haltHeld = []
        else u.lh.phase = .halted ∧ u.lh.spent = true ∧ u.lh.accepted = [] ∧ u.lh.open_ = [])
    ∧ ((s.lh.phase = .triplex ∨ s.lh.phase = .duplex) → voted (.voteTimeout m addr c0 c1 c2)
        ∧ ((∀ i ∈ s.liveCopies, (w i).isSome = true) → voted (.voteCommit m addr c0 c1 c2)))
    ∧ (s.lh.phase = .duplex → Does .resyncDone s fun u => SameFiles s u ∧ u.lh.phase = .triplex ∧ u.lh.out = 0)
    ∧ (∀ q base size e t, s.queue? qid = some q → s.ringOf q = some (base, size) → q.room size = true → s.nextWaiting q = some (e, t) → Memory.wf s.mem = true →
        Does (.completionWrite qid) s fun u => SameFiles s u ∧ (∃ x ∈ u.outbox, x = .msix q.port (s.vecOf q))
          ∧ let at_ := base + 32 * (q.written % 2 ^ size)
            let word (k : Nat) : Nat := leNat (readCells u.mem (Config.hostKey (at_ + 8 * k)) 8)
            word 0 = (completionWord e (q.written / 2 ^ size % 2 == 0)).toNat ∧ word 1 = e.result.toNat ∧ word 2 = e.logaddr.toNat ∧ word 3 = e.time.toNat)

/-! ### The host's commands (R83 to R89, R95 to R98, R101 to R110, R246 to R249) -/

/-- The queue, report and flight commands complete (R40, R49, R83, R86, R87, R89, R95, R97, R98): a reserved field that is not zero is MALFORMED and an
administrative command of a tenant PRIVILEGE; with their operands in range each leaves what it names: the description, a queue, an event port, a cap, the
oldest records, a signed image in the inactive bank, a report, the towlines' latencies, the routes. A buffer that does not answer is HOST_DMA.

It rests on the model's choices of log 8, 9, 10, 23 and 53.

Completes (exec answers a next state): identify, createQueue, deleteQueue, queryQueue, calibrate, route, power, readLog, attest,
fwStage, events. -/
def Obligations.QueueAndFlightCommands : Prop :=
  ∀ (s : State) (c : HostCmd), Memory.wf s.mem = true →
    let q := s.queueOf c
    let low (w : Word) (lo n : Nat) : Nat := w.toNat / 2 ^ lo % 2 ^ n
    let fine (admin : Bool) (flags : BitVec 8) (ops : List Fields) : Prop := malformedAt c flags ops = none ∧ (admin = true → q.admin = true)
    let completes (i : Instr) (st : BitVec 8) (r : Word) (P : State → Prop) : Prop := ∃ (v : State) (log : Word), exec i s = .next (v.complete c st r log) ∧ SameFiles s v ∧ P v
    let buffer (i : Instr) (a : Word) (n : Nat) (P : Prop) : Prop := if Config.hostOk a n = true then P else completes i 0x04 0 fun v => v = s
    let bytes (v : State) (a : Word) (n : Nat) : List Byte := readCells v.mem (Config.hostKey a.toNat) n
    let w := wholeWord
    let all : List (Instr × Bool × BitVec 8 × List Fields) :=
      [(.identify c, false, 0, [w]), (.createQueue c, true, 0, [[(0, 15), (16, 2), (20, 1), (32, 16)], w, [(0, 9), (16, 4), (32, 11)]]),
       (.deleteQueue c, true, 0, [[(0, 15)]]), (.queryQueue c, false, 0, [[(0, 15)]]), (.events c, true, 0, [[(0, 2)]]),
       (.aspaceCreate c, true, 0, aspaceFields), (.aspaceDestroy c, true, 0, aspaceFields), (.mapPages c, true, 0, [w, w, [(0, 35)], [(0, 16)]]),
       (.unmapPages c, true, 0, [w, [], [(0, 32)], [(0, 16)]]), (.copyIn c, false, 0, [w, w, w]), (.copyOut c, false, 0, [w, w, w]),
       (.launch c, false, 0, [w, w, optFields]), (.kill c, false, 0, [[(0, 16)]]), (.draw c, false, 0, [[(0, 16)]]), (.resume c, false, 0, [w, [], optFields]),
       (.discard c, false, 0, [w]), (.crewStatus c, false, 0, [[(0, 16)], w]), (.calibrate c, true, 0, [[(0, 5)], w]),
       (.route c, true, 0, [[(0, 13)], [(0, 14)], w]), (.poundDefine c, true, 0, poundFields), (.poundFence c, true, 0, poundFields),
       (.poundReset c, true, 0, poundFields), (.poundRelease c, true, 0, poundFields), (.power c, true, 0, [[(0, 16)]]), (.readLog c, true, 0, [w, [(0, 11)]]),
       (.attest c, false, 1, [w, w, w, [(0, 16)]]), (.fwStage c, true, 0, [w, w])]
    (∀ x ∈ all, (∀ b, malformedAt c x.2.2.1 x.2.2.2 = some b → exec x.1 s = .next (s.complete c 0x01 0 (BitVec.ofNat 64 b)))
      ∧ (malformedAt c x.2.2.1 x.2.2.2 = none → x.2.1 = true → q.admin = false → exec x.1 s = .next (s.complete c 0x02 0 (BitVec.ofNat 64 (4096 * c.qid)))))
    ∧ (fine false 0 [w] → c.w1.toNat % 8 = 0 → buffer (.identify c) c.w1 4096 (completes (.identify c) 0 (s.grade.zeroExtend 64) fun v =>
        bytes v c.w1 4096 = fit 4096 (s.gridBytes ++ leBytes 8 s.fingerprint.toNat ++ leBytes 2 s.modNum.toNat ++ leBytes 2 s.flight.toNat
          ++ (s.lh.measure.toList.flatMap fun m => leBytes 32 m.toNat) ++ Config.versions s.bootedFirmware)))
    ∧ (let n := low c.w1 0 15
      let depth := low c.w3 0 9
      let size := low c.w3 16 4
      (fine true 0 [[(0, 15), (16, 2), (20, 1), (32, 16)], w, [(0, 9), (16, 4), (32, 11)]] →
        ((s.queue? n).isSome = true → completes (.createQueue c) 0x03 0 fun v => v = s)
        ∧ (s.queue? n = none → 1 ≤ depth → depth ≤ 256 → depth + 64 ≤ 2 ^ size → c.w2.toNat % 4096 = 0 → completes (.createQueue c) 0 0 fun v =>
            ∃ y ∈ v.lh.queues, y.qid = n ∧ y.port = low c.w1 16 2 ∧ y.asid.toNat = low c.w1 32 16 ∧ (y.admin = true ↔ low c.w1 20 1 = 1) ∧ y.ring = c.w2
              ∧ y.depth = depth ∧ y.size = size ∧ y.vec.toNat = low c.w3 32 11 ∧ y.inflight = 0 ∧ y.written = 0))
      ∧ (∀ y, fine true 0 [[(0, 15)]] → s.queue? n = some y → 4 ≤ n → n ≠ c.qid → ∃ (v : State) (log : Word), exec (.deleteQueue c) s =
          .next (v.complete c 0 (BitVec.ofNat 64 y.inflight) log) ∧ (∀ z ∈ v.lh.queues, z.qid ≠ n) ∧ (∀ z ∈ v.lh.accepted, z.qid ≠ n) ∧ ∀ z ∈ v.lh.open_, z.qid ≠ n)
      ∧ (∀ y, fine false 0 [[(0, 15)]] → s.queue? n = some y → (q.admin = true ∨ n = c.qid) → completes (.queryQueue c) 0
          (y.dropped ++ (0 : BitVec 23) ++ BitVec.ofNat 9 y.inflight) fun v => v = s))
    ∧ (fine true 0 [[(0, 2)]] → completes (.events c) 0 0 fun v => v.lh.evPort.toNat = low c.w1 0 2 ∧ v.lh.evlost = 0)
    ∧ (fine true 0 [[(0, 16)]] → 1600 ≤ low c.w1 0 16 → low c.w1 0 16 ≤ 3200 → ∃ (v : State) (log : Word), exec (.power c) s =
        .next ((v.complete c 0 (BitVec.ofNat 64 (low c.w1 0 16)) log).soon .schedulerPass) ∧ v.lh.powerCap.toNat = low c.w1 0 16)
    ∧ (let n := low c.w2 0 11
      let rs := (s.lh.log.filter (·.unread)).take n
      fine true 0 [w, [(0, 11)]] → 1 ≤ n → n ≤ 1024 → c.w1.toNat % 8 = 0 → buffer (.readLog c) c.w1 (32 * n)
        (completes (.readLog c) 0 (BitVec.ofNat 64 rs.length) fun v => bytes v c.w1 (32 * rs.length) = rs.flatMap (fun r => leBytes 32 r.bits.toNat)
          ∧ v.lh.log.filter (·.unread) = (s.lh.log.filter (·.unread)).drop n ∧ v.lh.log.length = s.lh.log.length ∧ v.lh.lost = 0))
    ∧ (let n := c.w2.toNat
      let bs := bytes s c.w1 n
      fine true 0 [w, w] → n ≤ 2 ^ 24 → n % 8 = 0 → c.w1.toNat % 8 = 0 → buffer (.fwStage c) c.w1 n
        (if Config.slhVerify Config.vendorRoot bs = true then completes (.fwStage c) 0 0 fun v => v.lh.bank (!s.lh.bankActive) = bs ∧ v.lh.bank s.lh.bankActive = s.lh.bank s.lh.bankActive
            ∧ v.lh.staged = true
          else completes (.fwStage c) 0x0E 0 fun v => v = s))
    ∧ (let chain := c.flags.getLsbD 0
      let n := if chain then 77160 else 17344
      fine false 1 [w, w, w, [(0, 16)]] → n ≤ c.w2.toNat → c.w2.toNat % 8 = 0 → c.w1.toNat % 8 = 0 → c.w3.toNat % 8 = 0 → buffer (.attest c) c.w1 n
        (buffer (.attest c) c.w3 32 (completes (.attest c) 0 (BitVec.ofNat 64 n) fun v => bytes v c.w1 256 = s.reportBytes c (bytes s c.w3 32))))
    ∧ (fine true 0 [[(0, 5)], w] →
      ((∃ x ∈ s.lh.slots, 1 < x.2.modules) → completes (.calibrate c) 0x0F 0 fun v => v = s)
      ∧ ((∀ x ∈ s.lh.slots, x.2.modules ≤ 1) → c.w2.toNat % 8 = 0 → buffer (.calibrate c) c.w2 Config.flightMapLen (∃ (v : State) (log : Word) (k : Nat),
          exec (.calibrate c) s = .next (v.complete c 0 ((v.towline 0).lat.zeroExtend 64) log) ∧ v.flight.toNat = low c.w1 0 5
            ∧ (v.lh.flightMods, v.isRef) = Config.flightMap (bytes s c.w2 Config.flightMapLen) (c.w1.extractLsb' 0 5) ∧ (v.isRef = true → v.time = s.time)
            ∧ ∀ i < 64,
            match Config.calibrated k i with
            | some (f, peer) => (v.towline i).up = true ∧ (v.towline i).lat = 3 * f + 68 ∧ (v.towline i).peer = peer
            | none => (v.towline i).up = false)))
    ∧ (let first := low c.w1 0 13
      let n := low c.w2 0 14
      let b (i : Nat) : Byte := readCell s.mem (Config.hostKey c.w3.toNat + i)
      fine true 0 [[(0, 13)], [(0, 14)], w] → first + n ≤ 8192 → c.w3.toNat % 8 = 0 → buffer (.route c) c.w3 n (∃ st,
        (st = 0 ↔ ∀ i < n, routeOk (b i) = true) ∧ (st = 0 ∨ st = 0x01) ∧ completes (.route c) st 0 fun v =>
          ∀ i < n, (∀ j ≤ i, routeOk (b j) = true) → first + i < 6144 → lookup? v.lh.routes (first + i) = some (b i)))

/-- The commands on address spaces, pages and pounds complete (R86, R87, R215 to R218, R246, R248, R249): an address space is made, or goes with its
mappings; every page of a range is mapped to its physical page at rest, or is unmapped with the interfaces' entries; a copy moves the bytes of a page that
the host may reach; a pound is defined, fenced, cleared and let go, and its fence faults every crew it meets.

It rests on the model's choices of log 14, 23 and 53.

Completes (exec answers a next state): poundFenceEffect, poundResetDone, aspaceCreate, aspaceDestroy, mapPages, unmapPages,
copyIn, copyOut, poundDefine, poundFence, poundReset, poundRelease. -/
def Obligations.SpaceAndPoundCommands : Prop :=
  ∀ (s : State) (c : HostCmd), Memory.wf s.mem = true →
    let q := s.queueOf c
    let fine (admin : Bool) (ops : List Fields) : Prop := malformedAt c 0 ops = none ∧ (admin = true → q.admin = true)
    let completes (i : Instr) (st : BitVec 8) (r : Word) (P : State → Prop) : Prop := ∃ (v : State) (log : Word), exec i s = .next (v.complete c st r log) ∧ SameFiles s v ∧ P v
    let buffer (i : Instr) (a : Word) (n : Nat) (P : Prop) : Prop := if Config.hostOk a n = true then P else completes i 0x04 0 fun v => v = s
    let w := wholeWord
    let a : BitVec 16 := c.w1.extractLsb' 0 16
    let asid : BitVec 16 := c.w4.extractLsb' 0 16
    let n := c.w3.toNat % 2 ^ 32
    (fine true aspaceFields → c.w2 = 0 →
      ((∃ x ∈ s.lh.aspaces, x.1 = a) → completes (.aspaceCreate c) 0x0A 0 fun v => v = s)
      ∧ ((∀ x ∈ s.lh.aspaces, x.1 ≠ a) → completes (.aspaceCreate c) 0 0 fun v => v.lh.aspaces = s.lh.aspaces ++ [(a, c.w3)]))
    ∧ (fine true aspaceFields → c.w2 = 1 → (∃ x ∈ s.lh.aspaces, x.1 = a) →
      (((∃ x ∈ s.lh.slots, x.2.rec_.asid = a) ∨ ∃ x ∈ s.lh.saved, x.asid = a) → completes (.aspaceDestroy c) 0x0A 0 fun v => v = s)
      ∧ ((∀ x ∈ s.lh.slots, x.2.rec_.asid ≠ a) → (∀ x ∈ s.lh.saved, x.asid ≠ a) → completes (.aspaceDestroy c) 0 0 fun v =>
          v.lh.aspaces = s.lh.aspaces.filter (·.1 != a) ∧ v.lh.pages = s.lh.pages.filter (·.asid != a)))
    ∧ (let e : PageMap := { asid := asid, page := gPage c.w1, phys := c.w2, write := c.w3.getLsbD 32, atomic := c.w3.getLsbD 33, repl := c.w3.getLsbD 34, pins := 0 }
      fine true [w, w, [(0, 35)], [(0, 16)]] →
        (s.pagesBad c.w1 n = true → completes (.mapPages c) 0x05 0 fun v => v = s)
        ∧ (s.pagesBad c.w1 n = false → (∃ x ∈ s.lh.aspaces, x.1 = asid) →
          ((∀ k < n, s.mapRefusal (mapEntry e k) = none) → completes (.mapPages c) 0 (BitVec.ofNat 64 n) fun v =>
            v.lh.pages = s.lh.pages ++ (List.range n).map fun k => { e with page := e.page + k, phys := e.phys + BitVec.ofNat 64 k })
          ∧ ∀ r, 0 < n → s.mapRefusal e = some r → completes (.mapPages c) r.1 0 fun v => v = s))
    ∧ (let found (k : Nat) : Option PageMap := s.lh.pages.find? fun p => p.asid == asid && p.page == gPage c.w1 + k
      fine true [w, [], [(0, 32)], [(0, 16)]] → s.pagesBad c.w1 n = false → (∀ k < n, ∀ p, found k = some p → p.pins = 0) →
        completes (.unmapPages c) 0 (BitVec.ofNat 64 ((List.range n).filter fun k => (found k).isSome).length) fun v =>
          (∀ k < n, ∀ p, found k = some p → p ∉ v.lh.pages ∧ ∀ x ∈ v.lh.ifaces, x.hits asid p.page = false)
          ∧ ∀ p ∈ s.lh.pages, ¬ (p.asid = asid ∧ gPage c.w1 ≤ p.page ∧ p.page < gPage c.w1 + n) → p ∈ v.lh.pages)
    ∧ (let n := c.w3.toNat
      fine false [w, w, w] → 8 ≤ n → n ≤ 2 ^ 30 → n % 8 = 0 → c.w1.toNat % 8 = 0 →
        buffer (.copyIn c) c.w1 n (
          (gMod c.w2 ≠ s.modNum → match Config.farCopy c.w2 s.free with
            | some r => completes (.copyIn c) r.1 0 fun v => Same s v
            | none => completes (.copyIn c) 0 0 fun v => .farStore c.w2 (readCells s.mem (Config.hostKey c.w1.toNat) n) ∈ v.outbox)
          ∧ (gMod c.w2 = s.modNum →
            (∀ r, s.copyRefused q.asid true c.w2 n = some r → completes (.copyIn c) r.1 0 fun v => v = s)
            ∧ (s.copyRefused q.asid true c.w2 n = none → completes (.copyIn c) 0 0 fun v => ∀ p, s.pageOf q.asid c.w2 = some p → gSpace c.w2 = 1 →
                gOff c.w2 + n ≤ 2 ^ 21 → s.migrationOf p.asid c.w2 = none → ∀ i < n, readCell v.mem (pageKey p (gOff c.w2 + i)) =
                  readCell s.mem (Config.hostKey c.w1.toNat + i))))
        ∧ buffer (.copyOut c) c.w1 n (
          (gMod c.w2 ≠ s.modNum → match Config.farCopy c.w2 s.free with
            | some r => completes (.copyOut c) r.1 0 fun v => Same s v
            | none => completes (.copyOut c) 0 0 fun v => readCells v.mem (Config.hostKey c.w1.toNat) n = fit n (Config.farBytes c.w2 n))
          ∧ (gMod c.w2 = s.modNum →
            (∀ r, s.copyRefused q.asid false c.w2 n = some r → completes (.copyOut c) r.1 0 fun v => v = s)
            ∧ (s.copyRefused q.asid false c.w2 n = none → ∀ p, s.pageOf q.asid c.w2 = some p → gSpace c.w2 = 1 → gOff c.w2 + n ≤ 2 ^ 21 →
                s.migrationOf p.asid c.w2 = none → (∀ i < n, pageKey p (gOff c.w2 + i) / 16 * 16 ∉ s.poison) → completes (.copyOut c) 0 0 fun v =>
                  ∀ i < n, readCell v.mem (Config.hostKey c.w1.toNat + i) = s.latestWeight (pageHome p) (pageKey p (gOff c.w2 + i))))))
    ∧ (let r := poundRect c.w1
      let (x0, y0, x1, y1) := r
      let inside (p : Pound) (t : Nat) : Prop := p.x0 ≤ s.xOf t ∧ s.xOf t ≤ p.x1 ∧ p.y0 ≤ s.yOf t ∧ s.yOf t ≤ p.y1
      (fine true poundFields →
        (∀ k, c.w2 = 0 → x0 ≤ x1 → y0 ≤ y1 → x1 < s.cols → y1 < 192 → s.lh.pounds.find? (fun p => relMeets p.rect r) = none →
          (List.range 16).find? (fun k => !s.lh.pounds.any (·.num == k)) = some k → completes (.poundDefine c) 0 (BitVec.ofNat 64 k) fun v =>
            ({ num := k, x0 := x0, y0 := y0, x1 := x1, y1 := y1, state := .defined, cmd := none } : Pound) ∈ v.lh.pounds)
        ∧ (∀ p, s.lh.pounds.find? (fun p => p.rect == r) = some p →
          (p.cmd.isSome = true → 1 ≤ c.w2.toNat → c.w2.toNat ≤ 3 → completes (.poundFence c) 0x0A 0 fun v => v = s)
          ∧ (c.w2 = 1 → p.cmd = none → p.state = .defined → Does (.poundFence c) s fun u => Same s u ∧ { p with cmd := some (c.qid, c.cid) } ∈ u.lh.pounds
              ∧ c ∈ u.lh.open_ ∧ (⟨.time (s.time + 2 ^ 10), .poundFenceEffect p.num⟩ : Due) ∈ u.agenda)
          ∧ (c.w2 = 2 → p.cmd = none → p.state = .fenced → Does (.poundReset c) s fun u => Same s u ∧ c ∈ u.lh.open_
              ∧ { p with state := .resetting, cmd := some (c.qid, c.cid) } ∈ u.lh.pounds ∧ ∃ d ∈ u.agenda, d.ev = .poundResetDone p.num)
          ∧ (c.w2 = 3 → p.cmd = none → p.state = .defined → completes (.poundRelease c) 0 (BitVec.ofNat 64 p.num) fun v =>
              v.lh.pounds = s.lh.pounds.filter fun x => x.num ≠ p.num)
          ∧ (c.w2 = 3 → p.cmd = none → p.state = .fenced → completes (.poundRelease c) 0 (BitVec.ofNat 64 p.num) fun v =>
              { p with state := .defined } ∈ v.lh.pounds)))
      ∧ (∀ k p, s.lh.pounds.find? (fun p => p.num == k && p.state == .defined && p.cmd.isSome) = some p → Does (.poundFenceEffect k) s fun u => SameFiles s u
          ∧ { p with state := .fenced, cmd := none } ∈ u.lh.pounds
          ∧ ∀ m, (m, s.slot m) ∈ s.lh.slots → (s.slot m).holdsPlace = true → (s.slot m).modIdx = 0 → (∃ t ∈ (s.slot m).tiles, inside p t) →
            ∃ d ∈ u.agenda, ∃ z, d.ev = .crewFaultReport (s.slot m).rec_.crew 0x11 (BitVec.ofNat 64 k) z)
      ∧ (∀ k p, s.lh.pounds.find? (fun p => p.num == k && p.state == .resetting) = some p → p.x1 < s.cols → p.y1 < 192 → Does (.poundResetDone k) s fun u =>
          { p with state := .fenced, cmd := none } ∈ u.lh.pounds ∧ ∀ x y, p.x0 ≤ x → x ≤ p.x1 → p.y0 ≤ y → y ≤ p.y1 →
            let t := s.idOf x y
            (u.tile t).v = Vector.replicate 32 (Vector.replicate 64 0) ∧ (u.tile t).z0 = Vector.replicate 256 0 ∧ (u.tile t).worker.g = Vector.replicate 32 0
              ∧ ∀ o < 2 ^ 19, readCell u.mem (Config.tileKey t o) = 0))

/-- The commands on crews complete (R86, R88, R99 to R112, R125): LAUNCH and RESUME answer with the first check that fails, else bind a free slot, one of a
crew on one module at once; KILL stops a crew that runs and ends another; DRAW announces a draw-off of a running one; DISCARD gives a saved crew up;
CREW_STATUS writes the bind record and its state.

It rests on the model's choices of log 16, 23, 31, 47 and 49.

Completes (exec answers a next state): launch, kill, draw, resume, discard, crewStatus. -/
def Obligations.CrewCommands : Prop :=
  ∀ (s : State) (c : HostCmd), Memory.wf s.mem = true →
    let fine (ops : List Fields) : Prop := malformedAt c 0 ops = none
    let completes (i : Instr) (st : BitVec 8) (r : Word) (P : State → Prop) : Prop := ∃ (v : State) (log : Word), exec i s = .next (v.complete c st r log) ∧ SameFiles s v ∧ P v
    let buffer (i : Instr) (a : Word) (n : Nat) (P : Prop) : Prop := if Config.hostOk a n = true then P else completes i 0x04 0 fun v => v = s
    let w := wholeWord
    let crew : BitVec 16 := c.w1.extractLsb' 0 16
    let asks (a : BitVec 16) (g : Word) (n k : Nat) : BindAsk :=
      { asid := a, addr := g, length := n, opts := c.w3, mods := launchMods c.w3 s.flight, modIdx := k }
    let starts (i : Instr) (b : BindAsk) (num : Option (BitVec 16)) : Prop :=
      match s.launchNo (s.image b.asid b.addr) b, s.freeSlot, s.freeLocal with
      | some no, _, _ => exec i s = .next (s.complete c no.status no.result no.log)
      | none, some n, some l => Does i s fun u => SameFiles s u ∧ (u.slot n).rec_.state = .bound ∧ (u.slot n).rec_.crew = num.getD (s.flight ++ l)
          ∧ (u.slot n).rec_.asid = b.asid ∧ (u.slot n).img = b.addr ∧ (u.slot n).imgLen = b.length ∧ (u.slot n).rec_.prio = optPrio b.opts
          ∧ ((s.image b.asid b.addr).header.modules = 1 → .ev .schedulerPass ∈ u.work)
          ∧ ((s.image b.asid b.addr).header.modules ≠ 1 → c ∈ u.lh.open_ ∧ (∃ x ∈ u.lh.binds, x.slot = n ∧ x.qid = c.qid ∧ x.cid = c.cid)
              ∧ ∀ m t, m ∈ modList b.mods → m ≠ s.flight.toNat → s.lineTo m = some t → ∃ r : BindReq, .bindRequest r ∈ (u.towline t).notes
                ∧ r.fromModule = s.modNum ∧ r.crew = num.getD (s.flight ++ l) ∧ r.asid = b.asid ∧ r.image = b.addr ∧ r.length = b.length)
      | none, _, _ => completes i 0x09 0x0C fun v => v = s
    (fine [w, w, optFields] →
      ((2 ^ 32 < c.w2.toNat ∨ c.w2.toNat % 8 ≠ 0) → completes (.launch c) 0x05 0 fun v => v = s)
      ∧ (c.w2.toNat ≤ 2 ^ 32 → c.w2.toNat % 8 = 0 → starts (.launch c) (asks (s.queueOf c).asid c.w1 c.w2.toNat 0) none))
    ∧ (fine [[(0, 16)]] → s.ownCrew c crew = none → completes (.kill c) 0x0B 0 (fun v => v = s) ∧ completes (.draw c) 0x0B 0 fun v => v = s)
    ∧ (∀ n, fine [[(0, 16)]] → s.ownCrew c crew = some n →
      let x := s.slot n
      let runs : Prop := x.rec_.state = .running ∨ x.rec_.state = .drawing ∨ x.rec_.state = .killing
      (runs → x.modIdx = 0 → Does (.kill c) s fun u => Same s u ∧ (u.slot n).rec_.state = .killing ∧ (u.slot n).run.fatal = true ∧ c ∈ u.lh.open_
        ∧ .ev (.crewFaultReport x.rec_.crew 0 0 (2 ^ 32)) ∈ u.work)
      ∧ (runs → x.modIdx ≠ 0 → Does (.kill c) s fun u => Same s u ∧ (u.slot n).rec_.state = .killing ∧ (u.slot n).run.fatal = true
        ∧ ∀ t, s.lineTo (x.rec_.crew.extractLsb' 11 5).toNat = some t → .report x.rec_.crew 0 0 (2 ^ 32) ∈ (u.towline t).notes)
      ∧ (¬ runs → Does (.kill c) s fun u => SameFiles s u ∧ lookup? u.lh.slots n = none)
      ∧ (x.rec_.state ≠ .running → completes (.draw c) 0x0A 0 fun v => v = s)
      ∧ (x.rec_.state = .running → x.run.draw = none → x.run.stopped = false → Does (.draw c) s fun u => Same s u ∧ (u.slot n).rec_.state = .drawing
          ∧ c ∈ u.lh.open_ ∧ (x.modIdx = 0 → ∃ d v, d ≤ 33 ∧ v = x.drawCount (x.run.vcyc + BitVec.ofNat 48 d)
              ∧ (u.slot n).run.draw = some { v := v, why := .host } ∧ (⟨.count n (v - 40), .drawOffInjectStop x.rec_.crew⟩ : Due) ∈ u.agenda)
          ∧ (x.modIdx ≠ 0 → ∀ t, s.lineTo (x.rec_.crew.extractLsb' 11 5).toNat = some t → .askDraw x.rec_.crew .host ∈ (u.towline t).notes)))
    ∧ (∀ n, fine [[(0, 16)], w] → s.ownCrew c crew = some n → c.w2.toNat % 8 = 0 → buffer (.crewStatus c) c.w2 256
        (completes (.crewStatus c) 0 ((s.slot n).rec_.state.code.zeroExtend 64) fun v => readCells v.mem (Config.hostKey c.w2.toNat) 256 = (s.slot n).statusBytes))
    ∧ (∀ y, s.ownSaved c c.w1 = some y →
      (fine [w, [], optFields] → s.slotOfCrew y.slot.rec_.crew = none → starts (.resume c)
        (asks y.asid y.slot.img y.slot.imgLen y.slot.modIdx) (some y.slot.rec_.crew))
      ∧ (fine [w] → s.slotOfCrew y.slot.rec_.crew = none → completes (.discard c) 0 0 fun v => v.lh.saved = s.lh.saved.filter (·.handle != y.handle))
      ∧ (∀ n, s.slotOfCrew y.slot.rec_.crew = some n → (fine [w, [], optFields] → completes (.resume c) 0x0A 0 fun v => v = s)
          ∧ (fine [w] → completes (.discard c) 0x0A 0 fun v => v = s)))
end

