-- ==== Sys2Proof/Laws/Codec.lean ====
section
/-! SUPPORT. Splitting and joining the fields of a word undo each other, and what the decoder makes of a joined word. -/

namespace Sys2Proof

theorem bits_high {n m lo w : Nat} (x : BitVec n) (y : BitVec m) (h : m ≤ lo) :
    (x ++ y).extractLsb' lo w = x.extractLsb' (lo - m) w := by
  apply BitVec.eq_of_getLsbD_eq; intro i hi
  simp only [BitVec.getLsbD_extractLsb', BitVec.getLsbD_append, hi, decide_true, Bool.true_and]
  split
  · omega
  · congr 1; omega
theorem bits_low {n m : Nat} (x : BitVec n) (y : BitVec m) : (x ++ y).extractLsb' 0 m = y := by
  apply BitVec.eq_of_getLsbD_eq; intro i hi
  simp [BitVec.getLsbD_append, hi]
theorem bits_all {n : Nat} (x : BitVec n) : x.extractLsb' 0 n = x := by
  apply BitVec.eq_of_getLsbD_eq; intro i hi
  simp [hi]
theorem bits_join {N lo n m : Nat} (x : BitVec N) (hi : Nat) (h : hi = lo + m) :
    x.extractLsb' hi n ++ x.extractLsb' lo m = x.extractLsb' lo (n + m) := by
  subst h
  apply BitVec.eq_of_getLsbD_eq; intro i hi
  simp only [BitVec.getLsbD_extractLsb', BitVec.getLsbD_append]
  split
  · rename_i h; simp [h]; omega
  · have : i - m < n := by omega
    rw [decide_eq_true this, decide_eq_true hi]; simp only [Bool.true_and]; congr 1; omega

@[simp] theorem splitG_joinG (g : FmtG) : splitG (joinG g) = g := by
  cases g
  simp only [splitG, joinG, bits, FmtG.mk.injEq]
  exact ⟨((bits_high _ _ (by decide)).trans ((bits_high _ _ (by decide)).trans ((bits_high _ _ (by decide)).trans ((bits_high _ _ (by decide)).trans ((bits_high _ _ (by decide)).trans ((bits_high _ _ (by decide)).trans ((bits_high _ _ (by decide)).trans (bits_all _)))))))),
    ((bits_high _ _ (by decide)).trans ((bits_high _ _ (by decide)).trans ((bits_high _ _ (by decide)).trans ((bits_high _ _ (by decide)).trans ((bits_high _ _ (by decide)).trans ((bits_high _ _ (by decide)).trans (bits_low ..))))))),
    ((bits_high _ _ (by decide)).trans ((bits_high _ _ (by decide)).trans ((bits_high _ _ (by decide)).trans ((bits_high _ _ (by decide)).trans ((bits_high _ _ (by decide)).trans (bits_low ..)))))),
    ((bits_high _ _ (by decide)).trans ((bits_high _ _ (by decide)).trans ((bits_high _ _ (by decide)).trans ((bits_high _ _ (by decide)).trans (bits_low ..))))),
    ((bits_high _ _ (by decide)).trans ((bits_high _ _ (by decide)).trans ((bits_high _ _ (by decide)).trans (bits_low ..)))),
    ((bits_high _ _ (by decide)).trans ((bits_high _ _ (by decide)).trans (bits_low ..))),
    ((bits_high _ _ (by decide)).trans (bits_low ..)),
    (bits_low ..)⟩
@[simp] theorem joinG_splitG (o : OperandBits) : joinG (splitG o) = o := by
  simp only [splitG, joinG, bits]
  exact ((congrArg (· ++ o.extractLsb' 0 16) ((congrArg (· ++ o.extractLsb' 16 4) ((congrArg (· ++ o.extractLsb' 20 4) ((congrArg (· ++ o.extractLsb' 24 8) ((congrArg (· ++ o.extractLsb' 32 5) ((congrArg (· ++ o.extractLsb' 37 5) (bits_join (lo := 42) (n := 5) (m := 5) o 47 rfl)).trans (bits_join (lo := 37) (n := 10) (m := 5) o 42 rfl))).trans (bits_join (lo := 32) (n := 15) (m := 5) o 37 rfl))).trans (bits_join (lo := 24) (n := 20) (m := 8) o 32 rfl))).trans (bits_join (lo := 20) (n := 28) (m := 4) o 24 rfl))).trans (bits_join (lo := 16) (n := 32) (m := 4) o 20 rfl))).trans (bits_join (lo := 0) (n := 36) (m := 16) o 16 rfl)).trans (bits_all o)

@[simp] theorem splitI_joinI (g : FmtI) : splitI (joinI g) = g := by
  cases g
  simp only [splitI, joinI, bits, FmtI.mk.injEq]
  exact ⟨((bits_high _ _ (by decide)).trans ((bits_high _ _ (by decide)).trans ((bits_high _ _ (by decide)).trans (bits_all _)))),
    ((bits_high _ _ (by decide)).trans ((bits_high _ _ (by decide)).trans (bits_low ..))),
    ((bits_high _ _ (by decide)).trans (bits_low ..)),
    (bits_low ..)⟩
@[simp] theorem joinI_splitI (o : OperandBits) : joinI (splitI o) = o := by
  simp only [splitI, joinI, bits]
  exact ((congrArg (· ++ o.extractLsb' 0 32) ((congrArg (· ++ o.extractLsb' 32 10) (bits_join (lo := 42) (n := 5) (m := 5) o 47 rfl)).trans (bits_join (lo := 32) (n := 10) (m := 10) o 42 rfl))).trans (bits_join (lo := 0) (n := 20) (m := 32) o 32 rfl)).trans (bits_all o)

@[simp] theorem splitW_joinW (g : FmtW) : splitW (joinW g) = g := by
  cases g
  simp only [splitW, joinW, bits, FmtW.mk.injEq]
  exact ⟨((bits_high _ _ (by decide)).trans ((bits_high _ _ (by decide)).trans (bits_all _))),
    ((bits_high _ _ (by decide)).trans (bits_low ..)),
    (bits_low ..)⟩
@[simp] theorem joinW_splitW (o : OperandBits) : joinW (splitW o) = o := by
  simp only [splitW, joinW, bits]
  exact ((congrArg (· ++ o.extractLsb' 0 42) (bits_join (lo := 42) (n := 5) (m := 5) o 47 rfl)).trans (bits_join (lo := 0) (n := 10) (m := 42) o 42 rfl)).trans (bits_all o)

@[simp] theorem splitB_joinB (g : FmtB) : splitB (joinB g) = g := by
  cases g
  simp only [splitB, joinB, bits, FmtB.mk.injEq]
  exact ⟨((bits_high _ _ (by decide)).trans ((bits_high _ _ (by decide)).trans ((bits_high _ _ (by decide)).trans ((bits_high _ _ (by decide)).trans ((bits_high _ _ (by decide)).trans ((bits_high _ _ (by decide)).trans ((bits_high _ _ (by decide)).trans (bits_all _)))))))),
    ((bits_high _ _ (by decide)).trans ((bits_high _ _ (by decide)).trans ((bits_high _ _ (by decide)).trans ((bits_high _ _ (by decide)).trans ((bits_high _ _ (by decide)).trans ((bits_high _ _ (by decide)).trans (bits_low ..))))))),
    ((bits_high _ _ (by decide)).trans ((bits_high _ _ (by decide)).trans ((bits_high _ _ (by decide)).trans ((bits_high _ _ (by decide)).trans ((bits_high _ _ (by decide)).trans (bits_low ..)))))),
    ((bits_high _ _ (by decide)).trans ((bits_high _ _ (by decide)).trans ((bits_high _ _ (by decide)).trans ((bits_high _ _ (by decide)).trans (bits_low ..))))),
    ((bits_high _ _ (by decide)).trans ((bits_high _ _ (by decide)).trans ((bits_high _ _ (by decide)).trans (bits_low ..)))),
    ((bits_high _ _ (by decide)).trans ((bits_high _ _ (by decide)).trans (bits_low ..))),
    ((bits_high _ _ (by decide)).trans (bits_low ..)),
    (bits_low ..)⟩
@[simp] theorem joinB_splitB (o : OperandBits) : joinB (splitB o) = o := by
  simp only [splitB, joinB, bits]
  exact ((congrArg (· ++ o.extractLsb' 0 16) ((congrArg (· ++ o.extractLsb' 16 12) ((congrArg (· ++ o.extractLsb' 28 4) ((congrArg (· ++ o.extractLsb' 32 3) ((congrArg (· ++ o.extractLsb' 35 3) ((congrArg (· ++ o.extractLsb' 38 4) (bits_join (lo := 42) (n := 5) (m := 5) o 47 rfl)).trans (bits_join (lo := 38) (n := 10) (m := 4) o 42 rfl))).trans (bits_join (lo := 35) (n := 14) (m := 3) o 38 rfl))).trans (bits_join (lo := 32) (n := 17) (m := 3) o 35 rfl))).trans (bits_join (lo := 28) (n := 20) (m := 4) o 32 rfl))).trans (bits_join (lo := 16) (n := 24) (m := 12) o 28 rfl))).trans (bits_join (lo := 0) (n := 36) (m := 16) o 16 rfl)).trans (bits_all o)

@[simp] theorem splitM_joinM (g : FmtM) : splitM (joinM g) = g := by
  cases g
  simp only [splitM, joinM, bits, FmtM.mk.injEq]
  exact ⟨((bits_high _ _ (by decide)).trans ((bits_high _ _ (by decide)).trans ((bits_high _ _ (by decide)).trans ((bits_high _ _ (by decide)).trans ((bits_high _ _ (by decide)).trans ((bits_high _ _ (by decide)).trans ((bits_high _ _ (by decide)).trans (bits_all _)))))))),
    ((bits_high _ _ (by decide)).trans ((bits_high _ _ (by decide)).trans ((bits_high _ _ (by decide)).trans ((bits_high _ _ (by decide)).trans ((bits_high _ _ (by decide)).trans ((bits_high _ _ (by decide)).trans (bits_low ..))))))),
    ((bits_high _ _ (by decide)).trans ((bits_high _ _ (by decide)).trans ((bits_high _ _ (by decide)).trans ((bits_high _ _ (by decide)).trans ((bits_high _ _ (by decide)).trans (bits_low ..)))))),
    ((bits_high _ _ (by decide)).trans ((bits_high _ _ (by decide)).trans ((bits_high _ _ (by decide)).trans ((bits_high _ _ (by decide)).trans (bits_low ..))))),
    ((bits_high _ _ (by decide)).trans ((bits_high _ _ (by decide)).trans ((bits_high _ _ (by decide)).trans (bits_low ..)))),
    ((bits_high _ _ (by decide)).trans ((bits_high _ _ (by decide)).trans (bits_low ..))),
    ((bits_high _ _ (by decide)).trans (bits_low ..)),
    (bits_low ..)⟩
@[simp] theorem joinM_splitM (o : OperandBits) : joinM (splitM o) = o := by
  simp only [splitM, joinM, bits]
  exact ((congrArg (· ++ o.extractLsb' 0 19) ((congrArg (· ++ o.extractLsb' 19 5) ((congrArg (· ++ o.extractLsb' 24 8) ((congrArg (· ++ o.extractLsb' 32 3) ((congrArg (· ++ o.extractLsb' 35 2) ((congrArg (· ++ o.extractLsb' 37 5) (bits_join (lo := 42) (n := 5) (m := 5) o 47 rfl)).trans (bits_join (lo := 37) (n := 10) (m := 5) o 42 rfl))).trans (bits_join (lo := 35) (n := 15) (m := 2) o 37 rfl))).trans (bits_join (lo := 32) (n := 17) (m := 3) o 35 rfl))).trans (bits_join (lo := 24) (n := 20) (m := 8) o 32 rfl))).trans (bits_join (lo := 19) (n := 28) (m := 5) o 24 rfl))).trans (bits_join (lo := 0) (n := 33) (m := 19) o 19 rfl)).trans (bits_all o)

@[simp] theorem splitV_joinV (g : FmtV) : splitV (joinV g) = g := by
  cases g
  simp only [splitV, joinV, bits, FmtV.mk.injEq]
  exact ⟨((bits_high _ _ (by decide)).trans ((bits_high _ _ (by decide)).trans ((bits_high _ _ (by decide)).trans ((bits_high _ _ (by decide)).trans ((bits_high _ _ (by decide)).trans ((bits_high _ _ (by decide)).trans ((bits_high _ _ (by decide)).trans ((bits_high _ _ (by decide)).trans ((bits_high _ _ (by decide)).trans (bits_all _)))))))))),
    ((bits_high _ _ (by decide)).trans ((bits_high _ _ (by decide)).trans ((bits_high _ _ (by decide)).trans ((bits_high _ _ (by decide)).trans ((bits_high _ _ (by decide)).trans ((bits_high _ _ (by decide)).trans ((bits_high _ _ (by decide)).trans ((bits_high _ _ (by decide)).trans (bits_low ..))))))))),
    ((bits_high _ _ (by decide)).trans ((bits_high _ _ (by decide)).trans ((bits_high _ _ (by decide)).trans ((bits_high _ _ (by decide)).trans ((bits_high _ _ (by decide)).trans ((bits_high _ _ (by decide)).trans ((bits_high _ _ (by decide)).trans (bits_low ..)))))))),
    ((bits_high _ _ (by decide)).trans ((bits_high _ _ (by decide)).trans ((bits_high _ _ (by decide)).trans ((bits_high _ _ (by decide)).trans ((bits_high _ _ (by decide)).trans ((bits_high _ _ (by decide)).trans (bits_low ..))))))),
    ((bits_high _ _ (by decide)).trans ((bits_high _ _ (by decide)).trans ((bits_high _ _ (by decide)).trans ((bits_high _ _ (by decide)).trans ((bits_high _ _ (by decide)).trans (bits_low ..)))))),
    ((bits_high _ _ (by decide)).trans ((bits_high _ _ (by decide)).trans ((bits_high _ _ (by decide)).trans ((bits_high _ _ (by decide)).trans (bits_low ..))))),
    ((bits_high _ _ (by decide)).trans ((bits_high _ _ (by decide)).trans ((bits_high _ _ (by decide)).trans (bits_low ..)))),
    ((bits_high _ _ (by decide)).trans ((bits_high _ _ (by decide)).trans (bits_low ..))),
    ((bits_high _ _ (by decide)).trans (bits_low ..)),
    (bits_low ..)⟩
@[simp] theorem joinV_splitV (o : OperandBits) : joinV (splitV o) = o := by
  simp only [splitV, joinV, bits]
  exact ((congrArg (· ++ o.extractLsb' 0 13) ((congrArg (· ++ o.extractLsb' 13 3) ((congrArg (· ++ o.extractLsb' 16 8) ((congrArg (· ++ o.extractLsb' 24 3) ((congrArg (· ++ o.extractLsb' 27 2) ((congrArg (· ++ o.extractLsb' 29 3) ((congrArg (· ++ o.extractLsb' 32 5) ((congrArg (· ++ o.extractLsb' 37 5) (bits_join (lo := 42) (n := 5) (m := 5) o 47 rfl)).trans (bits_join (lo := 37) (n := 10) (m := 5) o 42 rfl))).trans (bits_join (lo := 32) (n := 15) (m := 5) o 37 rfl))).trans (bits_join (lo := 29) (n := 20) (m := 3) o 32 rfl))).trans (bits_join (lo := 27) (n := 23) (m := 2) o 29 rfl))).trans (bits_join (lo := 24) (n := 25) (m := 3) o 27 rfl))).trans (bits_join (lo := 16) (n := 28) (m := 8) o 24 rfl))).trans (bits_join (lo := 13) (n := 36) (m := 3) o 16 rfl))).trans (bits_join (lo := 0) (n := 39) (m := 13) o 13 rfl)).trans (bits_all o)

@[simp] theorem splitX_joinX (g : FmtX) : splitX (joinX g) = g := by
  cases g
  simp only [splitX, joinX, bits, FmtX.mk.injEq]
  exact ⟨((bits_high _ _ (by decide)).trans ((bits_high _ _ (by decide)).trans ((bits_high _ _ (by decide)).trans ((bits_high _ _ (by decide)).trans ((bits_high _ _ (by decide)).trans ((bits_high _ _ (by decide)).trans ((bits_high _ _ (by decide)).trans ((bits_high _ _ (by decide)).trans ((bits_high _ _ (by decide)).trans (bits_all _)))))))))),
    ((bits_high _ _ (by decide)).trans ((bits_high _ _ (by decide)).trans ((bits_high _ _ (by decide)).trans ((bits_high _ _ (by decide)).trans ((bits_high _ _ (by decide)).trans ((bits_high _ _ (by decide)).trans ((bits_high _ _ (by decide)).trans ((bits_high _ _ (by decide)).trans (bits_low ..))))))))),
    ((bits_high _ _ (by decide)).trans ((bits_high _ _ (by decide)).trans ((bits_high _ _ (by decide)).trans ((bits_high _ _ (by decide)).trans ((bits_high _ _ (by decide)).trans ((bits_high _ _ (by decide)).trans ((bits_high _ _ (by decide)).trans (bits_low ..)))))))),
    ((bits_high _ _ (by decide)).trans ((bits_high _ _ (by decide)).trans ((bits_high _ _ (by decide)).trans ((bits_high _ _ (by decide)).trans ((bits_high _ _ (by decide)).trans ((bits_high _ _ (by decide)).trans (bits_low ..))))))),
    ((bits_high _ _ (by decide)).trans ((bits_high _ _ (by decide)).trans ((bits_high _ _ (by decide)).trans ((bits_high _ _ (by decide)).trans ((bits_high _ _ (by decide)).trans (bits_low ..)))))),
    ((bits_high _ _ (by decide)).trans ((bits_high _ _ (by decide)).trans ((bits_high _ _ (by decide)).trans ((bits_high _ _ (by decide)).trans (bits_low ..))))),
    ((bits_high _ _ (by decide)).trans ((bits_high _ _ (by decide)).trans ((bits_high _ _ (by decide)).trans (bits_low ..)))),
    ((bits_high _ _ (by decide)).trans ((bits_high _ _ (by decide)).trans (bits_low ..))),
    ((bits_high _ _ (by decide)).trans (bits_low ..)),
    (bits_low ..)⟩
@[simp] theorem joinX_splitX (o : OperandBits) : joinX (splitX o) = o := by
  simp only [splitX, joinX, bits]
  exact ((congrArg (· ++ o.extractLsb' 0 16) ((congrArg (· ++ o.extractLsb' 16 8) ((congrArg (· ++ o.extractLsb' 24 2) ((congrArg (· ++ o.extractLsb' 26 2) ((congrArg (· ++ o.extractLsb' 28 8) ((congrArg (· ++ o.extractLsb' 36 5) ((congrArg (· ++ o.extractLsb' 41 3) ((congrArg (· ++ o.extractLsb' 44 3) (bits_join (lo := 47) (n := 1) (m := 4) o 51 rfl)).trans (bits_join (lo := 44) (n := 5) (m := 3) o 47 rfl))).trans (bits_join (lo := 41) (n := 8) (m := 3) o 44 rfl))).trans (bits_join (lo := 36) (n := 11) (m := 5) o 41 rfl))).trans (bits_join (lo := 28) (n := 16) (m := 8) o 36 rfl))).trans (bits_join (lo := 26) (n := 24) (m := 2) o 28 rfl))).trans (bits_join (lo := 24) (n := 26) (m := 2) o 26 rfl))).trans (bits_join (lo := 16) (n := 28) (m := 8) o 24 rfl))).trans (bits_join (lo := 0) (n := 36) (m := 16) o 16 rfl)).trans (bits_all o)

/-! ### Codes and small fields -/

@[simp] theorem bccOf_code (c : BccCond) : bccOf (bccCode c) = some c := by cases c <;> rfl
@[simp] theorem bprOf_code (c : BprCond) : bprOf (bprCode c) = some c := by cases c <;> rfl
@[simp] theorem kopOf_code (c : KopOp) : kopOf (kopCode c) = some c := by cases c <;> rfl
@[simp] theorem amoOf_code (c : AmoOp) : amoOf (amoCode c) = some c := by cases c <;> rfl
@[simp] theorem vtyOf_code (c : VTy) : vtyOf (vtyCode c) = some c := by cases c <;> rfl
@[simp] theorem vcondOf_code (c : VCond) : vcondOf (vcondCode c) = some c := by cases c <;> rfl
@[simp] theorem scanOf_code (c : ScanOp) : scanOf (scanCode c) = some c := by cases c <;> rfl
@[simp] theorem cvtOf_code (c : CvtTy) : cvtOf (cvtCode c) = some c := by cases c <;> rfl
@[simp] theorem fupdOf_code (c : FupdOp) : fupdOf (fupdCode c) = some c := by cases c <;> rfl
@[simp] theorem fredOf_code (c : FredOp) : fredOf (fredCode c) = some c := by cases c <;> rfl
@[simp] theorem ffmtOf_code (c : FFmt) : ffmtOf (ffmtCode c) = some c := by cases c <;> rfl
@[simp] theorem kgOf_code (c : KGroup) : kgOf (kgCode c) = some c := by cases c <;> rfl
@[simp] theorem bits_zext {w n : Nat} (x : BitVec w) (h : w ≤ n) : bits n 0 w (x.zeroExtend n) = x := by
  apply BitVec.eq_of_getLsbD_eq; intro i hi
  simp only [bits, BitVec.zeroExtend, BitVec.getLsbD_extractLsb', BitVec.getLsbD_setWidth, hi, decide_true, Bool.true_and, Nat.zero_add]
  rw [decide_eq_true (by omega)]; rfl
@[simp] theorem zext_lt {w n m : Nat} (x : BitVec w) (h : 2 ^ w ≤ m) : (x.zeroExtend n).toNat < m := by
  have := x.isLt
  simp only [BitVec.zeroExtend, BitVec.toNat_setWidth]
  exact Nat.lt_of_le_of_lt (Nat.mod_le ..) (by omega)
@[simp] theorem reg3_of (r : KReg) : reg3 (ofReg3 r) = some r := by
  have h : (ofReg3 r).toNat < 8 := zext_lt r (by decide)
  unfold reg3
  rw [if_pos h]
  exact congrArg some (bits_zext r (by decide))
@[simp] theorem boolBit_one (b : Bool) : (boolBit b == 1) = b := by cases b <;> rfl
@[simp] theorem boolBit_one' (b : Bool) : (boolBit b == 1#1) = b := by cases b <;> rfl
theorem pair_low {m k n : Nat} (x : BitVec m) (y : BitVec k) (h : m + k ≤ n) : bits n 0 k ((x ++ y).zeroExtend n) = y := by
  apply BitVec.eq_of_getLsbD_eq; intro i hi
  simp only [bits, BitVec.zeroExtend, BitVec.getLsbD_extractLsb', BitVec.getLsbD_setWidth, BitVec.getLsbD_append, hi, decide_true, Bool.true_and,
    Nat.zero_add, if_true]
  rw [decide_eq_true (by omega)]; rfl
theorem pair_high {m k n : Nat} (x : BitVec m) (y : BitVec k) (h : m + k ≤ n) : bits n k m ((x ++ y).zeroExtend n) = x := by
  apply BitVec.eq_of_getLsbD_eq; intro i hi
  simp only [bits, BitVec.zeroExtend, BitVec.getLsbD_extractLsb', BitVec.getLsbD_setWidth, BitVec.getLsbD_append, hi, decide_true, Bool.true_and]
  rw [if_neg (by omega), decide_eq_true (by omega)]; simp
@[simp] theorem fieldBits_pos (l p : BitVec 6) : bits 32 0 6 ((l ++ p).zeroExtend 32) = p := pair_low l p (by decide)
@[simp] theorem fieldBits_len (l p : BitVec 6) : bits 32 6 6 ((l ++ p).zeroExtend 32) = l := pair_high l p (by decide)
@[simp] theorem sizeBits_sz (u : Bool) (sz : BitVec 2) : bits 8 0 2 ((boolBit u ++ sz).zeroExtend 8) = sz := pair_low _ sz (by decide)
@[simp] theorem reg3_zero : reg3 0#5 = some 0#3 := rfl
@[simp] theorem sizeBits_uns (u : Bool) (sz : BitVec 2) : (boolBit u ++ sz)[2] = u := by
  revert sz; cases u <;> decide
theorem sysImm_toNat {b n : Nat} (h : b + n < 65536) : (sysImm b n).toNat = b + n := by
  rw [sysImm, BitVec.toNat_ofNat]; exact Nat.mod_eq_of_lt h
theorem sysImm_bits {w b : Nat} (x : BitVec w) (hb : b % 2 ^ w = 0) (h : b + 2 ^ w ≤ 65536) : bits 16 0 w (sysImm b x.toNat) = x := by
  apply BitVec.eq_of_toNat_eq
  have := x.isLt
  rw [bits, BitVec.extractLsb'_toNat, sysImm_toNat (by omega), Nat.shiftRight_zero, Nat.add_mod, hb, Nat.zero_add, Nat.mod_mod, Nat.mod_eq_of_lt this]
theorem decodeWord_fields (link : Bool) (d : BitVec 3) (op : BitVec 8) (o : OperandBits) :
    decodeWord (boolBit link ++ d ++ op ++ o) =
      match decodeOperands op o with
      | .error e => .error e
      | .ok i => if i.isControlWord && d != 0 then .error .defer else .ok { link := link, defer := d, instr := i } := by
  have h1 : bits 64 52 8 (boolBit link ++ d ++ op ++ o) = op := (bits_high _ _ (by decide)).trans (bits_low ..)
  have h2 : bits 64 0 52 (boolBit link ++ d ++ op ++ o) = o := bits_low ..
  have h3 : bits 64 60 3 (boolBit link ++ d ++ op ++ o) = d :=
    (bits_high _ _ (by decide)).trans ((bits_high _ _ (by decide)).trans (bits_low ..))
  have h4 : (boolBit link ++ d ++ op ++ o).getLsbD 63 = link := by
    have : bits 64 63 1 (boolBit link ++ d ++ op ++ o) = boolBit link :=
      (bits_high _ _ (by decide)).trans ((bits_high _ _ (by decide)).trans ((bits_high _ _ (by decide)).trans (bits_all _)))
    have := congrArg (·.getLsbD 0) this
    simp only [bits, BitVec.getLsbD_extractLsb'] at this
    cases link <;> simpa [boolBit] using this
  unfold decodeWord
  rw [h1, h2, h3, h4]
  all_goals rfl

end Sys2Proof
end

