-- ==== Sys2Proof/Laws/State.lean ====
section
/-! SUPPORT. What each update of a part of the state leaves as it was: one lemma a field. -/

namespace Sys2Proof.Machine

/-! ### setTile -/
@[simp] theorem State.setTile_time (s : State) (id : Nat) (t : Tile) : (s.setTile id t).time = s.time := rfl
@[simp] theorem State.setTile_grade (s : State) (id : Nat) (t : Tile) : (s.setTile id t).grade = s.grade := rfl
@[simp] theorem State.setTile_modNum (s : State) (id : Nat) (t : Tile) : (s.setTile id t).modNum = s.modNum := rfl
@[simp] theorem State.setTile_flight (s : State) (id : Nat) (t : Tile) : (s.setTile id t).flight = s.flight := rfl
@[simp] theorem State.setTile_isRef (s : State) (id : Nat) (t : Tile) : (s.setTile id t).isRef = s.isRef := rfl
@[simp] theorem State.setTile_defects (s : State) (id : Nat) (t : Tile) : (s.setTile id t).defects = s.defects := rfl
@[simp] theorem State.setTile_retired (s : State) (id : Nat) (t : Tile) : (s.setTile id t).retired = s.retired := rfl
@[simp] theorem State.setTile_worn (s : State) (id : Nat) (t : Tile) : (s.setTile id t).worn = s.worn := rfl
@[simp] theorem State.setTile_pwr (s : State) (id : Nat) (t : Tile) : (s.setTile id t).pwr = s.pwr := rfl
@[simp] theorem State.setTile_lh (s : State) (id : Nat) (t : Tile) : (s.setTile id t).lh = s.lh := rfl
@[simp] theorem State.setTile_reaches (s : State) (id : Nat) (t : Tile) : (s.setTile id t).reaches = s.reaches := rfl
@[simp] theorem State.setTile_towlines (s : State) (id : Nat) (t : Tile) : (s.setTile id t).towlines = s.towlines := rfl
@[simp] theorem State.setTile_feeders (s : State) (id : Nat) (t : Tile) : (s.setTile id t).feeders = s.feeders := rfl
@[simp] theorem State.setTile_mem (s : State) (id : Nat) (t : Tile) : (s.setTile id t).mem = s.mem := rfl
@[simp] theorem State.setTile_poison (s : State) (id : Nat) (t : Tile) : (s.setTile id t).poison = s.poison := rfl
@[simp] theorem State.setTile_actor (s : State) (id : Nat) (t : Tile) : (s.setTile id t).actor = s.actor := rfl
@[simp] theorem State.setTile_checked (s : State) (id : Nat) (t : Tile) : (s.setTile id t).checked = s.checked := rfl
@[simp] theorem State.setTile_fired (s : State) (id : Nat) (t : Tile) : (s.setTile id t).fired = s.fired := rfl
@[simp] theorem State.setTile_partner (s : State) (id : Nat) (t : Tile) : (s.setTile id t).partner = s.partner := rfl
@[simp] theorem State.setTile_wordAt (s : State) (id : Nat) (t : Tile) : (s.setTile id t).wordAt = s.wordAt := rfl
@[simp] theorem State.setTile_seq (s : State) (id : Nat) (t : Tile) : (s.setTile id t).seq = s.seq := rfl
@[simp] theorem State.setTile_free (s : State) (id : Nat) (t : Tile) : (s.setTile id t).free = s.free := rfl
@[simp] theorem State.setTile_inputs (s : State) (id : Nat) (t : Tile) : (s.setTile id t).inputs = s.inputs := rfl
@[simp] theorem State.setTile_agenda (s : State) (id : Nat) (t : Tile) : (s.setTile id t).agenda = s.agenda := rfl
@[simp] theorem State.setTile_work (s : State) (id : Nat) (t : Tile) : (s.setTile id t).work = s.work := rfl
@[simp] theorem State.setTile_outbox (s : State) (id : Nat) (t : Tile) : (s.setTile id t).outbox = s.outbox := rfl

/-! ### modTile -/
@[simp] theorem State.modTile_time (s : State) (id : Nat) (f : Tile → Tile) : (s.modTile id f).time = s.time := rfl
@[simp] theorem State.modTile_grade (s : State) (id : Nat) (f : Tile → Tile) : (s.modTile id f).grade = s.grade := rfl
@[simp] theorem State.modTile_modNum (s : State) (id : Nat) (f : Tile → Tile) : (s.modTile id f).modNum = s.modNum := rfl
@[simp] theorem State.modTile_flight (s : State) (id : Nat) (f : Tile → Tile) : (s.modTile id f).flight = s.flight := rfl
@[simp] theorem State.modTile_isRef (s : State) (id : Nat) (f : Tile → Tile) : (s.modTile id f).isRef = s.isRef := rfl
@[simp] theorem State.modTile_defects (s : State) (id : Nat) (f : Tile → Tile) : (s.modTile id f).defects = s.defects := rfl
@[simp] theorem State.modTile_retired (s : State) (id : Nat) (f : Tile → Tile) : (s.modTile id f).retired = s.retired := rfl
@[simp] theorem State.modTile_worn (s : State) (id : Nat) (f : Tile → Tile) : (s.modTile id f).worn = s.worn := rfl
@[simp] theorem State.modTile_pwr (s : State) (id : Nat) (f : Tile → Tile) : (s.modTile id f).pwr = s.pwr := rfl
@[simp] theorem State.modTile_lh (s : State) (id : Nat) (f : Tile → Tile) : (s.modTile id f).lh = s.lh := rfl
@[simp] theorem State.modTile_reaches (s : State) (id : Nat) (f : Tile → Tile) : (s.modTile id f).reaches = s.reaches := rfl
@[simp] theorem State.modTile_towlines (s : State) (id : Nat) (f : Tile → Tile) : (s.modTile id f).towlines = s.towlines := rfl
@[simp] theorem State.modTile_feeders (s : State) (id : Nat) (f : Tile → Tile) : (s.modTile id f).feeders = s.feeders := rfl
@[simp] theorem State.modTile_mem (s : State) (id : Nat) (f : Tile → Tile) : (s.modTile id f).mem = s.mem := rfl
@[simp] theorem State.modTile_poison (s : State) (id : Nat) (f : Tile → Tile) : (s.modTile id f).poison = s.poison := rfl
@[simp] theorem State.modTile_actor (s : State) (id : Nat) (f : Tile → Tile) : (s.modTile id f).actor = s.actor := rfl
@[simp] theorem State.modTile_checked (s : State) (id : Nat) (f : Tile → Tile) : (s.modTile id f).checked = s.checked := rfl
@[simp] theorem State.modTile_fired (s : State) (id : Nat) (f : Tile → Tile) : (s.modTile id f).fired = s.fired := rfl
@[simp] theorem State.modTile_partner (s : State) (id : Nat) (f : Tile → Tile) : (s.modTile id f).partner = s.partner := rfl
@[simp] theorem State.modTile_wordAt (s : State) (id : Nat) (f : Tile → Tile) : (s.modTile id f).wordAt = s.wordAt := rfl
@[simp] theorem State.modTile_seq (s : State) (id : Nat) (f : Tile → Tile) : (s.modTile id f).seq = s.seq := rfl
@[simp] theorem State.modTile_free (s : State) (id : Nat) (f : Tile → Tile) : (s.modTile id f).free = s.free := rfl
@[simp] theorem State.modTile_inputs (s : State) (id : Nat) (f : Tile → Tile) : (s.modTile id f).inputs = s.inputs := rfl
@[simp] theorem State.modTile_agenda (s : State) (id : Nat) (f : Tile → Tile) : (s.modTile id f).agenda = s.agenda := rfl
@[simp] theorem State.modTile_work (s : State) (id : Nat) (f : Tile → Tile) : (s.modTile id f).work = s.work := rfl
@[simp] theorem State.modTile_outbox (s : State) (id : Nat) (f : Tile → Tile) : (s.modTile id f).outbox = s.outbox := rfl

/-! ### setFeeder -/
@[simp] theorem State.setFeeder_time (s : State) (n : Nat) (f : Feeder) : (s.setFeeder n f).time = s.time := rfl
@[simp] theorem State.setFeeder_grade (s : State) (n : Nat) (f : Feeder) : (s.setFeeder n f).grade = s.grade := rfl
@[simp] theorem State.setFeeder_modNum (s : State) (n : Nat) (f : Feeder) : (s.setFeeder n f).modNum = s.modNum := rfl
@[simp] theorem State.setFeeder_flight (s : State) (n : Nat) (f : Feeder) : (s.setFeeder n f).flight = s.flight := rfl
@[simp] theorem State.setFeeder_isRef (s : State) (n : Nat) (f : Feeder) : (s.setFeeder n f).isRef = s.isRef := rfl
@[simp] theorem State.setFeeder_defects (s : State) (n : Nat) (f : Feeder) : (s.setFeeder n f).defects = s.defects := rfl
@[simp] theorem State.setFeeder_retired (s : State) (n : Nat) (f : Feeder) : (s.setFeeder n f).retired = s.retired := rfl
@[simp] theorem State.setFeeder_worn (s : State) (n : Nat) (f : Feeder) : (s.setFeeder n f).worn = s.worn := rfl
@[simp] theorem State.setFeeder_pwr (s : State) (n : Nat) (f : Feeder) : (s.setFeeder n f).pwr = s.pwr := rfl
@[simp] theorem State.setFeeder_lh (s : State) (n : Nat) (f : Feeder) : (s.setFeeder n f).lh = s.lh := rfl
@[simp] theorem State.setFeeder_reaches (s : State) (n : Nat) (f : Feeder) : (s.setFeeder n f).reaches = s.reaches := rfl
@[simp] theorem State.setFeeder_towlines (s : State) (n : Nat) (f : Feeder) : (s.setFeeder n f).towlines = s.towlines := rfl
@[simp] theorem State.setFeeder_tiles (s : State) (n : Nat) (f : Feeder) : (s.setFeeder n f).tiles = s.tiles := rfl
@[simp] theorem State.setFeeder_mem (s : State) (n : Nat) (f : Feeder) : (s.setFeeder n f).mem = s.mem := rfl
@[simp] theorem State.setFeeder_poison (s : State) (n : Nat) (f : Feeder) : (s.setFeeder n f).poison = s.poison := rfl
@[simp] theorem State.setFeeder_actor (s : State) (n : Nat) (f : Feeder) : (s.setFeeder n f).actor = s.actor := rfl
@[simp] theorem State.setFeeder_checked (s : State) (n : Nat) (f : Feeder) : (s.setFeeder n f).checked = s.checked := rfl
@[simp] theorem State.setFeeder_fired (s : State) (n : Nat) (f : Feeder) : (s.setFeeder n f).fired = s.fired := rfl
@[simp] theorem State.setFeeder_partner (s : State) (n : Nat) (f : Feeder) : (s.setFeeder n f).partner = s.partner := rfl
@[simp] theorem State.setFeeder_wordAt (s : State) (n : Nat) (f : Feeder) : (s.setFeeder n f).wordAt = s.wordAt := rfl
@[simp] theorem State.setFeeder_seq (s : State) (n : Nat) (f : Feeder) : (s.setFeeder n f).seq = s.seq := rfl
@[simp] theorem State.setFeeder_free (s : State) (n : Nat) (f : Feeder) : (s.setFeeder n f).free = s.free := rfl
@[simp] theorem State.setFeeder_inputs (s : State) (n : Nat) (f : Feeder) : (s.setFeeder n f).inputs = s.inputs := rfl
@[simp] theorem State.setFeeder_agenda (s : State) (n : Nat) (f : Feeder) : (s.setFeeder n f).agenda = s.agenda := rfl
@[simp] theorem State.setFeeder_work (s : State) (n : Nat) (f : Feeder) : (s.setFeeder n f).work = s.work := rfl
@[simp] theorem State.setFeeder_outbox (s : State) (n : Nat) (f : Feeder) : (s.setFeeder n f).outbox = s.outbox := rfl

/-! ### modFeeder -/
@[simp] theorem State.modFeeder_time (s : State) (n : Nat) (f : Feeder → Feeder) : (s.modFeeder n f).time = s.time := rfl
@[simp] theorem State.modFeeder_grade (s : State) (n : Nat) (f : Feeder → Feeder) : (s.modFeeder n f).grade = s.grade := rfl
@[simp] theorem State.modFeeder_modNum (s : State) (n : Nat) (f : Feeder → Feeder) : (s.modFeeder n f).modNum = s.modNum := rfl
@[simp] theorem State.modFeeder_flight (s : State) (n : Nat) (f : Feeder → Feeder) : (s.modFeeder n f).flight = s.flight := rfl
@[simp] theorem State.modFeeder_isRef (s : State) (n : Nat) (f : Feeder → Feeder) : (s.modFeeder n f).isRef = s.isRef := rfl
@[simp] theorem State.modFeeder_defects (s : State) (n : Nat) (f : Feeder → Feeder) : (s.modFeeder n f).defects = s.defects := rfl
@[simp] theorem State.modFeeder_retired (s : State) (n : Nat) (f : Feeder → Feeder) : (s.modFeeder n f).retired = s.retired := rfl
@[simp] theorem State.modFeeder_worn (s : State) (n : Nat) (f : Feeder → Feeder) : (s.modFeeder n f).worn = s.worn := rfl
@[simp] theorem State.modFeeder_pwr (s : State) (n : Nat) (f : Feeder → Feeder) : (s.modFeeder n f).pwr = s.pwr := rfl
@[simp] theorem State.modFeeder_lh (s : State) (n : Nat) (f : Feeder → Feeder) : (s.modFeeder n f).lh = s.lh := rfl
@[simp] theorem State.modFeeder_reaches (s : State) (n : Nat) (f : Feeder → Feeder) : (s.modFeeder n f).reaches = s.reaches := rfl
@[simp] theorem State.modFeeder_towlines (s : State) (n : Nat) (f : Feeder → Feeder) : (s.modFeeder n f).towlines = s.towlines := rfl
@[simp] theorem State.modFeeder_tiles (s : State) (n : Nat) (f : Feeder → Feeder) : (s.modFeeder n f).tiles = s.tiles := rfl
@[simp] theorem State.modFeeder_mem (s : State) (n : Nat) (f : Feeder → Feeder) : (s.modFeeder n f).mem = s.mem := rfl
@[simp] theorem State.modFeeder_poison (s : State) (n : Nat) (f : Feeder → Feeder) : (s.modFeeder n f).poison = s.poison := rfl
@[simp] theorem State.modFeeder_actor (s : State) (n : Nat) (f : Feeder → Feeder) : (s.modFeeder n f).actor = s.actor := rfl
@[simp] theorem State.modFeeder_checked (s : State) (n : Nat) (f : Feeder → Feeder) : (s.modFeeder n f).checked = s.checked := rfl
@[simp] theorem State.modFeeder_fired (s : State) (n : Nat) (f : Feeder → Feeder) : (s.modFeeder n f).fired = s.fired := rfl
@[simp] theorem State.modFeeder_partner (s : State) (n : Nat) (f : Feeder → Feeder) : (s.modFeeder n f).partner = s.partner := rfl
@[simp] theorem State.modFeeder_wordAt (s : State) (n : Nat) (f : Feeder → Feeder) : (s.modFeeder n f).wordAt = s.wordAt := rfl
@[simp] theorem State.modFeeder_seq (s : State) (n : Nat) (f : Feeder → Feeder) : (s.modFeeder n f).seq = s.seq := rfl
@[simp] theorem State.modFeeder_free (s : State) (n : Nat) (f : Feeder → Feeder) : (s.modFeeder n f).free = s.free := rfl
@[simp] theorem State.modFeeder_inputs (s : State) (n : Nat) (f : Feeder → Feeder) : (s.modFeeder n f).inputs = s.inputs := rfl
@[simp] theorem State.modFeeder_agenda (s : State) (n : Nat) (f : Feeder → Feeder) : (s.modFeeder n f).agenda = s.agenda := rfl
@[simp] theorem State.modFeeder_work (s : State) (n : Nat) (f : Feeder → Feeder) : (s.modFeeder n f).work = s.work := rfl
@[simp] theorem State.modFeeder_outbox (s : State) (n : Nat) (f : Feeder → Feeder) : (s.modFeeder n f).outbox = s.outbox := rfl

/-! ### setTowline -/
@[simp] theorem State.setTowline_time (s : State) (i : Nat) (t : Towline) : (s.setTowline i t).time = s.time := rfl
@[simp] theorem State.setTowline_grade (s : State) (i : Nat) (t : Towline) : (s.setTowline i t).grade = s.grade := rfl
@[simp] theorem State.setTowline_modNum (s : State) (i : Nat) (t : Towline) : (s.setTowline i t).modNum = s.modNum := rfl
@[simp] theorem State.setTowline_flight (s : State) (i : Nat) (t : Towline) : (s.setTowline i t).flight = s.flight := rfl
@[simp] theorem State.setTowline_isRef (s : State) (i : Nat) (t : Towline) : (s.setTowline i t).isRef = s.isRef := rfl
@[simp] theorem State.setTowline_defects (s : State) (i : Nat) (t : Towline) : (s.setTowline i t).defects = s.defects := rfl
@[simp] theorem State.setTowline_retired (s : State) (i : Nat) (t : Towline) : (s.setTowline i t).retired = s.retired := rfl
@[simp] theorem State.setTowline_worn (s : State) (i : Nat) (t : Towline) : (s.setTowline i t).worn = s.worn := rfl
@[simp] theorem State.setTowline_pwr (s : State) (i : Nat) (t : Towline) : (s.setTowline i t).pwr = s.pwr := rfl
@[simp] theorem State.setTowline_lh (s : State) (i : Nat) (t : Towline) : (s.setTowline i t).lh = s.lh := rfl
@[simp] theorem State.setTowline_reaches (s : State) (i : Nat) (t : Towline) : (s.setTowline i t).reaches = s.reaches := rfl
@[simp] theorem State.setTowline_tiles (s : State) (i : Nat) (t : Towline) : (s.setTowline i t).tiles = s.tiles := rfl
@[simp] theorem State.setTowline_feeders (s : State) (i : Nat) (t : Towline) : (s.setTowline i t).feeders = s.feeders := rfl
@[simp] theorem State.setTowline_mem (s : State) (i : Nat) (t : Towline) : (s.setTowline i t).mem = s.mem := rfl
@[simp] theorem State.setTowline_poison (s : State) (i : Nat) (t : Towline) : (s.setTowline i t).poison = s.poison := rfl
@[simp] theorem State.setTowline_actor (s : State) (i : Nat) (t : Towline) : (s.setTowline i t).actor = s.actor := rfl
@[simp] theorem State.setTowline_checked (s : State) (i : Nat) (t : Towline) : (s.setTowline i t).checked = s.checked := rfl
@[simp] theorem State.setTowline_fired (s : State) (i : Nat) (t : Towline) : (s.setTowline i t).fired = s.fired := rfl
@[simp] theorem State.setTowline_partner (s : State) (i : Nat) (t : Towline) : (s.setTowline i t).partner = s.partner := rfl
@[simp] theorem State.setTowline_wordAt (s : State) (i : Nat) (t : Towline) : (s.setTowline i t).wordAt = s.wordAt := rfl
@[simp] theorem State.setTowline_seq (s : State) (i : Nat) (t : Towline) : (s.setTowline i t).seq = s.seq := rfl
@[simp] theorem State.setTowline_free (s : State) (i : Nat) (t : Towline) : (s.setTowline i t).free = s.free := rfl
@[simp] theorem State.setTowline_inputs (s : State) (i : Nat) (t : Towline) : (s.setTowline i t).inputs = s.inputs := rfl
@[simp] theorem State.setTowline_agenda (s : State) (i : Nat) (t : Towline) : (s.setTowline i t).agenda = s.agenda := rfl
@[simp] theorem State.setTowline_work (s : State) (i : Nat) (t : Towline) : (s.setTowline i t).work = s.work := rfl
@[simp] theorem State.setTowline_outbox (s : State) (i : Nat) (t : Towline) : (s.setTowline i t).outbox = s.outbox := rfl

/-! ### modTowline -/
@[simp] theorem State.modTowline_time (s : State) (i : Nat) (f : Towline → Towline) : (s.modTowline i f).time = s.time := rfl
@[simp] theorem State.modTowline_grade (s : State) (i : Nat) (f : Towline → Towline) : (s.modTowline i f).grade = s.grade := rfl
@[simp] theorem State.modTowline_modNum (s : State) (i : Nat) (f : Towline → Towline) : (s.modTowline i f).modNum = s.modNum := rfl
@[simp] theorem State.modTowline_flight (s : State) (i : Nat) (f : Towline → Towline) : (s.modTowline i f).flight = s.flight := rfl
@[simp] theorem State.modTowline_isRef (s : State) (i : Nat) (f : Towline → Towline) : (s.modTowline i f).isRef = s.isRef := rfl
@[simp] theorem State.modTowline_defects (s : State) (i : Nat) (f : Towline → Towline) : (s.modTowline i f).defects = s.defects := rfl
@[simp] theorem State.modTowline_retired (s : State) (i : Nat) (f : Towline → Towline) : (s.modTowline i f).retired = s.retired := rfl
@[simp] theorem State.modTowline_worn (s : State) (i : Nat) (f : Towline → Towline) : (s.modTowline i f).worn = s.worn := rfl
@[simp] theorem State.modTowline_pwr (s : State) (i : Nat) (f : Towline → Towline) : (s.modTowline i f).pwr = s.pwr := rfl
@[simp] theorem State.modTowline_lh (s : State) (i : Nat) (f : Towline → Towline) : (s.modTowline i f).lh = s.lh := rfl
@[simp] theorem State.modTowline_reaches (s : State) (i : Nat) (f : Towline → Towline) : (s.modTowline i f).reaches = s.reaches := rfl
@[simp] theorem State.modTowline_tiles (s : State) (i : Nat) (f : Towline → Towline) : (s.modTowline i f).tiles = s.tiles := rfl
@[simp] theorem State.modTowline_feeders (s : State) (i : Nat) (f : Towline → Towline) : (s.modTowline i f).feeders = s.feeders := rfl
@[simp] theorem State.modTowline_mem (s : State) (i : Nat) (f : Towline → Towline) : (s.modTowline i f).mem = s.mem := rfl
@[simp] theorem State.modTowline_poison (s : State) (i : Nat) (f : Towline → Towline) : (s.modTowline i f).poison = s.poison := rfl
@[simp] theorem State.modTowline_actor (s : State) (i : Nat) (f : Towline → Towline) : (s.modTowline i f).actor = s.actor := rfl
@[simp] theorem State.modTowline_checked (s : State) (i : Nat) (f : Towline → Towline) : (s.modTowline i f).checked = s.checked := rfl
@[simp] theorem State.modTowline_fired (s : State) (i : Nat) (f : Towline → Towline) : (s.modTowline i f).fired = s.fired := rfl
@[simp] theorem State.modTowline_partner (s : State) (i : Nat) (f : Towline → Towline) : (s.modTowline i f).partner = s.partner := rfl
@[simp] theorem State.modTowline_wordAt (s : State) (i : Nat) (f : Towline → Towline) : (s.modTowline i f).wordAt = s.wordAt := rfl
@[simp] theorem State.modTowline_seq (s : State) (i : Nat) (f : Towline → Towline) : (s.modTowline i f).seq = s.seq := rfl
@[simp] theorem State.modTowline_free (s : State) (i : Nat) (f : Towline → Towline) : (s.modTowline i f).free = s.free := rfl
@[simp] theorem State.modTowline_inputs (s : State) (i : Nat) (f : Towline → Towline) : (s.modTowline i f).inputs = s.inputs := rfl
@[simp] theorem State.modTowline_agenda (s : State) (i : Nat) (f : Towline → Towline) : (s.modTowline i f).agenda = s.agenda := rfl
@[simp] theorem State.modTowline_work (s : State) (i : Nat) (f : Towline → Towline) : (s.modTowline i f).work = s.work := rfl
@[simp] theorem State.modTowline_outbox (s : State) (i : Nat) (f : Towline → Towline) : (s.modTowline i f).outbox = s.outbox := rfl

/-! ### setReach -/
@[simp] theorem State.setReach_time (s : State) (rx ry : Nat) (r : Reach) : (s.setReach rx ry r).time = s.time := rfl
@[simp] theorem State.setReach_grade (s : State) (rx ry : Nat) (r : Reach) : (s.setReach rx ry r).grade = s.grade := rfl
@[simp] theorem State.setReach_modNum (s : State) (rx ry : Nat) (r : Reach) : (s.setReach rx ry r).modNum = s.modNum := rfl
@[simp] theorem State.setReach_flight (s : State) (rx ry : Nat) (r : Reach) : (s.setReach rx ry r).flight = s.flight := rfl
@[simp] theorem State.setReach_isRef (s : State) (rx ry : Nat) (r : Reach) : (s.setReach rx ry r).isRef = s.isRef := rfl
@[simp] theorem State.setReach_defects (s : State) (rx ry : Nat) (r : Reach) : (s.setReach rx ry r).defects = s.defects := rfl
@[simp] theorem State.setReach_retired (s : State) (rx ry : Nat) (r : Reach) : (s.setReach rx ry r).retired = s.retired := rfl
@[simp] theorem State.setReach_worn (s : State) (rx ry : Nat) (r : Reach) : (s.setReach rx ry r).worn = s.worn := rfl
@[simp] theorem State.setReach_pwr (s : State) (rx ry : Nat) (r : Reach) : (s.setReach rx ry r).pwr = s.pwr := rfl
@[simp] theorem State.setReach_lh (s : State) (rx ry : Nat) (r : Reach) : (s.setReach rx ry r).lh = s.lh := rfl
@[simp] theorem State.setReach_towlines (s : State) (rx ry : Nat) (r : Reach) : (s.setReach rx ry r).towlines = s.towlines := rfl
@[simp] theorem State.setReach_tiles (s : State) (rx ry : Nat) (r : Reach) : (s.setReach rx ry r).tiles = s.tiles := rfl
@[simp] theorem State.setReach_feeders (s : State) (rx ry : Nat) (r : Reach) : (s.setReach rx ry r).feeders = s.feeders := rfl
@[simp] theorem State.setReach_mem (s : State) (rx ry : Nat) (r : Reach) : (s.setReach rx ry r).mem = s.mem := rfl
@[simp] theorem State.setReach_poison (s : State) (rx ry : Nat) (r : Reach) : (s.setReach rx ry r).poison = s.poison := rfl
@[simp] theorem State.setReach_actor (s : State) (rx ry : Nat) (r : Reach) : (s.setReach rx ry r).actor = s.actor := rfl
@[simp] theorem State.setReach_checked (s : State) (rx ry : Nat) (r : Reach) : (s.setReach rx ry r).checked = s.checked := rfl
@[simp] theorem State.setReach_fired (s : State) (rx ry : Nat) (r : Reach) : (s.setReach rx ry r).fired = s.fired := rfl
@[simp] theorem State.setReach_partner (s : State) (rx ry : Nat) (r : Reach) : (s.setReach rx ry r).partner = s.partner := rfl
@[simp] theorem State.setReach_wordAt (s : State) (rx ry : Nat) (r : Reach) : (s.setReach rx ry r).wordAt = s.wordAt := rfl
@[simp] theorem State.setReach_seq (s : State) (rx ry : Nat) (r : Reach) : (s.setReach rx ry r).seq = s.seq := rfl
@[simp] theorem State.setReach_free (s : State) (rx ry : Nat) (r : Reach) : (s.setReach rx ry r).free = s.free := rfl
@[simp] theorem State.setReach_inputs (s : State) (rx ry : Nat) (r : Reach) : (s.setReach rx ry r).inputs = s.inputs := rfl
@[simp] theorem State.setReach_agenda (s : State) (rx ry : Nat) (r : Reach) : (s.setReach rx ry r).agenda = s.agenda := rfl
@[simp] theorem State.setReach_work (s : State) (rx ry : Nat) (r : Reach) : (s.setReach rx ry r).work = s.work := rfl
@[simp] theorem State.setReach_outbox (s : State) (rx ry : Nat) (r : Reach) : (s.setReach rx ry r).outbox = s.outbox := rfl

/-! ### setCore -/
@[simp] theorem State.setCore_time (s : State) (r : CoreRef) (c : Core) : (s.setCore r c).time = s.time := by rcases r with ⟨_, _ | _⟩ | _ <;> rfl
@[simp] theorem State.setCore_grade (s : State) (r : CoreRef) (c : Core) : (s.setCore r c).grade = s.grade := by rcases r with ⟨_, _ | _⟩ | _ <;> rfl
@[simp] theorem State.setCore_modNum (s : State) (r : CoreRef) (c : Core) : (s.setCore r c).modNum = s.modNum := by rcases r with ⟨_, _ | _⟩ | _ <;> rfl
@[simp] theorem State.setCore_flight (s : State) (r : CoreRef) (c : Core) : (s.setCore r c).flight = s.flight := by rcases r with ⟨_, _ | _⟩ | _ <;> rfl
@[simp] theorem State.setCore_isRef (s : State) (r : CoreRef) (c : Core) : (s.setCore r c).isRef = s.isRef := by rcases r with ⟨_, _ | _⟩ | _ <;> rfl
@[simp] theorem State.setCore_defects (s : State) (r : CoreRef) (c : Core) : (s.setCore r c).defects = s.defects := by rcases r with ⟨_, _ | _⟩ | _ <;> rfl
@[simp] theorem State.setCore_retired (s : State) (r : CoreRef) (c : Core) : (s.setCore r c).retired = s.retired := by rcases r with ⟨_, _ | _⟩ | _ <;> rfl
@[simp] theorem State.setCore_worn (s : State) (r : CoreRef) (c : Core) : (s.setCore r c).worn = s.worn := by rcases r with ⟨_, _ | _⟩ | _ <;> rfl
@[simp] theorem State.setCore_pwr (s : State) (r : CoreRef) (c : Core) : (s.setCore r c).pwr = s.pwr := by rcases r with ⟨_, _ | _⟩ | _ <;> rfl
@[simp] theorem State.setCore_lh (s : State) (r : CoreRef) (c : Core) : (s.setCore r c).lh = s.lh := by rcases r with ⟨_, _ | _⟩ | _ <;> rfl
@[simp] theorem State.setCore_reaches (s : State) (r : CoreRef) (c : Core) : (s.setCore r c).reaches = s.reaches := by rcases r with ⟨_, _ | _⟩ | _ <;> rfl
@[simp] theorem State.setCore_towlines (s : State) (r : CoreRef) (c : Core) : (s.setCore r c).towlines = s.towlines := by rcases r with ⟨_, _ | _⟩ | _ <;> rfl
@[simp] theorem State.setCore_mem (s : State) (r : CoreRef) (c : Core) : (s.setCore r c).mem = s.mem := by rcases r with ⟨_, _ | _⟩ | _ <;> rfl
@[simp] theorem State.setCore_poison (s : State) (r : CoreRef) (c : Core) : (s.setCore r c).poison = s.poison := by rcases r with ⟨_, _ | _⟩ | _ <;> rfl
@[simp] theorem State.setCore_actor (s : State) (r : CoreRef) (c : Core) : (s.setCore r c).actor = s.actor := by rcases r with ⟨_, _ | _⟩ | _ <;> rfl
@[simp] theorem State.setCore_checked (s : State) (r : CoreRef) (c : Core) : (s.setCore r c).checked = s.checked := by rcases r with ⟨_, _ | _⟩ | _ <;> rfl
@[simp] theorem State.setCore_fired (s : State) (r : CoreRef) (c : Core) : (s.setCore r c).fired = s.fired := by rcases r with ⟨_, _ | _⟩ | _ <;> rfl
@[simp] theorem State.setCore_partner (s : State) (r : CoreRef) (c : Core) : (s.setCore r c).partner = s.partner := by rcases r with ⟨_, _ | _⟩ | _ <;> rfl
@[simp] theorem State.setCore_wordAt (s : State) (r : CoreRef) (c : Core) : (s.setCore r c).wordAt = s.wordAt := by rcases r with ⟨_, _ | _⟩ | _ <;> rfl
@[simp] theorem State.setCore_seq (s : State) (r : CoreRef) (c : Core) : (s.setCore r c).seq = s.seq := by rcases r with ⟨_, _ | _⟩ | _ <;> rfl
@[simp] theorem State.setCore_free (s : State) (r : CoreRef) (c : Core) : (s.setCore r c).free = s.free := by rcases r with ⟨_, _ | _⟩ | _ <;> rfl
@[simp] theorem State.setCore_inputs (s : State) (r : CoreRef) (c : Core) : (s.setCore r c).inputs = s.inputs := by rcases r with ⟨_, _ | _⟩ | _ <;> rfl
@[simp] theorem State.setCore_agenda (s : State) (r : CoreRef) (c : Core) : (s.setCore r c).agenda = s.agenda := by rcases r with ⟨_, _ | _⟩ | _ <;> rfl
@[simp] theorem State.setCore_work (s : State) (r : CoreRef) (c : Core) : (s.setCore r c).work = s.work := by rcases r with ⟨_, _ | _⟩ | _ <;> rfl
@[simp] theorem State.setCore_outbox (s : State) (r : CoreRef) (c : Core) : (s.setCore r c).outbox = s.outbox := by rcases r with ⟨_, _ | _⟩ | _ <;> rfl

/-! ### modCore -/
@[simp] theorem State.modCore_time (s : State) (r : CoreRef) (f : Core → Core) : (s.modCore r f).time = s.time := State.setCore_time s r _
@[simp] theorem State.modCore_grade (s : State) (r : CoreRef) (f : Core → Core) : (s.modCore r f).grade = s.grade := State.setCore_grade s r _
@[simp] theorem State.modCore_modNum (s : State) (r : CoreRef) (f : Core → Core) : (s.modCore r f).modNum = s.modNum := State.setCore_modNum s r _
@[simp] theorem State.modCore_flight (s : State) (r : CoreRef) (f : Core → Core) : (s.modCore r f).flight = s.flight := State.setCore_flight s r _
@[simp] theorem State.modCore_isRef (s : State) (r : CoreRef) (f : Core → Core) : (s.modCore r f).isRef = s.isRef := State.setCore_isRef s r _
@[simp] theorem State.modCore_defects (s : State) (r : CoreRef) (f : Core → Core) : (s.modCore r f).defects = s.defects := State.setCore_defects s r _
@[simp] theorem State.modCore_retired (s : State) (r : CoreRef) (f : Core → Core) : (s.modCore r f).retired = s.retired := State.setCore_retired s r _
@[simp] theorem State.modCore_worn (s : State) (r : CoreRef) (f : Core → Core) : (s.modCore r f).worn = s.worn := State.setCore_worn s r _
@[simp] theorem State.modCore_pwr (s : State) (r : CoreRef) (f : Core → Core) : (s.modCore r f).pwr = s.pwr := State.setCore_pwr s r _
@[simp] theorem State.modCore_lh (s : State) (r : CoreRef) (f : Core → Core) : (s.modCore r f).lh = s.lh := State.setCore_lh s r _
@[simp] theorem State.modCore_reaches (s : State) (r : CoreRef) (f : Core → Core) : (s.modCore r f).reaches = s.reaches := State.setCore_reaches s r _
@[simp] theorem State.modCore_towlines (s : State) (r : CoreRef) (f : Core → Core) : (s.modCore r f).towlines = s.towlines := State.setCore_towlines s r _
@[simp] theorem State.modCore_mem (s : State) (r : CoreRef) (f : Core → Core) : (s.modCore r f).mem = s.mem := State.setCore_mem s r _
@[simp] theorem State.modCore_poison (s : State) (r : CoreRef) (f : Core → Core) : (s.modCore r f).poison = s.poison := State.setCore_poison s r _
@[simp] theorem State.modCore_actor (s : State) (r : CoreRef) (f : Core → Core) : (s.modCore r f).actor = s.actor := State.setCore_actor s r _
@[simp] theorem State.modCore_checked (s : State) (r : CoreRef) (f : Core → Core) : (s.modCore r f).checked = s.checked := State.setCore_checked s r _
@[simp] theorem State.modCore_fired (s : State) (r : CoreRef) (f : Core → Core) : (s.modCore r f).fired = s.fired := State.setCore_fired s r _
@[simp] theorem State.modCore_partner (s : State) (r : CoreRef) (f : Core → Core) : (s.modCore r f).partner = s.partner := State.setCore_partner s r _
@[simp] theorem State.modCore_wordAt (s : State) (r : CoreRef) (f : Core → Core) : (s.modCore r f).wordAt = s.wordAt := State.setCore_wordAt s r _
@[simp] theorem State.modCore_seq (s : State) (r : CoreRef) (f : Core → Core) : (s.modCore r f).seq = s.seq := State.setCore_seq s r _
@[simp] theorem State.modCore_free (s : State) (r : CoreRef) (f : Core → Core) : (s.modCore r f).free = s.free := State.setCore_free s r _
@[simp] theorem State.modCore_inputs (s : State) (r : CoreRef) (f : Core → Core) : (s.modCore r f).inputs = s.inputs := State.setCore_inputs s r _
@[simp] theorem State.modCore_agenda (s : State) (r : CoreRef) (f : Core → Core) : (s.modCore r f).agenda = s.agenda := State.setCore_agenda s r _
@[simp] theorem State.modCore_work (s : State) (r : CoreRef) (f : Core → Core) : (s.modCore r f).work = s.work := State.setCore_work s r _
@[simp] theorem State.modCore_outbox (s : State) (r : CoreRef) (f : Core → Core) : (s.modCore r f).outbox = s.outbox := State.setCore_outbox s r _

/-! ### setMe -/
@[simp] theorem State.setMe_time (s : State) (c : Core) : (s.setMe c).time = s.time := State.setCore_time s _ c
@[simp] theorem State.setMe_grade (s : State) (c : Core) : (s.setMe c).grade = s.grade := State.setCore_grade s _ c
@[simp] theorem State.setMe_modNum (s : State) (c : Core) : (s.setMe c).modNum = s.modNum := State.setCore_modNum s _ c
@[simp] theorem State.setMe_flight (s : State) (c : Core) : (s.setMe c).flight = s.flight := State.setCore_flight s _ c
@[simp] theorem State.setMe_isRef (s : State) (c : Core) : (s.setMe c).isRef = s.isRef := State.setCore_isRef s _ c
@[simp] theorem State.setMe_defects (s : State) (c : Core) : (s.setMe c).defects = s.defects := State.setCore_defects s _ c
@[simp] theorem State.setMe_retired (s : State) (c : Core) : (s.setMe c).retired = s.retired := State.setCore_retired s _ c
@[simp] theorem State.setMe_worn (s : State) (c : Core) : (s.setMe c).worn = s.worn := State.setCore_worn s _ c
@[simp] theorem State.setMe_pwr (s : State) (c : Core) : (s.setMe c).pwr = s.pwr := State.setCore_pwr s _ c
@[simp] theorem State.setMe_lh (s : State) (c : Core) : (s.setMe c).lh = s.lh := State.setCore_lh s _ c
@[simp] theorem State.setMe_reaches (s : State) (c : Core) : (s.setMe c).reaches = s.reaches := State.setCore_reaches s _ c
@[simp] theorem State.setMe_towlines (s : State) (c : Core) : (s.setMe c).towlines = s.towlines := State.setCore_towlines s _ c
@[simp] theorem State.setMe_mem (s : State) (c : Core) : (s.setMe c).mem = s.mem := State.setCore_mem s _ c
@[simp] theorem State.setMe_poison (s : State) (c : Core) : (s.setMe c).poison = s.poison := State.setCore_poison s _ c
@[simp] theorem State.setMe_actor (s : State) (c : Core) : (s.setMe c).actor = s.actor := State.setCore_actor s _ c
@[simp] theorem State.setMe_checked (s : State) (c : Core) : (s.setMe c).checked = s.checked := State.setCore_checked s _ c
@[simp] theorem State.setMe_fired (s : State) (c : Core) : (s.setMe c).fired = s.fired := State.setCore_fired s _ c
@[simp] theorem State.setMe_partner (s : State) (c : Core) : (s.setMe c).partner = s.partner := State.setCore_partner s _ c
@[simp] theorem State.setMe_wordAt (s : State) (c : Core) : (s.setMe c).wordAt = s.wordAt := State.setCore_wordAt s _ c
@[simp] theorem State.setMe_seq (s : State) (c : Core) : (s.setMe c).seq = s.seq := State.setCore_seq s _ c
@[simp] theorem State.setMe_free (s : State) (c : Core) : (s.setMe c).free = s.free := State.setCore_free s _ c
@[simp] theorem State.setMe_inputs (s : State) (c : Core) : (s.setMe c).inputs = s.inputs := State.setCore_inputs s _ c
@[simp] theorem State.setMe_agenda (s : State) (c : Core) : (s.setMe c).agenda = s.agenda := State.setCore_agenda s _ c
@[simp] theorem State.setMe_work (s : State) (c : Core) : (s.setMe c).work = s.work := State.setCore_work s _ c
@[simp] theorem State.setMe_outbox (s : State) (c : Core) : (s.setMe c).outbox = s.outbox := State.setCore_outbox s _ c

/-! ### modMe -/
@[simp] theorem State.modMe_time (s : State) (f : Core → Core) : (s.modMe f).time = s.time := State.modCore_time s _ f
@[simp] theorem State.modMe_grade (s : State) (f : Core → Core) : (s.modMe f).grade = s.grade := State.modCore_grade s _ f
@[simp] theorem State.modMe_modNum (s : State) (f : Core → Core) : (s.modMe f).modNum = s.modNum := State.modCore_modNum s _ f
@[simp] theorem State.modMe_flight (s : State) (f : Core → Core) : (s.modMe f).flight = s.flight := State.modCore_flight s _ f
@[simp] theorem State.modMe_isRef (s : State) (f : Core → Core) : (s.modMe f).isRef = s.isRef := State.modCore_isRef s _ f
@[simp] theorem State.modMe_defects (s : State) (f : Core → Core) : (s.modMe f).defects = s.defects := State.modCore_defects s _ f
@[simp] theorem State.modMe_retired (s : State) (f : Core → Core) : (s.modMe f).retired = s.retired := State.modCore_retired s _ f
@[simp] theorem State.modMe_worn (s : State) (f : Core → Core) : (s.modMe f).worn = s.worn := State.modCore_worn s _ f
@[simp] theorem State.modMe_pwr (s : State) (f : Core → Core) : (s.modMe f).pwr = s.pwr := State.modCore_pwr s _ f
@[simp] theorem State.modMe_lh (s : State) (f : Core → Core) : (s.modMe f).lh = s.lh := State.modCore_lh s _ f
@[simp] theorem State.modMe_reaches (s : State) (f : Core → Core) : (s.modMe f).reaches = s.reaches := State.modCore_reaches s _ f
@[simp] theorem State.modMe_towlines (s : State) (f : Core → Core) : (s.modMe f).towlines = s.towlines := State.modCore_towlines s _ f
@[simp] theorem State.modMe_mem (s : State) (f : Core → Core) : (s.modMe f).mem = s.mem := State.modCore_mem s _ f
@[simp] theorem State.modMe_poison (s : State) (f : Core → Core) : (s.modMe f).poison = s.poison := State.modCore_poison s _ f
@[simp] theorem State.modMe_actor (s : State) (f : Core → Core) : (s.modMe f).actor = s.actor := State.modCore_actor s _ f
@[simp] theorem State.modMe_checked (s : State) (f : Core → Core) : (s.modMe f).checked = s.checked := State.modCore_checked s _ f
@[simp] theorem State.modMe_fired (s : State) (f : Core → Core) : (s.modMe f).fired = s.fired := State.modCore_fired s _ f
@[simp] theorem State.modMe_partner (s : State) (f : Core → Core) : (s.modMe f).partner = s.partner := State.modCore_partner s _ f
@[simp] theorem State.modMe_wordAt (s : State) (f : Core → Core) : (s.modMe f).wordAt = s.wordAt := State.modCore_wordAt s _ f
@[simp] theorem State.modMe_seq (s : State) (f : Core → Core) : (s.modMe f).seq = s.seq := State.modCore_seq s _ f
@[simp] theorem State.modMe_free (s : State) (f : Core → Core) : (s.modMe f).free = s.free := State.modCore_free s _ f
@[simp] theorem State.modMe_inputs (s : State) (f : Core → Core) : (s.modMe f).inputs = s.inputs := State.modCore_inputs s _ f
@[simp] theorem State.modMe_agenda (s : State) (f : Core → Core) : (s.modMe f).agenda = s.agenda := State.modCore_agenda s _ f
@[simp] theorem State.modMe_work (s : State) (f : Core → Core) : (s.modMe f).work = s.work := State.modCore_work s _ f
@[simp] theorem State.modMe_outbox (s : State) (f : Core → Core) : (s.modMe f).outbox = s.outbox := State.modCore_outbox s _ f

/-! ### setSlot -/
@[simp] theorem State.setSlot_time (s : State) (n : Nat) (x : Slot) : (s.setSlot n x).time = s.time := rfl
@[simp] theorem State.setSlot_grade (s : State) (n : Nat) (x : Slot) : (s.setSlot n x).grade = s.grade := rfl
@[simp] theorem State.setSlot_modNum (s : State) (n : Nat) (x : Slot) : (s.setSlot n x).modNum = s.modNum := rfl
@[simp] theorem State.setSlot_flight (s : State) (n : Nat) (x : Slot) : (s.setSlot n x).flight = s.flight := rfl
@[simp] theorem State.setSlot_isRef (s : State) (n : Nat) (x : Slot) : (s.setSlot n x).isRef = s.isRef := rfl
@[simp] theorem State.setSlot_defects (s : State) (n : Nat) (x : Slot) : (s.setSlot n x).defects = s.defects := rfl
@[simp] theorem State.setSlot_retired (s : State) (n : Nat) (x : Slot) : (s.setSlot n x).retired = s.retired := rfl
@[simp] theorem State.setSlot_worn (s : State) (n : Nat) (x : Slot) : (s.setSlot n x).worn = s.worn := rfl
@[simp] theorem State.setSlot_pwr (s : State) (n : Nat) (x : Slot) : (s.setSlot n x).pwr = s.pwr := rfl
@[simp] theorem State.setSlot_reaches (s : State) (n : Nat) (x : Slot) : (s.setSlot n x).reaches = s.reaches := rfl
@[simp] theorem State.setSlot_towlines (s : State) (n : Nat) (x : Slot) : (s.setSlot n x).towlines = s.towlines := rfl
@[simp] theorem State.setSlot_tiles (s : State) (n : Nat) (x : Slot) : (s.setSlot n x).tiles = s.tiles := rfl
@[simp] theorem State.setSlot_feeders (s : State) (n : Nat) (x : Slot) : (s.setSlot n x).feeders = s.feeders := rfl
@[simp] theorem State.setSlot_mem (s : State) (n : Nat) (x : Slot) : (s.setSlot n x).mem = s.mem := rfl
@[simp] theorem State.setSlot_poison (s : State) (n : Nat) (x : Slot) : (s.setSlot n x).poison = s.poison := rfl
@[simp] theorem State.setSlot_actor (s : State) (n : Nat) (x : Slot) : (s.setSlot n x).actor = s.actor := rfl
@[simp] theorem State.setSlot_checked (s : State) (n : Nat) (x : Slot) : (s.setSlot n x).checked = s.checked := rfl
@[simp] theorem State.setSlot_fired (s : State) (n : Nat) (x : Slot) : (s.setSlot n x).fired = s.fired := rfl
@[simp] theorem State.setSlot_partner (s : State) (n : Nat) (x : Slot) : (s.setSlot n x).partner = s.partner := rfl
@[simp] theorem State.setSlot_wordAt (s : State) (n : Nat) (x : Slot) : (s.setSlot n x).wordAt = s.wordAt := rfl
@[simp] theorem State.setSlot_seq (s : State) (n : Nat) (x : Slot) : (s.setSlot n x).seq = s.seq := rfl
@[simp] theorem State.setSlot_free (s : State) (n : Nat) (x : Slot) : (s.setSlot n x).free = s.free := rfl
@[simp] theorem State.setSlot_inputs (s : State) (n : Nat) (x : Slot) : (s.setSlot n x).inputs = s.inputs := rfl
@[simp] theorem State.setSlot_agenda (s : State) (n : Nat) (x : Slot) : (s.setSlot n x).agenda = s.agenda := rfl
@[simp] theorem State.setSlot_work (s : State) (n : Nat) (x : Slot) : (s.setSlot n x).work = s.work := rfl
@[simp] theorem State.setSlot_outbox (s : State) (n : Nat) (x : Slot) : (s.setSlot n x).outbox = s.outbox := rfl

/-! ### modSlot -/
@[simp] theorem State.modSlot_time (s : State) (n : Nat) (f : Slot → Slot) : (s.modSlot n f).time = s.time := rfl
@[simp] theorem State.modSlot_grade (s : State) (n : Nat) (f : Slot → Slot) : (s.modSlot n f).grade = s.grade := rfl
@[simp] theorem State.modSlot_modNum (s : State) (n : Nat) (f : Slot → Slot) : (s.modSlot n f).modNum = s.modNum := rfl
@[simp] theorem State.modSlot_flight (s : State) (n : Nat) (f : Slot → Slot) : (s.modSlot n f).flight = s.flight := rfl
@[simp] theorem State.modSlot_isRef (s : State) (n : Nat) (f : Slot → Slot) : (s.modSlot n f).isRef = s.isRef := rfl
@[simp] theorem State.modSlot_defects (s : State) (n : Nat) (f : Slot → Slot) : (s.modSlot n f).defects = s.defects := rfl
@[simp] theorem State.modSlot_retired (s : State) (n : Nat) (f : Slot → Slot) : (s.modSlot n f).retired = s.retired := rfl
@[simp] theorem State.modSlot_worn (s : State) (n : Nat) (f : Slot → Slot) : (s.modSlot n f).worn = s.worn := rfl
@[simp] theorem State.modSlot_pwr (s : State) (n : Nat) (f : Slot → Slot) : (s.modSlot n f).pwr = s.pwr := rfl
@[simp] theorem State.modSlot_reaches (s : State) (n : Nat) (f : Slot → Slot) : (s.modSlot n f).reaches = s.reaches := rfl
@[simp] theorem State.modSlot_towlines (s : State) (n : Nat) (f : Slot → Slot) : (s.modSlot n f).towlines = s.towlines := rfl
@[simp] theorem State.modSlot_tiles (s : State) (n : Nat) (f : Slot → Slot) : (s.modSlot n f).tiles = s.tiles := rfl
@[simp] theorem State.modSlot_feeders (s : State) (n : Nat) (f : Slot → Slot) : (s.modSlot n f).feeders = s.feeders := rfl
@[simp] theorem State.modSlot_mem (s : State) (n : Nat) (f : Slot → Slot) : (s.modSlot n f).mem = s.mem := rfl
@[simp] theorem State.modSlot_poison (s : State) (n : Nat) (f : Slot → Slot) : (s.modSlot n f).poison = s.poison := rfl
@[simp] theorem State.modSlot_actor (s : State) (n : Nat) (f : Slot → Slot) : (s.modSlot n f).actor = s.actor := rfl
@[simp] theorem State.modSlot_checked (s : State) (n : Nat) (f : Slot → Slot) : (s.modSlot n f).checked = s.checked := rfl
@[simp] theorem State.modSlot_fired (s : State) (n : Nat) (f : Slot → Slot) : (s.modSlot n f).fired = s.fired := rfl
@[simp] theorem State.modSlot_partner (s : State) (n : Nat) (f : Slot → Slot) : (s.modSlot n f).partner = s.partner := rfl
@[simp] theorem State.modSlot_wordAt (s : State) (n : Nat) (f : Slot → Slot) : (s.modSlot n f).wordAt = s.wordAt := rfl
@[simp] theorem State.modSlot_seq (s : State) (n : Nat) (f : Slot → Slot) : (s.modSlot n f).seq = s.seq := rfl
@[simp] theorem State.modSlot_free (s : State) (n : Nat) (f : Slot → Slot) : (s.modSlot n f).free = s.free := rfl
@[simp] theorem State.modSlot_inputs (s : State) (n : Nat) (f : Slot → Slot) : (s.modSlot n f).inputs = s.inputs := rfl
@[simp] theorem State.modSlot_agenda (s : State) (n : Nat) (f : Slot → Slot) : (s.modSlot n f).agenda = s.agenda := rfl
@[simp] theorem State.modSlot_work (s : State) (n : Nat) (f : Slot → Slot) : (s.modSlot n f).work = s.work := rfl
@[simp] theorem State.modSlot_outbox (s : State) (n : Nat) (f : Slot → Slot) : (s.modSlot n f).outbox = s.outbox := rfl

/-! ### modRun -/
@[simp] theorem State.modRun_time (s : State) (n : Nat) (f : CrewRun → CrewRun) : (s.modRun n f).time = s.time := rfl
@[simp] theorem State.modRun_grade (s : State) (n : Nat) (f : CrewRun → CrewRun) : (s.modRun n f).grade = s.grade := rfl
@[simp] theorem State.modRun_modNum (s : State) (n : Nat) (f : CrewRun → CrewRun) : (s.modRun n f).modNum = s.modNum := rfl
@[simp] theorem State.modRun_flight (s : State) (n : Nat) (f : CrewRun → CrewRun) : (s.modRun n f).flight = s.flight := rfl
@[simp] theorem State.modRun_isRef (s : State) (n : Nat) (f : CrewRun → CrewRun) : (s.modRun n f).isRef = s.isRef := rfl
@[simp] theorem State.modRun_defects (s : State) (n : Nat) (f : CrewRun → CrewRun) : (s.modRun n f).defects = s.defects := rfl
@[simp] theorem State.modRun_retired (s : State) (n : Nat) (f : CrewRun → CrewRun) : (s.modRun n f).retired = s.retired := rfl
@[simp] theorem State.modRun_worn (s : State) (n : Nat) (f : CrewRun → CrewRun) : (s.modRun n f).worn = s.worn := rfl
@[simp] theorem State.modRun_pwr (s : State) (n : Nat) (f : CrewRun → CrewRun) : (s.modRun n f).pwr = s.pwr := rfl
@[simp] theorem State.modRun_reaches (s : State) (n : Nat) (f : CrewRun → CrewRun) : (s.modRun n f).reaches = s.reaches := rfl
@[simp] theorem State.modRun_towlines (s : State) (n : Nat) (f : CrewRun → CrewRun) : (s.modRun n f).towlines = s.towlines := rfl
@[simp] theorem State.modRun_tiles (s : State) (n : Nat) (f : CrewRun → CrewRun) : (s.modRun n f).tiles = s.tiles := rfl
@[simp] theorem State.modRun_feeders (s : State) (n : Nat) (f : CrewRun → CrewRun) : (s.modRun n f).feeders = s.feeders := rfl
@[simp] theorem State.modRun_mem (s : State) (n : Nat) (f : CrewRun → CrewRun) : (s.modRun n f).mem = s.mem := rfl
@[simp] theorem State.modRun_poison (s : State) (n : Nat) (f : CrewRun → CrewRun) : (s.modRun n f).poison = s.poison := rfl
@[simp] theorem State.modRun_actor (s : State) (n : Nat) (f : CrewRun → CrewRun) : (s.modRun n f).actor = s.actor := rfl
@[simp] theorem State.modRun_checked (s : State) (n : Nat) (f : CrewRun → CrewRun) : (s.modRun n f).checked = s.checked := rfl
@[simp] theorem State.modRun_fired (s : State) (n : Nat) (f : CrewRun → CrewRun) : (s.modRun n f).fired = s.fired := rfl
@[simp] theorem State.modRun_partner (s : State) (n : Nat) (f : CrewRun → CrewRun) : (s.modRun n f).partner = s.partner := rfl
@[simp] theorem State.modRun_wordAt (s : State) (n : Nat) (f : CrewRun → CrewRun) : (s.modRun n f).wordAt = s.wordAt := rfl
@[simp] theorem State.modRun_seq (s : State) (n : Nat) (f : CrewRun → CrewRun) : (s.modRun n f).seq = s.seq := rfl
@[simp] theorem State.modRun_free (s : State) (n : Nat) (f : CrewRun → CrewRun) : (s.modRun n f).free = s.free := rfl
@[simp] theorem State.modRun_inputs (s : State) (n : Nat) (f : CrewRun → CrewRun) : (s.modRun n f).inputs = s.inputs := rfl
@[simp] theorem State.modRun_agenda (s : State) (n : Nat) (f : CrewRun → CrewRun) : (s.modRun n f).agenda = s.agenda := rfl
@[simp] theorem State.modRun_work (s : State) (n : Nat) (f : CrewRun → CrewRun) : (s.modRun n f).work = s.work := rfl
@[simp] theorem State.modRun_outbox (s : State) (n : Nat) (f : CrewRun → CrewRun) : (s.modRun n f).outbox = s.outbox := rfl

/-! ### atTime -/
@[simp] theorem State.atTime_time (s : State) (t : Word) (i : Instr) : (s.atTime t i).time = s.time := rfl
@[simp] theorem State.atTime_grade (s : State) (t : Word) (i : Instr) : (s.atTime t i).grade = s.grade := rfl
@[simp] theorem State.atTime_modNum (s : State) (t : Word) (i : Instr) : (s.atTime t i).modNum = s.modNum := rfl
@[simp] theorem State.atTime_flight (s : State) (t : Word) (i : Instr) : (s.atTime t i).flight = s.flight := rfl
@[simp] theorem State.atTime_isRef (s : State) (t : Word) (i : Instr) : (s.atTime t i).isRef = s.isRef := rfl
@[simp] theorem State.atTime_defects (s : State) (t : Word) (i : Instr) : (s.atTime t i).defects = s.defects := rfl
@[simp] theorem State.atTime_retired (s : State) (t : Word) (i : Instr) : (s.atTime t i).retired = s.retired := rfl
@[simp] theorem State.atTime_worn (s : State) (t : Word) (i : Instr) : (s.atTime t i).worn = s.worn := rfl
@[simp] theorem State.atTime_pwr (s : State) (t : Word) (i : Instr) : (s.atTime t i).pwr = s.pwr := rfl
@[simp] theorem State.atTime_lh (s : State) (t : Word) (i : Instr) : (s.atTime t i).lh = s.lh := rfl
@[simp] theorem State.atTime_reaches (s : State) (t : Word) (i : Instr) : (s.atTime t i).reaches = s.reaches := rfl
@[simp] theorem State.atTime_towlines (s : State) (t : Word) (i : Instr) : (s.atTime t i).towlines = s.towlines := rfl
@[simp] theorem State.atTime_tiles (s : State) (t : Word) (i : Instr) : (s.atTime t i).tiles = s.tiles := rfl
@[simp] theorem State.atTime_feeders (s : State) (t : Word) (i : Instr) : (s.atTime t i).feeders = s.feeders := rfl
@[simp] theorem State.atTime_mem (s : State) (t : Word) (i : Instr) : (s.atTime t i).mem = s.mem := rfl
@[simp] theorem State.atTime_poison (s : State) (t : Word) (i : Instr) : (s.atTime t i).poison = s.poison := rfl
@[simp] theorem State.atTime_actor (s : State) (t : Word) (i : Instr) : (s.atTime t i).actor = s.actor := rfl
@[simp] theorem State.atTime_checked (s : State) (t : Word) (i : Instr) : (s.atTime t i).checked = s.checked := rfl
@[simp] theorem State.atTime_fired (s : State) (t : Word) (i : Instr) : (s.atTime t i).fired = s.fired := rfl
@[simp] theorem State.atTime_partner (s : State) (t : Word) (i : Instr) : (s.atTime t i).partner = s.partner := rfl
@[simp] theorem State.atTime_wordAt (s : State) (t : Word) (i : Instr) : (s.atTime t i).wordAt = s.wordAt := rfl
@[simp] theorem State.atTime_seq (s : State) (t : Word) (i : Instr) : (s.atTime t i).seq = s.seq := rfl
@[simp] theorem State.atTime_free (s : State) (t : Word) (i : Instr) : (s.atTime t i).free = s.free := rfl
@[simp] theorem State.atTime_inputs (s : State) (t : Word) (i : Instr) : (s.atTime t i).inputs = s.inputs := rfl
@[simp] theorem State.atTime_work (s : State) (t : Word) (i : Instr) : (s.atTime t i).work = s.work := rfl
@[simp] theorem State.atTime_outbox (s : State) (t : Word) (i : Instr) : (s.atTime t i).outbox = s.outbox := rfl

/-! ### afterTime -/
@[simp] theorem State.afterTime_time (s : State) (d : Nat) (i : Instr) : (s.afterTime d i).time = s.time := rfl
@[simp] theorem State.afterTime_grade (s : State) (d : Nat) (i : Instr) : (s.afterTime d i).grade = s.grade := rfl
@[simp] theorem State.afterTime_modNum (s : State) (d : Nat) (i : Instr) : (s.afterTime d i).modNum = s.modNum := rfl
@[simp] theorem State.afterTime_flight (s : State) (d : Nat) (i : Instr) : (s.afterTime d i).flight = s.flight := rfl
@[simp] theorem State.afterTime_isRef (s : State) (d : Nat) (i : Instr) : (s.afterTime d i).isRef = s.isRef := rfl
@[simp] theorem State.afterTime_defects (s : State) (d : Nat) (i : Instr) : (s.afterTime d i).defects = s.defects := rfl
@[simp] theorem State.afterTime_retired (s : State) (d : Nat) (i : Instr) : (s.afterTime d i).retired = s.retired := rfl
@[simp] theorem State.afterTime_worn (s : State) (d : Nat) (i : Instr) : (s.afterTime d i).worn = s.worn := rfl
@[simp] theorem State.afterTime_pwr (s : State) (d : Nat) (i : Instr) : (s.afterTime d i).pwr = s.pwr := rfl
@[simp] theorem State.afterTime_lh (s : State) (d : Nat) (i : Instr) : (s.afterTime d i).lh = s.lh := rfl
@[simp] theorem State.afterTime_reaches (s : State) (d : Nat) (i : Instr) : (s.afterTime d i).reaches = s.reaches := rfl
@[simp] theorem State.afterTime_towlines (s : State) (d : Nat) (i : Instr) : (s.afterTime d i).towlines = s.towlines := rfl
@[simp] theorem State.afterTime_tiles (s : State) (d : Nat) (i : Instr) : (s.afterTime d i).tiles = s.tiles := rfl
@[simp] theorem State.afterTime_feeders (s : State) (d : Nat) (i : Instr) : (s.afterTime d i).feeders = s.feeders := rfl
@[simp] theorem State.afterTime_mem (s : State) (d : Nat) (i : Instr) : (s.afterTime d i).mem = s.mem := rfl
@[simp] theorem State.afterTime_poison (s : State) (d : Nat) (i : Instr) : (s.afterTime d i).poison = s.poison := rfl
@[simp] theorem State.afterTime_actor (s : State) (d : Nat) (i : Instr) : (s.afterTime d i).actor = s.actor := rfl
@[simp] theorem State.afterTime_checked (s : State) (d : Nat) (i : Instr) : (s.afterTime d i).checked = s.checked := rfl
@[simp] theorem State.afterTime_fired (s : State) (d : Nat) (i : Instr) : (s.afterTime d i).fired = s.fired := rfl
@[simp] theorem State.afterTime_partner (s : State) (d : Nat) (i : Instr) : (s.afterTime d i).partner = s.partner := rfl
@[simp] theorem State.afterTime_wordAt (s : State) (d : Nat) (i : Instr) : (s.afterTime d i).wordAt = s.wordAt := rfl
@[simp] theorem State.afterTime_seq (s : State) (d : Nat) (i : Instr) : (s.afterTime d i).seq = s.seq := rfl
@[simp] theorem State.afterTime_free (s : State) (d : Nat) (i : Instr) : (s.afterTime d i).free = s.free := rfl
@[simp] theorem State.afterTime_inputs (s : State) (d : Nat) (i : Instr) : (s.afterTime d i).inputs = s.inputs := rfl
@[simp] theorem State.afterTime_work (s : State) (d : Nat) (i : Instr) : (s.afterTime d i).work = s.work := rfl
@[simp] theorem State.afterTime_outbox (s : State) (d : Nat) (i : Instr) : (s.afterTime d i).outbox = s.outbox := rfl

/-! ### atCount -/
@[simp] theorem State.atCount_time (s : State) (n : Nat) (c : BitVec 48) (i : Instr) : (s.atCount n c i).time = s.time := rfl
@[simp] theorem State.atCount_grade (s : State) (n : Nat) (c : BitVec 48) (i : Instr) : (s.atCount n c i).grade = s.grade := rfl
@[simp] theorem State.atCount_modNum (s : State) (n : Nat) (c : BitVec 48) (i : Instr) : (s.atCount n c i).modNum = s.modNum := rfl
@[simp] theorem State.atCount_flight (s : State) (n : Nat) (c : BitVec 48) (i : Instr) : (s.atCount n c i).flight = s.flight := rfl
@[simp] theorem State.atCount_isRef (s : State) (n : Nat) (c : BitVec 48) (i : Instr) : (s.atCount n c i).isRef = s.isRef := rfl
@[simp] theorem State.atCount_defects (s : State) (n : Nat) (c : BitVec 48) (i : Instr) : (s.atCount n c i).defects = s.defects := rfl
@[simp] theorem State.atCount_retired (s : State) (n : Nat) (c : BitVec 48) (i : Instr) : (s.atCount n c i).retired = s.retired := rfl
@[simp] theorem State.atCount_worn (s : State) (n : Nat) (c : BitVec 48) (i : Instr) : (s.atCount n c i).worn = s.worn := rfl
@[simp] theorem State.atCount_pwr (s : State) (n : Nat) (c : BitVec 48) (i : Instr) : (s.atCount n c i).pwr = s.pwr := rfl
@[simp] theorem State.atCount_lh (s : State) (n : Nat) (c : BitVec 48) (i : Instr) : (s.atCount n c i).lh = s.lh := rfl
@[simp] theorem State.atCount_reaches (s : State) (n : Nat) (c : BitVec 48) (i : Instr) : (s.atCount n c i).reaches = s.reaches := rfl
@[simp] theorem State.atCount_towlines (s : State) (n : Nat) (c : BitVec 48) (i : Instr) : (s.atCount n c i).towlines = s.towlines := rfl
@[simp] theorem State.atCount_tiles (s : State) (n : Nat) (c : BitVec 48) (i : Instr) : (s.atCount n c i).tiles = s.tiles := rfl
@[simp] theorem State.atCount_feeders (s : State) (n : Nat) (c : BitVec 48) (i : Instr) : (s.atCount n c i).feeders = s.feeders := rfl
@[simp] theorem State.atCount_mem (s : State) (n : Nat) (c : BitVec 48) (i : Instr) : (s.atCount n c i).mem = s.mem := rfl
@[simp] theorem State.atCount_poison (s : State) (n : Nat) (c : BitVec 48) (i : Instr) : (s.atCount n c i).poison = s.poison := rfl
@[simp] theorem State.atCount_actor (s : State) (n : Nat) (c : BitVec 48) (i : Instr) : (s.atCount n c i).actor = s.actor := rfl
@[simp] theorem State.atCount_checked (s : State) (n : Nat) (c : BitVec 48) (i : Instr) : (s.atCount n c i).checked = s.checked := rfl
@[simp] theorem State.atCount_fired (s : State) (n : Nat) (c : BitVec 48) (i : Instr) : (s.atCount n c i).fired = s.fired := rfl
@[simp] theorem State.atCount_partner (s : State) (n : Nat) (c : BitVec 48) (i : Instr) : (s.atCount n c i).partner = s.partner := rfl
@[simp] theorem State.atCount_wordAt (s : State) (n : Nat) (c : BitVec 48) (i : Instr) : (s.atCount n c i).wordAt = s.wordAt := rfl
@[simp] theorem State.atCount_seq (s : State) (n : Nat) (c : BitVec 48) (i : Instr) : (s.atCount n c i).seq = s.seq := rfl
@[simp] theorem State.atCount_free (s : State) (n : Nat) (c : BitVec 48) (i : Instr) : (s.atCount n c i).free = s.free := rfl
@[simp] theorem State.atCount_inputs (s : State) (n : Nat) (c : BitVec 48) (i : Instr) : (s.atCount n c i).inputs = s.inputs := rfl
@[simp] theorem State.atCount_work (s : State) (n : Nat) (c : BitVec 48) (i : Instr) : (s.atCount n c i).work = s.work := rfl
@[simp] theorem State.atCount_outbox (s : State) (n : Nat) (c : BitVec 48) (i : Instr) : (s.atCount n c i).outbox = s.outbox := rfl

/-! ### afterFree -/
@[simp] theorem State.afterFree_time (s : State) (i : Instr) : (s.afterFree i).time = s.time := rfl
@[simp] theorem State.afterFree_grade (s : State) (i : Instr) : (s.afterFree i).grade = s.grade := rfl
@[simp] theorem State.afterFree_modNum (s : State) (i : Instr) : (s.afterFree i).modNum = s.modNum := rfl
@[simp] theorem State.afterFree_flight (s : State) (i : Instr) : (s.afterFree i).flight = s.flight := rfl
@[simp] theorem State.afterFree_isRef (s : State) (i : Instr) : (s.afterFree i).isRef = s.isRef := rfl
@[simp] theorem State.afterFree_defects (s : State) (i : Instr) : (s.afterFree i).defects = s.defects := rfl
@[simp] theorem State.afterFree_retired (s : State) (i : Instr) : (s.afterFree i).retired = s.retired := rfl
@[simp] theorem State.afterFree_worn (s : State) (i : Instr) : (s.afterFree i).worn = s.worn := rfl
@[simp] theorem State.afterFree_pwr (s : State) (i : Instr) : (s.afterFree i).pwr = s.pwr := rfl
@[simp] theorem State.afterFree_lh (s : State) (i : Instr) : (s.afterFree i).lh = s.lh := rfl
@[simp] theorem State.afterFree_reaches (s : State) (i : Instr) : (s.afterFree i).reaches = s.reaches := rfl
@[simp] theorem State.afterFree_towlines (s : State) (i : Instr) : (s.afterFree i).towlines = s.towlines := rfl
@[simp] theorem State.afterFree_tiles (s : State) (i : Instr) : (s.afterFree i).tiles = s.tiles := rfl
@[simp] theorem State.afterFree_feeders (s : State) (i : Instr) : (s.afterFree i).feeders = s.feeders := rfl
@[simp] theorem State.afterFree_mem (s : State) (i : Instr) : (s.afterFree i).mem = s.mem := rfl
@[simp] theorem State.afterFree_poison (s : State) (i : Instr) : (s.afterFree i).poison = s.poison := rfl
@[simp] theorem State.afterFree_actor (s : State) (i : Instr) : (s.afterFree i).actor = s.actor := rfl
@[simp] theorem State.afterFree_checked (s : State) (i : Instr) : (s.afterFree i).checked = s.checked := rfl
@[simp] theorem State.afterFree_fired (s : State) (i : Instr) : (s.afterFree i).fired = s.fired := rfl
@[simp] theorem State.afterFree_partner (s : State) (i : Instr) : (s.afterFree i).partner = s.partner := rfl
@[simp] theorem State.afterFree_wordAt (s : State) (i : Instr) : (s.afterFree i).wordAt = s.wordAt := rfl
@[simp] theorem State.afterFree_seq (s : State) (i : Instr) : (s.afterFree i).seq = s.seq := rfl
@[simp] theorem State.afterFree_inputs (s : State) (i : Instr) : (s.afterFree i).inputs = s.inputs := rfl
@[simp] theorem State.afterFree_work (s : State) (i : Instr) : (s.afterFree i).work = s.work := rfl
@[simp] theorem State.afterFree_outbox (s : State) (i : Instr) : (s.afterFree i).outbox = s.outbox := rfl

/-! ### emit -/
@[simp] theorem State.emit_time (s : State) (o : Out) : (s.emit o).time = s.time := rfl
@[simp] theorem State.emit_grade (s : State) (o : Out) : (s.emit o).grade = s.grade := rfl
@[simp] theorem State.emit_modNum (s : State) (o : Out) : (s.emit o).modNum = s.modNum := rfl
@[simp] theorem State.emit_flight (s : State) (o : Out) : (s.emit o).flight = s.flight := rfl
@[simp] theorem State.emit_isRef (s : State) (o : Out) : (s.emit o).isRef = s.isRef := rfl
@[simp] theorem State.emit_defects (s : State) (o : Out) : (s.emit o).defects = s.defects := rfl
@[simp] theorem State.emit_retired (s : State) (o : Out) : (s.emit o).retired = s.retired := rfl
@[simp] theorem State.emit_worn (s : State) (o : Out) : (s.emit o).worn = s.worn := rfl
@[simp] theorem State.emit_pwr (s : State) (o : Out) : (s.emit o).pwr = s.pwr := rfl
@[simp] theorem State.emit_lh (s : State) (o : Out) : (s.emit o).lh = s.lh := rfl
@[simp] theorem State.emit_reaches (s : State) (o : Out) : (s.emit o).reaches = s.reaches := rfl
@[simp] theorem State.emit_towlines (s : State) (o : Out) : (s.emit o).towlines = s.towlines := rfl
@[simp] theorem State.emit_tiles (s : State) (o : Out) : (s.emit o).tiles = s.tiles := rfl
@[simp] theorem State.emit_feeders (s : State) (o : Out) : (s.emit o).feeders = s.feeders := rfl
@[simp] theorem State.emit_mem (s : State) (o : Out) : (s.emit o).mem = s.mem := rfl
@[simp] theorem State.emit_poison (s : State) (o : Out) : (s.emit o).poison = s.poison := rfl
@[simp] theorem State.emit_actor (s : State) (o : Out) : (s.emit o).actor = s.actor := rfl
@[simp] theorem State.emit_checked (s : State) (o : Out) : (s.emit o).checked = s.checked := rfl
@[simp] theorem State.emit_fired (s : State) (o : Out) : (s.emit o).fired = s.fired := rfl
@[simp] theorem State.emit_partner (s : State) (o : Out) : (s.emit o).partner = s.partner := rfl
@[simp] theorem State.emit_wordAt (s : State) (o : Out) : (s.emit o).wordAt = s.wordAt := rfl
@[simp] theorem State.emit_seq (s : State) (o : Out) : (s.emit o).seq = s.seq := rfl
@[simp] theorem State.emit_free (s : State) (o : Out) : (s.emit o).free = s.free := rfl
@[simp] theorem State.emit_inputs (s : State) (o : Out) : (s.emit o).inputs = s.inputs := rfl
@[simp] theorem State.emit_agenda (s : State) (o : Out) : (s.emit o).agenda = s.agenda := rfl
@[simp] theorem State.emit_work (s : State) (o : Out) : (s.emit o).work = s.work := rfl

/-! ### Messages to other modules: they change towlines only -/
@[simp] theorem State.tell_time (s : State) (m : Nat) (n : Notice) : (s.tell m n).time = s.time := by unfold State.tell; split <;> rfl
@[simp] theorem State.tell_grade (s : State) (m : Nat) (n : Notice) : (s.tell m n).grade = s.grade := by unfold State.tell; split <;> rfl
@[simp] theorem State.tell_modNum (s : State) (m : Nat) (n : Notice) : (s.tell m n).modNum = s.modNum := by unfold State.tell; split <;> rfl
@[simp] theorem State.tell_flight (s : State) (m : Nat) (n : Notice) : (s.tell m n).flight = s.flight := by unfold State.tell; split <;> rfl
@[simp] theorem State.tell_isRef (s : State) (m : Nat) (n : Notice) : (s.tell m n).isRef = s.isRef := by unfold State.tell; split <;> rfl
@[simp] theorem State.tell_defects (s : State) (m : Nat) (n : Notice) : (s.tell m n).defects = s.defects := by unfold State.tell; split <;> rfl
@[simp] theorem State.tell_retired (s : State) (m : Nat) (n : Notice) : (s.tell m n).retired = s.retired := by unfold State.tell; split <;> rfl
@[simp] theorem State.tell_worn (s : State) (m : Nat) (n : Notice) : (s.tell m n).worn = s.worn := by unfold State.tell; split <;> rfl
@[simp] theorem State.tell_pwr (s : State) (m : Nat) (n : Notice) : (s.tell m n).pwr = s.pwr := by unfold State.tell; split <;> rfl
@[simp] theorem State.tell_lh (s : State) (m : Nat) (n : Notice) : (s.tell m n).lh = s.lh := by unfold State.tell; split <;> rfl
@[simp] theorem State.tell_reaches (s : State) (m : Nat) (n : Notice) : (s.tell m n).reaches = s.reaches := by unfold State.tell; split <;> rfl
@[simp] theorem State.tell_tiles (s : State) (m : Nat) (n : Notice) : (s.tell m n).tiles = s.tiles := by unfold State.tell; split <;> rfl
@[simp] theorem State.tell_feeders (s : State) (m : Nat) (n : Notice) : (s.tell m n).feeders = s.feeders := by unfold State.tell; split <;> rfl
@[simp] theorem State.tell_mem (s : State) (m : Nat) (n : Notice) : (s.tell m n).mem = s.mem := by unfold State.tell; split <;> rfl
@[simp] theorem State.tell_poison (s : State) (m : Nat) (n : Notice) : (s.tell m n).poison = s.poison := by unfold State.tell; split <;> rfl
@[simp] theorem State.tell_actor (s : State) (m : Nat) (n : Notice) : (s.tell m n).actor = s.actor := by unfold State.tell; split <;> rfl
@[simp] theorem State.tell_checked (s : State) (m : Nat) (n : Notice) : (s.tell m n).checked = s.checked := by unfold State.tell; split <;> rfl
@[simp] theorem State.tell_fired (s : State) (m : Nat) (n : Notice) : (s.tell m n).fired = s.fired := by unfold State.tell; split <;> rfl
@[simp] theorem State.tell_partner (s : State) (m : Nat) (n : Notice) : (s.tell m n).partner = s.partner := by unfold State.tell; split <;> rfl
@[simp] theorem State.tell_wordAt (s : State) (m : Nat) (n : Notice) : (s.tell m n).wordAt = s.wordAt := by unfold State.tell; split <;> rfl
@[simp] theorem State.tell_seq (s : State) (m : Nat) (n : Notice) : (s.tell m n).seq = s.seq := by unfold State.tell; split <;> rfl
@[simp] theorem State.tell_free (s : State) (m : Nat) (n : Notice) : (s.tell m n).free = s.free := by unfold State.tell; split <;> rfl
@[simp] theorem State.tell_inputs (s : State) (m : Nat) (n : Notice) : (s.tell m n).inputs = s.inputs := by unfold State.tell; split <;> rfl
@[simp] theorem State.tell_agenda (s : State) (m : Nat) (n : Notice) : (s.tell m n).agenda = s.agenda := by unfold State.tell; split <;> rfl
@[simp] theorem State.tell_work (s : State) (m : Nat) (n : Notice) : (s.tell m n).work = s.work := by unfold State.tell; split <;> rfl
@[simp] theorem State.tell_outbox (s : State) (m : Nat) (n : Notice) : (s.tell m n).outbox = s.outbox := by unfold State.tell; split <;> rfl

@[simp] theorem State.tellAnchor_time (s : State) (x : Slot) (n : Notice) : (s.tellAnchor x n).time = s.time := State.tell_time s _ n
@[simp] theorem State.tellAnchor_grade (s : State) (x : Slot) (n : Notice) : (s.tellAnchor x n).grade = s.grade := State.tell_grade s _ n
@[simp] theorem State.tellAnchor_modNum (s : State) (x : Slot) (n : Notice) : (s.tellAnchor x n).modNum = s.modNum := State.tell_modNum s _ n
@[simp] theorem State.tellAnchor_flight (s : State) (x : Slot) (n : Notice) : (s.tellAnchor x n).flight = s.flight := State.tell_flight s _ n
@[simp] theorem State.tellAnchor_isRef (s : State) (x : Slot) (n : Notice) : (s.tellAnchor x n).isRef = s.isRef := State.tell_isRef s _ n
@[simp] theorem State.tellAnchor_defects (s : State) (x : Slot) (n : Notice) : (s.tellAnchor x n).defects = s.defects := State.tell_defects s _ n
@[simp] theorem State.tellAnchor_retired (s : State) (x : Slot) (n : Notice) : (s.tellAnchor x n).retired = s.retired := State.tell_retired s _ n
@[simp] theorem State.tellAnchor_worn (s : State) (x : Slot) (n : Notice) : (s.tellAnchor x n).worn = s.worn := State.tell_worn s _ n
@[simp] theorem State.tellAnchor_pwr (s : State) (x : Slot) (n : Notice) : (s.tellAnchor x n).pwr = s.pwr := State.tell_pwr s _ n
@[simp] theorem State.tellAnchor_lh (s : State) (x : Slot) (n : Notice) : (s.tellAnchor x n).lh = s.lh := State.tell_lh s _ n
@[simp] theorem State.tellAnchor_reaches (s : State) (x : Slot) (n : Notice) : (s.tellAnchor x n).reaches = s.reaches := State.tell_reaches s _ n
@[simp] theorem State.tellAnchor_tiles (s : State) (x : Slot) (n : Notice) : (s.tellAnchor x n).tiles = s.tiles := State.tell_tiles s _ n
@[simp] theorem State.tellAnchor_feeders (s : State) (x : Slot) (n : Notice) : (s.tellAnchor x n).feeders = s.feeders := State.tell_feeders s _ n
@[simp] theorem State.tellAnchor_mem (s : State) (x : Slot) (n : Notice) : (s.tellAnchor x n).mem = s.mem := State.tell_mem s _ n
@[simp] theorem State.tellAnchor_poison (s : State) (x : Slot) (n : Notice) : (s.tellAnchor x n).poison = s.poison := State.tell_poison s _ n
@[simp] theorem State.tellAnchor_actor (s : State) (x : Slot) (n : Notice) : (s.tellAnchor x n).actor = s.actor := State.tell_actor s _ n
@[simp] theorem State.tellAnchor_checked (s : State) (x : Slot) (n : Notice) : (s.tellAnchor x n).checked = s.checked := State.tell_checked s _ n
@[simp] theorem State.tellAnchor_fired (s : State) (x : Slot) (n : Notice) : (s.tellAnchor x n).fired = s.fired := State.tell_fired s _ n
@[simp] theorem State.tellAnchor_partner (s : State) (x : Slot) (n : Notice) : (s.tellAnchor x n).partner = s.partner := State.tell_partner s _ n
@[simp] theorem State.tellAnchor_wordAt (s : State) (x : Slot) (n : Notice) : (s.tellAnchor x n).wordAt = s.wordAt := State.tell_wordAt s _ n
@[simp] theorem State.tellAnchor_seq (s : State) (x : Slot) (n : Notice) : (s.tellAnchor x n).seq = s.seq := State.tell_seq s _ n
@[simp] theorem State.tellAnchor_free (s : State) (x : Slot) (n : Notice) : (s.tellAnchor x n).free = s.free := State.tell_free s _ n
@[simp] theorem State.tellAnchor_inputs (s : State) (x : Slot) (n : Notice) : (s.tellAnchor x n).inputs = s.inputs := State.tell_inputs s _ n
@[simp] theorem State.tellAnchor_agenda (s : State) (x : Slot) (n : Notice) : (s.tellAnchor x n).agenda = s.agenda := State.tell_agenda s _ n
@[simp] theorem State.tellAnchor_work (s : State) (x : Slot) (n : Notice) : (s.tellAnchor x n).work = s.work := State.tell_work s _ n
@[simp] theorem State.tellAnchor_outbox (s : State) (x : Slot) (n : Notice) : (s.tellAnchor x n).outbox = s.outbox := State.tell_outbox s _ n

/-- What no message changes, messages for several modules do not change. -/
theorem State.foldl_tell {α : Type} (f : State → α) (n : Notice) (h : ∀ (s : State) (m : Nat), f (s.tell m n) = f s) (ms : List Nat) (s : State) :
    f (ms.foldl (fun s m => s.tell m n) s) = f s := by
  induction ms generalizing s with
  | nil => rfl
  | cons m ms ih => exact (ih _).trans (h s m)

@[simp] theorem State.tellAll_time (s : State) (x : Slot) (n : Notice) : (s.tellAll x n).time = s.time :=
  State.foldl_tell State.time n (fun s m => State.tell_time s m n) _ s
@[simp] theorem State.tellAll_grade (s : State) (x : Slot) (n : Notice) : (s.tellAll x n).grade = s.grade :=
  State.foldl_tell State.grade n (fun s m => State.tell_grade s m n) _ s
@[simp] theorem State.tellAll_modNum (s : State) (x : Slot) (n : Notice) : (s.tellAll x n).modNum = s.modNum :=
  State.foldl_tell State.modNum n (fun s m => State.tell_modNum s m n) _ s
@[simp] theorem State.tellAll_flight (s : State) (x : Slot) (n : Notice) : (s.tellAll x n).flight = s.flight :=
  State.foldl_tell State.flight n (fun s m => State.tell_flight s m n) _ s
@[simp] theorem State.tellAll_isRef (s : State) (x : Slot) (n : Notice) : (s.tellAll x n).isRef = s.isRef :=
  State.foldl_tell State.isRef n (fun s m => State.tell_isRef s m n) _ s
@[simp] theorem State.tellAll_defects (s : State) (x : Slot) (n : Notice) : (s.tellAll x n).defects = s.defects :=
  State.foldl_tell State.defects n (fun s m => State.tell_defects s m n) _ s
@[simp] theorem State.tellAll_retired (s : State) (x : Slot) (n : Notice) : (s.tellAll x n).retired = s.retired :=
  State.foldl_tell State.retired n (fun s m => State.tell_retired s m n) _ s
@[simp] theorem State.tellAll_worn (s : State) (x : Slot) (n : Notice) : (s.tellAll x n).worn = s.worn :=
  State.foldl_tell State.worn n (fun s m => State.tell_worn s m n) _ s
@[simp] theorem State.tellAll_pwr (s : State) (x : Slot) (n : Notice) : (s.tellAll x n).pwr = s.pwr :=
  State.foldl_tell State.pwr n (fun s m => State.tell_pwr s m n) _ s
@[simp] theorem State.tellAll_lh (s : State) (x : Slot) (n : Notice) : (s.tellAll x n).lh = s.lh :=
  State.foldl_tell State.lh n (fun s m => State.tell_lh s m n) _ s
@[simp] theorem State.tellAll_reaches (s : State) (x : Slot) (n : Notice) : (s.tellAll x n).reaches = s.reaches :=
  State.foldl_tell State.reaches n (fun s m => State.tell_reaches s m n) _ s
@[simp] theorem State.tellAll_tiles (s : State) (x : Slot) (n : Notice) : (s.tellAll x n).tiles = s.tiles :=
  State.foldl_tell State.tiles n (fun s m => State.tell_tiles s m n) _ s
@[simp] theorem State.tellAll_feeders (s : State) (x : Slot) (n : Notice) : (s.tellAll x n).feeders = s.feeders :=
  State.foldl_tell State.feeders n (fun s m => State.tell_feeders s m n) _ s
@[simp] theorem State.tellAll_mem (s : State) (x : Slot) (n : Notice) : (s.tellAll x n).mem = s.mem :=
  State.foldl_tell State.mem n (fun s m => State.tell_mem s m n) _ s
@[simp] theorem State.tellAll_poison (s : State) (x : Slot) (n : Notice) : (s.tellAll x n).poison = s.poison :=
  State.foldl_tell State.poison n (fun s m => State.tell_poison s m n) _ s
@[simp] theorem State.tellAll_actor (s : State) (x : Slot) (n : Notice) : (s.tellAll x n).actor = s.actor :=
  State.foldl_tell State.actor n (fun s m => State.tell_actor s m n) _ s
@[simp] theorem State.tellAll_checked (s : State) (x : Slot) (n : Notice) : (s.tellAll x n).checked = s.checked :=
  State.foldl_tell State.checked n (fun s m => State.tell_checked s m n) _ s
@[simp] theorem State.tellAll_fired (s : State) (x : Slot) (n : Notice) : (s.tellAll x n).fired = s.fired :=
  State.foldl_tell State.fired n (fun s m => State.tell_fired s m n) _ s
@[simp] theorem State.tellAll_partner (s : State) (x : Slot) (n : Notice) : (s.tellAll x n).partner = s.partner :=
  State.foldl_tell State.partner n (fun s m => State.tell_partner s m n) _ s
@[simp] theorem State.tellAll_wordAt (s : State) (x : Slot) (n : Notice) : (s.tellAll x n).wordAt = s.wordAt :=
  State.foldl_tell State.wordAt n (fun s m => State.tell_wordAt s m n) _ s
@[simp] theorem State.tellAll_seq (s : State) (x : Slot) (n : Notice) : (s.tellAll x n).seq = s.seq :=
  State.foldl_tell State.seq n (fun s m => State.tell_seq s m n) _ s
@[simp] theorem State.tellAll_free (s : State) (x : Slot) (n : Notice) : (s.tellAll x n).free = s.free :=
  State.foldl_tell State.free n (fun s m => State.tell_free s m n) _ s
@[simp] theorem State.tellAll_inputs (s : State) (x : Slot) (n : Notice) : (s.tellAll x n).inputs = s.inputs :=
  State.foldl_tell State.inputs n (fun s m => State.tell_inputs s m n) _ s
@[simp] theorem State.tellAll_agenda (s : State) (x : Slot) (n : Notice) : (s.tellAll x n).agenda = s.agenda :=
  State.foldl_tell State.agenda n (fun s m => State.tell_agenda s m n) _ s
@[simp] theorem State.tellAll_work (s : State) (x : Slot) (n : Notice) : (s.tellAll x n).work = s.work :=
  State.foldl_tell State.work n (fun s m => State.tell_work s m n) _ s
@[simp] theorem State.tellAll_outbox (s : State) (x : Slot) (n : Notice) : (s.tellAll x n).outbox = s.outbox :=
  State.foldl_tell State.outbox n (fun s m => State.tell_outbox s m n) _ s

end Sys2Proof.Machine
end

