-- ==== Sys2Proof/Laws/FileFrame.lean ====
section
/-! SUPPORT. The operations that write no register of a core's file: each leaves the general, predicate, table and vector registers and
the flags of every core as they were. -/

set_option linter.unusedTactic false
set_option linter.unreachableTactic false

namespace Sys2Proof.Machine
/-- The general, predicate and table registers and the flags of a core. -/
abbrev CoreFile := Vector Word 32 × Vector Word 8 × Vector (BitVec 8) 16 × BitVec 7
def coreFile (c : Core) : CoreFile := (c.g, c.k, c.lt, c.fflags)
/-- Those of a tile's cores, with its vector registers. -/
def tileFile (t : Tile) : CoreFile × CoreFile × Vector VReg 32 := (coreFile t.worker, coreFile t.stager, t.v)
def coresFile (v : Vector Core 4) : Fin 4 → CoreFile := fun c => coreFile v[c]
def feederFile (f : Feeder) : Fin 4 → CoreFile := coresFile f.cores
/-- Those of every tile and of every feeder. -/
def tileFiles (l : List (Nat × Tile)) : Nat → CoreFile × CoreFile × Vector VReg 32 := fun id => tileFile (lookupD l id {})
def feederFiles (l : List (Nat × Feeder)) : Nat → Fin 4 → CoreFile := fun f => feederFile (lookupD l f {})
theorem lookupD_insert {α : Type} (l : List (Nat × α)) (n m : Nat) (a d : α) : lookupD (insert l n a) m d = if m = n then a else lookupD l m d := by
  induction l with
  | nil => simp only [insert, lookupD]; split <;> split <;> first | rfl | omega
  | cons x r ih =>
    obtain ⟨k, b⟩ := x
    unfold insert
    split
    · simp only [lookupD]; repeat' split
      all_goals first | rfl | omega
    · split
      · simp only [lookupD]; repeat' split
        all_goals first | rfl | omega
      · simp only [lookupD, ih]; repeat' split
        all_goals first | rfl | omega
theorem lookupD_mapVals {α β : Type} (F : α → β) (g : Nat → α → α) (l : List (Nat × α)) (d : α) (h : ∀ n a, F (g n a) = F a) (m : Nat) :
    F (lookupD (mapVals g l) m d) = F (lookupD l m d) := by
  induction l with
  | nil => rfl
  | cons x r ih =>
    obtain ⟨k, b⟩ := x
    simp only [mapVals, lookupD]; split
    · exact h _ _
    · exact ih
@[simp] theorem tileFiles_mapVals (g : Nat → Tile → Tile) (l : List (Nat × Tile)) (h : ∀ n t, (g n t).worker.g = t.worker.g ∧ (g n t).worker.k = t.worker.k ∧ (g n t).worker.lt = t.worker.lt ∧ (g n t).worker.fflags = t.worker.fflags ∧ (g n t).stager.g = t.stager.g ∧ (g n t).stager.k = t.stager.k ∧ (g n t).stager.lt = t.stager.lt ∧ (g n t).stager.fflags = t.stager.fflags ∧ (g n t).v = t.v) :
    tileFiles (mapVals g l) = tileFiles l := funext fun m => lookupD_mapVals tileFile g l {} (fun n t => by simp only [tileFile, coreFile, h]) m
@[simp] theorem feederFiles_mapVals (g : Nat → Feeder → Feeder) (l : List (Nat × Feeder)) (h : ∀ n x, coresFile (g n x).cores = coresFile x.cores) :
    feederFiles (mapVals g l) = feederFiles l := funext fun m => lookupD_mapVals feederFile g l {} h m
@[simp] theorem tileFiles_setTile (s : State) (id : Nat) (t : Tile) (h : tileFile t = tileFile (s.tile id)) :
    tileFiles (s.setTile id t).tiles = tileFiles s.tiles := by
  funext m
  simp only [tileFiles, State.setTile, lookupD_insert]
  split
  · rename_i e; rw [h, e]; rfl
  · rfl
@[simp] theorem tileFiles_modTile (s : State) (id : Nat) (f : Tile → Tile) (h : ∀ t, (f t).worker.g = t.worker.g ∧ (f t).worker.k = t.worker.k ∧ (f t).worker.lt = t.worker.lt ∧ (f t).worker.fflags = t.worker.fflags ∧ (f t).stager.g = t.stager.g ∧ (f t).stager.k = t.stager.k ∧ (f t).stager.lt = t.stager.lt ∧ (f t).stager.fflags = t.stager.fflags ∧ (f t).v = t.v) :
    tileFiles (s.modTile id f).tiles = tileFiles s.tiles :=
  tileFiles_setTile s id _ (by simp only [tileFile, coreFile, h])
@[simp] theorem feederFiles_setFeeder (s : State) (n : Nat) (f : Feeder) (h : feederFile f = feederFile (s.feeder n)) :
    feederFiles (s.setFeeder n f).feeders = feederFiles s.feeders := by
  funext m
  simp only [feederFiles, State.setFeeder, lookupD_insert]
  split
  · rename_i e; rw [h, e]; rfl
  · rfl
@[simp] theorem feederFiles_modFeeder (s : State) (n : Nat) (f : Feeder → Feeder) (h : ∀ x, coresFile (f x).cores = coresFile x.cores) :
    feederFiles (s.modFeeder n f).feeders = feederFiles s.feeders := feederFiles_setFeeder s n _ (h _)
theorem feederFile_set (f : Feeder) (i : Fin 4) (c : Core) (h : coreFile c = coreFile f.cores[i]) :
    feederFile { f with cores := f.cores.set i c } = feederFile f := by
  funext j
  simp only [feederFile, coresFile]
  by_cases e : j = i
  · subst e; simp [h]
  · have : i.val ≠ j.val := fun x => e (Fin.ext x.symm)
    simp [Vector.getElem_set, this]
theorem setCore_both (s : State) (r : CoreRef) (c : Core) (h : coreFile c = coreFile (s.core r)) :
    tileFiles (s.setCore r c).tiles = tileFiles s.tiles ∧ feederFiles (s.setCore r c).feeders = feederFiles s.feeders := by
  rcases r with ⟨id, _ | _⟩ | ⟨f, n⟩
  · exact ⟨tileFiles_setTile s id _ (by simp only [State.core] at h; simp [tileFile, h]), rfl⟩
  · exact ⟨tileFiles_setTile s id _ (by simp only [State.core] at h; simp [tileFile, h]), rfl⟩
  · exact ⟨rfl, feederFiles_setFeeder s f _ (feederFile_set _ _ _ h)⟩
theorem modCore_both (s : State) (r : CoreRef) (f : Core → Core) (h : ∀ c, (f c).g = c.g ∧ (f c).k = c.k ∧ (f c).lt = c.lt ∧ (f c).fflags = c.fflags) :
    tileFiles (s.modCore r f).tiles = tileFiles s.tiles ∧ feederFiles (s.modCore r f).feeders = feederFiles s.feeders :=
  setCore_both s r _ (by simp only [coreFile, (h _).1, (h _).2.1, (h _).2.2.1, (h _).2.2.2])
theorem modMe_both (s : State) (f : Core → Core) (h : ∀ c, (f c).g = c.g ∧ (f c).k = c.k ∧ (f c).lt = c.lt ∧ (f c).fflags = c.fflags) :
    tileFiles (s.modMe f).tiles = tileFiles s.tiles ∧ feederFiles (s.modMe f).feeders = feederFiles s.feeders := modCore_both s _ f h
theorem setMe_both (s : State) (c : Core) (h : coreFile c = coreFile s.me) :
    tileFiles (s.setMe c).tiles = tileFiles s.tiles ∧ feederFiles (s.setMe c).feeders = feederFiles s.feeders := setCore_both s _ c h
@[simp] theorem setCore_tileFiles (s : State) (r : CoreRef) (c : Core) (h : coreFile c = coreFile (s.core r)) : tileFiles (s.setCore r c).tiles = tileFiles s.tiles := (setCore_both s r c h).1
@[simp] theorem setCore_feederFiles (s : State) (r : CoreRef) (c : Core) (h : coreFile c = coreFile (s.core r)) : feederFiles (s.setCore r c).feeders = feederFiles s.feeders := (setCore_both s r c h).2
@[simp] theorem modCore_tileFiles (s : State) (r : CoreRef) (f : Core → Core) (h : ∀ c, (f c).g = c.g ∧ (f c).k = c.k ∧ (f c).lt = c.lt ∧ (f c).fflags = c.fflags) : tileFiles (s.modCore r f).tiles = tileFiles s.tiles := (modCore_both s r f h).1
@[simp] theorem modCore_feederFiles (s : State) (r : CoreRef) (f : Core → Core) (h : ∀ c, (f c).g = c.g ∧ (f c).k = c.k ∧ (f c).lt = c.lt ∧ (f c).fflags = c.fflags) : feederFiles (s.modCore r f).feeders = feederFiles s.feeders := (modCore_both s r f h).2
@[simp] theorem modMe_tileFiles (s : State) (f : Core → Core) (h : ∀ c, (f c).g = c.g ∧ (f c).k = c.k ∧ (f c).lt = c.lt ∧ (f c).fflags = c.fflags) : tileFiles (s.modMe f).tiles = tileFiles s.tiles := (modMe_both s f h).1
@[simp] theorem modMe_feederFiles (s : State) (f : Core → Core) (h : ∀ c, (f c).g = c.g ∧ (f c).k = c.k ∧ (f c).lt = c.lt ∧ (f c).fflags = c.fflags) : feederFiles (s.modMe f).feeders = feederFiles s.feeders := (modMe_both s f h).2
@[simp] theorem setMe_tileFiles (s : State) (c : Core) (h : coreFile c = coreFile s.me) : tileFiles (s.setMe c).tiles = tileFiles s.tiles := (setMe_both s c h).1
@[simp] theorem setMe_feederFiles (s : State) (c : Core) (h : coreFile c = coreFile s.me) : feederFiles (s.setMe c).feeders = feederFiles s.feeders := (setMe_both s c h).2
/-- Two states with the same registers. -/
def FileSame (s t : State) : Prop := tileFiles t.tiles = tileFiles s.tiles ∧ feederFiles t.feeders = feederFiles s.feeders
theorem foldl_files {α : Type} (f : State → α → State) (l : List α) (s : State)
    (h : ∀ s a, tileFiles (f s a).tiles = tileFiles s.tiles ∧ feederFiles (f s a).feeders = feederFiles s.feeders) :
    tileFiles (l.foldl f s).tiles = tileFiles s.tiles ∧ feederFiles (l.foldl f s).feeders = feederFiles s.feeders := by
  induction l generalizing s with
  | nil => exact ⟨rfl, rfl⟩
  | cons a r ih => exact ⟨(ih _).1.trans (h s a).1, (ih _).2.trans (h s a).2⟩
@[simp] theorem foldl_tileFiles {α : Type} (f : State → α → State) (l : List α) (s : State)
    (h : ∀ s a, tileFiles (f s a).tiles = tileFiles s.tiles) : tileFiles (l.foldl f s).tiles = tileFiles s.tiles := by
  induction l generalizing s with
  | nil => rfl
  | cons a r ih => exact (ih _).trans (h s a)
@[simp] theorem foldl_feederFiles {α : Type} (f : State → α → State) (l : List α) (s : State)
    (h : ∀ s a, feederFiles (f s a).feeders = feederFiles s.feeders) : feederFiles (l.foldl f s).feeders = feederFiles s.feeders := by
  induction l generalizing s with
  | nil => rfl
  | cons a r ih => exact (ih _).trans (h s a)
@[simp] theorem ite_state_tiles (c : Prop) [Decidable c] (a b : State) : (if c then a else b).tiles = if c then a.tiles else b.tiles := apply_ite _ _ _ _
@[simp] theorem ite_state_feeders (c : Prop) [Decidable c] (a b : State) : (if c then a else b).feeders = if c then a.feeders else b.feeders := apply_ite _ _ _ _
@[simp] theorem ite_tileFiles (c : Prop) [Decidable c] (a b : List (Nat × Tile)) : tileFiles (if c then a else b) = if c then tileFiles a else tileFiles b := apply_ite _ _ _ _
@[simp] theorem ite_feederFiles (c : Prop) [Decidable c] (a b : List (Nat × Feeder)) : feederFiles (if c then a else b) = if c then feederFiles a else feederFiles b := apply_ite _ _ _ _
theorem tileFile_iff {a b : Tile} : tileFile a = tileFile b ↔ a.worker.g = b.worker.g ∧ a.worker.k = b.worker.k ∧ a.worker.lt = b.worker.lt ∧ a.worker.fflags = b.worker.fflags ∧ a.stager.g = b.stager.g ∧ a.stager.k = b.stager.k ∧ a.stager.lt = b.stager.lt ∧ a.stager.fflags = b.stager.fflags ∧ a.v = b.v := by
  simp only [tileFile, coreFile, Prod.mk.injEq]; constructor <;> intro h <;> simp_all
theorem foldl_tile {α : Type} (f : Tile → α → Tile) (l : List α) (t : Tile) (h : ∀ t a, tileFile (f t a) = tileFile t) :
    tileFile (l.foldl f t) = tileFile t := by
  induction l generalizing t with
  | nil => rfl
  | cons a r ih => exact (ih _).trans (h t a)
theorem foldl_cores {α : Type} (f : Feeder → α → Feeder) (l : List α) (t : Feeder) (h : ∀ t a, coresFile (f t a).cores = coresFile t.cores) :
    coresFile (l.foldl f t).cores = coresFile t.cores := by
  induction l generalizing t with
  | nil => rfl
  | cons a r ih => exact (ih _).trans (h t a)
theorem coresFile_map (f : Core → Core) (v : Vector Core 4) (h : ∀ c, coreFile (f c) = coreFile c) : coresFile (v.map f) = coresFile v := by
  funext i; simp only [coresFile, Fin.getElem_fin, Vector.getElem_map, h]
theorem emits_files {α : Type} {f : State → α → Out} (l : List α) (s : State) :
    tileFiles (l.foldl (fun s a => s.emit (f s a)) s).tiles = tileFiles s.tiles ∧
    feederFiles (l.foldl (fun s a => s.emit (f s a)) s).feeders = feederFiles s.feeders :=
  foldl_files _ _ _ fun _ _ => ⟨rfl, rfl⟩
theorem foldl_modTile_files {f : Tile → Tile} (l : List Nat) (s : State) (h : ∀ t, (f t).worker.g = t.worker.g ∧ (f t).worker.k = t.worker.k ∧ (f t).worker.lt = t.worker.lt ∧ (f t).worker.fflags = t.worker.fflags ∧ (f t).stager.g = t.stager.g ∧ (f t).stager.k = t.stager.k ∧ (f t).stager.lt = t.stager.lt ∧ (f t).stager.fflags = t.stager.fflags ∧ (f t).v = t.v) :
    tileFiles (l.foldl (fun s t => s.modTile t f) s).tiles = tileFiles s.tiles ∧
    feederFiles (l.foldl (fun s t => s.modTile t f) s).feeders = feederFiles s.feeders :=
  foldl_files _ _ _ fun _ _ => ⟨tileFiles_modTile _ _ _ h, rfl⟩
@[simp] theorem State.freeBelow_files (s : State) (n : Nat) : tileFiles (State.freeBelow s n).2.tiles = tileFiles s.tiles ∧ feederFiles (State.freeBelow s n).2.feeders = feederFiles s.feeders := by
  unfold State.freeBelow
  simp
@[simp] theorem State.takeBool_files (s : State) : tileFiles (State.takeBool s).2.tiles = tileFiles s.tiles ∧ feederFiles (State.takeBool s).2.feeders = feederFiles s.feeders := by
  unfold State.takeBool
  simp
@[simp] theorem State.takeWord_files (s : State) : tileFiles (State.takeWord s).2.tiles = tileFiles s.tiles ∧ feederFiles (State.takeWord s).2.feeders = feederFiles s.feeders := by
  unfold State.takeWord
  simp
@[simp] theorem State.tell_files (s : State) (m : Nat) (n : Notice) : tileFiles (State.tell s m n).tiles = tileFiles s.tiles ∧ feederFiles (State.tell s m n).feeders = feederFiles s.feeders := by
  unfold State.tell
  split <;> simp
@[simp] theorem State.tellAll_files (s : State) (x : Slot) (n : Notice) : tileFiles (State.tellAll s x n).tiles = tileFiles s.tiles ∧ feederFiles (State.tellAll s x n).feeders = feederFiles s.feeders := by
  unfold State.tellAll
  simp
@[simp] theorem State.tellAnchor_files (s : State) (x : Slot) (n : Notice) : tileFiles (State.tellAnchor s x n).tiles = tileFiles s.tiles ∧ feederFiles (State.tellAnchor s x n).feeders = feederFiles s.feeders := by
  unfold State.tellAnchor
  simp
@[simp] theorem State.mcheck_files (s : State) (addr : Word) (asid crew : BitVec 16) (unit : BitVec 4) (index : Nat) (kind cause : BitVec 8) (cmd : Option (Nat × BitVec 16 × BitVec 8)) : tileFiles (State.mcheck s addr asid crew unit index kind cause cmd).tiles = tileFiles s.tiles ∧ feederFiles (State.mcheck s addr asid crew unit index kind cause cmd).feeders = feederFiles s.feeders := by
  unfold State.mcheck
  dsimp only
  (repeat' split) <;> simp
@[simp] theorem Core.setPort_file (c : Core) (p : PReg) (x : Port) :
    (Core.setPort c p x).g = c.g ∧ (Core.setPort c p x).k = c.k ∧ (Core.setPort c p x).lt = c.lt ∧ (Core.setPort c p x).fflags = c.fflags := by
  exact ⟨rfl, rfl, rfl, rfl⟩
@[simp] theorem Core.modPort_file (c : Core) (p : PReg) (f : Port → Port) :
    (Core.modPort c p f).g = c.g ∧ (Core.modPort c p f).k = c.k ∧ (Core.modPort c p f).lt = c.lt ∧ (Core.modPort c p f).fflags = c.fflags := by
  exact ⟨rfl, rfl, rfl, rfl⟩
@[simp] theorem Tile.writeZ_file (t : Tile) (z : Bool) (x : ZSet) :
    (Tile.writeZ t z x).worker.g = t.worker.g ∧ (Tile.writeZ t z x).worker.k = t.worker.k ∧ (Tile.writeZ t z x).worker.lt = t.worker.lt ∧ (Tile.writeZ t z x).worker.fflags = t.worker.fflags ∧ (Tile.writeZ t z x).stager.g = t.stager.g ∧ (Tile.writeZ t z x).stager.k = t.stager.k ∧ (Tile.writeZ t z x).stager.lt = t.stager.lt ∧ (Tile.writeZ t z x).stager.fflags = t.stager.fflags ∧ (Tile.writeZ t z x).v = t.v := by
  unfold Tile.writeZ
  split <;> exact ⟨rfl, rfl, rfl, rfl, rfl, rfl, rfl, rfl, rfl⟩
@[simp] theorem Tile.setKind_file (t : Tile) (z b : Bool) :
    (Tile.setKind t z b).worker.g = t.worker.g ∧ (Tile.setKind t z b).worker.k = t.worker.k ∧ (Tile.setKind t z b).worker.lt = t.worker.lt ∧ (Tile.setKind t z b).worker.fflags = t.worker.fflags ∧ (Tile.setKind t z b).stager.g = t.stager.g ∧ (Tile.setKind t z b).stager.k = t.stager.k ∧ (Tile.setKind t z b).stager.lt = t.stager.lt ∧ (Tile.setKind t z b).stager.fflags = t.stager.fflags ∧ (Tile.setKind t z b).v = t.v := by
  unfold Tile.setKind
  split <;> exact ⟨rfl, rfl, rfl, rfl, rfl, rfl, rfl, rfl, rfl⟩
theorem State.modMyTile_both (s : State) (f : Tile → Tile) (h : ∀ t, (f t).worker.g = t.worker.g ∧ (f t).worker.k = t.worker.k ∧ (f t).worker.lt = t.worker.lt ∧ (f t).worker.fflags = t.worker.fflags ∧ (f t).stager.g = t.stager.g ∧ (f t).stager.k = t.stager.k ∧ (f t).stager.lt = t.stager.lt ∧ (f t).stager.fflags = t.stager.fflags ∧ (f t).v = t.v) :
    tileFiles (s.modMyTile f).tiles = tileFiles s.tiles ∧ feederFiles (s.modMyTile f).feeders = feederFiles s.feeders := by
  unfold State.modMyTile
  split
  · exact ⟨tileFiles_modTile _ _ _ h, rfl⟩
  · exact ⟨rfl, rfl⟩
@[simp] theorem State.modMyTile_tileFiles (s : State) (f : Tile → Tile) (h : ∀ t, (f t).worker.g = t.worker.g ∧ (f t).worker.k = t.worker.k ∧ (f t).worker.lt = t.worker.lt ∧ (f t).worker.fflags = t.worker.fflags ∧ (f t).stager.g = t.stager.g ∧ (f t).stager.k = t.stager.k ∧ (f t).stager.lt = t.stager.lt ∧ (f t).stager.fflags = t.stager.fflags ∧ (f t).v = t.v) :
    tileFiles (s.modMyTile f).tiles = tileFiles s.tiles := (State.modMyTile_both s f h).1
@[simp] theorem State.modMyTile_feederFiles (s : State) (f : Tile → Tile) (h : ∀ t, (f t).worker.g = t.worker.g ∧ (f t).worker.k = t.worker.k ∧ (f t).worker.lt = t.worker.lt ∧ (f t).worker.fflags = t.worker.fflags ∧ (f t).stager.g = t.stager.g ∧ (f t).stager.k = t.stager.k ∧ (f t).stager.lt = t.stager.lt ∧ (f t).stager.fflags = t.stager.fflags ∧ (f t).v = t.v) :
    feederFiles (s.modMyTile f).feeders = feederFiles s.feeders := (State.modMyTile_both s f h).2
@[simp] theorem State.later_files (s : State) (n : Nat) (w : Wr) : tileFiles (State.later s n w).tiles = tileFiles s.tiles ∧ feederFiles (State.later s n w).feeders = feederFiles s.feeders := by
  unfold State.later
  simp
@[simp] theorem State.laterG_files (s : State) (n : Nat) (r : Reg) (v : Word) : tileFiles (State.laterG s n r v).tiles = tileFiles s.tiles ∧ feederFiles (State.laterG s n r v).feeders = feederFiles s.feeders := by
  unfold State.laterG
  simp
@[simp] theorem State.laterK_files (s : State) (n : Nat) (r : KReg) (v : Word) : tileFiles (State.laterK s n r v).tiles = tileFiles s.tiles ∧ feederFiles (State.laterK s n r v).feeders = feederFiles s.feeders := by
  unfold State.laterK
  simp
@[simp] theorem State.laterFlags_files (s : State) (n : Nat) (f : BitVec 7) : tileFiles (State.laterFlags s n f).tiles = tileFiles s.tiles ∧ feederFiles (State.laterFlags s n f).feeders = feederFiles s.feeders := by
  unfold State.laterFlags
  simp
@[simp] theorem State.report_files (s : State) (slot : Nat) (cause : BitVec 8) (addr : Word) (member : Nat) : tileFiles (State.report s slot cause addr member).tiles = tileFiles s.tiles ∧ feederFiles (State.report s slot cause addr member).feeders = feederFiles s.feeders := by
  unfold State.report
  simp
@[simp] theorem State.unitFault_files (s : State) (slot : Option Nat) (unit : BitVec 4) (index : Nat) (member : Nat) (cause : BitVec 8) (addr : Word) : tileFiles (State.unitFault s slot unit index member cause addr).tiles = tileFiles s.tiles ∧ feederFiles (State.unitFault s slot unit index member cause addr).feeders = feederFiles s.feeders := by
  unfold State.unitFault
  split <;> simp
@[simp] theorem State.coreFault_files (s : State) (r : CoreRef) (cause : BitVec 8) (addr : Word) : tileFiles (State.coreFault s r cause addr).tiles = tileFiles s.tiles ∧ feederFiles (State.coreFault s r cause addr).feeders = feederFiles s.feeders := by
  unfold State.coreFault
  simp
@[simp] theorem Core.trapEntry_file (c : Core) (i : Nat) (pc : BitVec 17) (shadow : Option Pending) (cause : BitVec 8) (addr : Word) (entry : BitVec 16) :
    (Core.trapEntry c i pc shadow cause addr entry).g = c.g ∧ (Core.trapEntry c i pc shadow cause addr entry).k = c.k ∧ (Core.trapEntry c i pc shadow cause addr entry).lt = c.lt ∧ (Core.trapEntry c i pc shadow cause addr entry).fflags = c.fflags := by
  exact ⟨rfl, rfl, rfl, rfl⟩
@[simp] theorem State.raiseOf_files (s : State) (r : CoreRef) (cause : BitVec 8) (addr : Word) (next : Bool) : tileFiles (State.raiseOf s r cause addr next).tiles = tileFiles s.tiles ∧ feederFiles (State.raiseOf s r cause addr next).feeders = feederFiles s.feeders := by
  unfold State.raiseOf
  dsimp only
  (repeat' split) <;> simp
@[simp] theorem State.raise_files (s : State) (cause : BitVec 8) (addr : Word) : tileFiles (State.raise s cause addr).tiles = tileFiles s.tiles ∧ feederFiles (State.raise s cause addr).feeders = feederFiles s.feeders := by
  unfold State.raise
  simp
@[simp] theorem State.lateFault_files (s : State) (r : CoreRef) (cause : BitVec 8) (addr : Word) : tileFiles (State.lateFault s r cause addr).tiles = tileFiles s.tiles ∧ feederFiles (State.lateFault s r cause addr).feeders = feederFiles s.feeders := by
  unfold State.lateFault
  simp
@[simp] theorem State.opFault_files (s : State) (cause : BitVec 8) (addr : Word) : tileFiles (State.opFault s cause addr).tiles = tileFiles s.tiles ∧ feederFiles (State.opFault s cause addr).feeders = feederFiles s.feeders := by
  unfold State.opFault
  simp
@[simp] theorem State.writeAt_files (s : State) (r : CoreRef) (seq n : Nat) (w : Wr) : tileFiles (State.writeAt s r seq n w).tiles = tileFiles s.tiles ∧ feederFiles (State.writeAt s r seq n w).feeders = feederFiles s.feeders := by
  unfold State.writeAt
  simp
@[simp] theorem Core.eret_file (c : Core) :
    (Core.eret c).g = c.g ∧ (Core.eret c).k = c.k ∧ (Core.eret c).lt = c.lt ∧ (Core.eret c).fflags = c.fflags := by
  exact ⟨rfl, rfl, rfl, rfl⟩
@[simp] theorem Core.standFor_file (c : Core) (n : Nat) :
    (Core.standFor c n).g = c.g ∧ (Core.standFor c n).k = c.k ∧ (Core.standFor c n).lt = c.lt ∧ (Core.standFor c n).fflags = c.fflags := by
  exact ⟨rfl, rfl, rfl, rfl⟩
@[simp] theorem State.standOp_files (s : State) (n : Nat) (i : Instr) :
    tileFiles (s.standOp n i).tiles = tileFiles s.tiles ∧ feederFiles (s.standOp n i).feeders = feederFiles s.feeders :=
  modMe_both s _ fun c => by dsimp only; split <;> exact ⟨rfl, rfl, rfl, rfl⟩
@[simp] theorem State.standDrain_files (s : State) (i : Instr) : tileFiles (State.standDrain s i).tiles = tileFiles s.tiles ∧ feederFiles (State.standDrain s i).feeders = feederFiles s.feeders := by
  unfold State.standDrain
  simp
@[simp] theorem State.await_files (s : State) (w : Wait) : tileFiles (State.await s w).tiles = tileFiles s.tiles ∧ feederFiles (State.await s w).feeders = feederFiles s.feeders := by
  unfold State.await
  simp
@[simp] theorem Core.endWaits_file (c : Core) (p : Wait → Bool) :
    (Core.endWaits c p).g = c.g ∧ (Core.endWaits c p).k = c.k ∧ (Core.endWaits c p).lt = c.lt ∧ (Core.endWaits c p).fflags = c.fflags := by
  exact ⟨rfl, rfl, rfl, rfl⟩
@[simp] theorem Core.branchTo_file (c : Core) (tgt : BitVec 16) :
    (Core.branchTo c tgt).g = c.g ∧ (Core.branchTo c tgt).k = c.k ∧ (Core.branchTo c tgt).lt = c.lt ∧ (Core.branchTo c tgt).fflags = c.fflags := by
  exact ⟨rfl, rfl, rfl, rfl⟩
@[simp] theorem Core.noBranch_file (c : Core) :
    (Core.noBranch c).g = c.g ∧ (Core.noBranch c).k = c.k ∧ (Core.noBranch c).lt = c.lt ∧ (Core.noBranch c).fflags = c.fflags := by
  exact ⟨rfl, rfl, rfl, rfl⟩
@[simp] theorem State.setQueue_files (s : State) (q : Queue) : tileFiles (State.setQueue s q).tiles = tileFiles s.tiles ∧ feederFiles (State.setQueue s q).feeders = feederFiles s.feeders := by
  unfold State.setQueue
  simp
@[simp] theorem State.writeEntry_files (s : State) (q : Queue) (base size : Nat) (c : Completion) : tileFiles (State.writeEntry s q base size c).tiles = tileFiles s.tiles ∧ feederFiles (State.writeEntry s q base size c).feeders = feederFiles s.feeders := by
  unfold State.writeEntry
  simp
theorem State.nextWaiting_files {s t : State} {q : Queue} {c : Completion} (h : s.nextWaiting q = some (c, t)) :
    tileFiles t.tiles = tileFiles s.tiles ∧ feederFiles t.feeders = feederFiles s.feeders := by
  unfold State.nextWaiting at h
  dsimp only at h
  split at h
  · cases h
  · cases h; exact ⟨rfl, rfl⟩
  · cases h; exact ⟨rfl, rfl⟩
  · split at h <;> cases h <;> exact ⟨rfl, rfl⟩
@[simp] theorem State.flushOne_files (s : State) (qid : Nat) : tileFiles (State.flushOne s qid).tiles = tileFiles s.tiles ∧ feederFiles (State.flushOne s qid).feeders = feederFiles s.feeders := by
  unfold State.flushOne
  split
  · exact ⟨rfl, rfl⟩
  · split
    · exact ⟨rfl, rfl⟩
    · split
      · split
        · exact ⟨rfl, rfl⟩
        · rename_i h
          have hm := State.nextWaiting_files h
          split
          · exact hm
          · exact ⟨(State.writeEntry_files ..).1.trans hm.1, (State.writeEntry_files ..).2.trans hm.2⟩
      · exact ⟨rfl, rfl⟩
@[simp] theorem State.flush_files (s : State) (qid n : Nat) :
    tileFiles (s.flush qid n).tiles = tileFiles s.tiles ∧ feederFiles (s.flush qid n).feeders = feederFiles s.feeders := by
  induction n generalizing s with
  | zero => exact ⟨rfl, rfl⟩
  | succ n ih => exact ⟨(ih _).1.trans (State.flushOne_files s qid).1, (ih _).2.trans (State.flushOne_files s qid).2⟩
@[simp] theorem State.complete_files (s : State) (c : HostCmd) (status : BitVec 8) (result log : Word) : tileFiles (State.complete s c status result log).tiles = tileFiles s.tiles ∧ feederFiles (State.complete s c status result log).feeders = feederFiles s.feeders := by
  unfold State.complete
  split <;> simp
@[simp] theorem State.completeOk_files (s : State) (c : HostCmd) (result : Word) : tileFiles (State.completeOk s c result).tiles = tileFiles s.tiles ∧ feederFiles (State.completeOk s c result).feeders = feederFiles s.feeders := by
  unfold State.completeOk
  simp
@[simp] theorem State.keepOpen_files (s : State) (c : HostCmd) : tileFiles (State.keepOpen s c).tiles = tileFiles s.tiles ∧ feederFiles (State.keepOpen s c).feeders = feederFiles s.feeders := by
  unfold State.keepOpen
  simp
@[simp] theorem State.finish_files (s : State) (qid : Nat) (cid : BitVec 16) (status : BitVec 8) (result log : Word) : tileFiles (State.finish s qid cid status result log).tiles = tileFiles s.tiles ∧ feederFiles (State.finish s qid cid status result log).feeders = feederFiles s.feeders := by
  unfold State.finish
  split <;> simp
@[simp] theorem State.finishCrew_files (s : State) (crew : BitVec 16) : tileFiles (State.finishCrew s crew).tiles = tileFiles s.tiles ∧ feederFiles (State.finishCrew s crew).feeders = feederFiles s.feeders := by
  unfold State.finishCrew
  simp
@[simp] theorem State.postEvent_files (s : State) (status : BitVec 8) (result log : Word) : tileFiles (State.postEvent s status result log).tiles = tileFiles s.tiles ∧ feederFiles (State.postEvent s status result log).feeders = feederFiles s.feeders := by
  unfold State.postEvent
  dsimp only
  (repeat' split) <;> simp
@[simp] theorem State.soon_files (s : State) (i : Instr) : tileFiles (State.soon s i).tiles = tileFiles s.tiles ∧ feederFiles (State.soon s i).feeders = feederFiles s.feeders := by
  unfold State.soon
  simp
@[simp] theorem State.seqFault_files (s : State) (n : Nat) (cause : BitVec 8) (addr : Word) : tileFiles (State.seqFault s n cause addr).tiles = tileFiles s.tiles ∧ feederFiles (State.seqFault s n cause addr).feeders = feederFiles s.feeders := by
  unfold State.seqFault
  simp
@[simp] theorem State.wakeWaiti_files (s : State) (r : CoreRef) (always : Bool) : tileFiles (State.wakeWaiti s r always).tiles = tileFiles s.tiles ∧ feederFiles (State.wakeWaiti s r always).feeders = feederFiles s.feeders := by
  unfold State.wakeWaiti
  simp
@[simp] theorem State.wakeAll_files (s : State) (rs : List CoreRef) (always : Bool) : tileFiles (State.wakeAll s rs always).tiles = tileFiles s.tiles ∧ feederFiles (State.wakeAll s rs always).feeders = feederFiles s.feeders := by
  unfold State.wakeAll
  simp
@[simp] theorem State.drawHere_files (s : State) (n : Nat) (v : BitVec 48) (why : DrawWhy) : tileFiles (State.drawHere s n v why).tiles = tileFiles s.tiles ∧ feederFiles (State.drawHere s n v why).feeders = feederFiles s.feeders := by
  unfold State.drawHere
  simp
@[simp] theorem State.announceDraw_files (s : State) (n : Nat) (v : BitVec 48) (why : DrawWhy) : tileFiles (State.announceDraw s n v why).tiles = tileFiles s.tiles ∧ feederFiles (State.announceDraw s n v why).feeders = feederFiles s.feeders := by
  unfold State.announceDraw
  simp
@[simp] theorem State.drawCrew_files (s : State) (n : Nat) (why : DrawWhy) : tileFiles (State.drawCrew s n why).tiles = tileFiles s.tiles ∧ feederFiles (State.drawCrew s n why).feeders = feederFiles s.feeders := by
  unfold State.drawCrew
  simp
@[simp] theorem State.phaseReport_files (s : State) (n : Nat) (r : Reporter) (level : BitVec 2) (e : BitVec 48) : tileFiles (State.phaseReport s n r level e).tiles = tileFiles s.tiles ∧ feederFiles (State.phaseReport s n r level e).feeders = feederFiles s.feeders := by
  unfold State.phaseReport
  dsimp only
  (repeat' split) <;> simp
@[simp] theorem State.wishMark_files (s : State) (n : Nat) : tileFiles (State.wishMark s n).tiles = tileFiles s.tiles ∧ feederFiles (State.wishMark s n).feeders = feederFiles s.feeders := by
  unfold State.wishMark
  simp
@[simp] theorem State.markReport_files (s : State) (n : Nat) (r : Reporter) (e : BitVec 48) : tileFiles (State.markReport s n r e).tiles = tileFiles s.tiles ∧ feederFiles (State.markReport s n r e).feeders = feederFiles s.feeders := by
  unfold State.markReport
  dsimp only
  (repeat' split) <;> simp
@[simp] theorem State.sizeWord_files (s : State) (n : Nat) (cls grp : BitVec 3) (w : BitVec 16) (e : BitVec 48) : tileFiles (State.sizeWord s n cls grp w e).tiles = tileFiles s.tiles ∧ feederFiles (State.sizeWord s n cls grp w e).feeders = feederFiles s.feeders := by
  unfold State.sizeWord
  simp
@[simp] theorem State.contribute_files (s : State) (n : Nat) (r : CoreRef) (cls : BitVec 3) (w : BitVec 16) (e : BitVec 48) : tileFiles (State.contribute s n r cls w e).tiles = tileFiles s.tiles ∧ feederFiles (State.contribute s n r cls w e).feeders = feederFiles s.feeders := by
  unfold State.contribute
  simp
@[simp] theorem State.restPages_file (s : State) (x : Slot) (f : Feeder) :
    coresFile (State.restPages s x f).cores = coresFile f.cores := by
  rfl
@[simp] theorem State.restWindows_file (s : State) (x : Slot) (t : Tile) :
    (s.restWindows x t).worker.g = t.worker.g ∧ (s.restWindows x t).worker.k = t.worker.k ∧ (s.restWindows x t).worker.lt = t.worker.lt ∧ (s.restWindows x t).worker.fflags = t.worker.fflags ∧ (s.restWindows x t).stager.g = t.stager.g ∧ (s.restWindows x t).stager.k = t.stager.k ∧ (s.restWindows x t).stager.lt = t.stager.lt ∧ (s.restWindows x t).stager.fflags = t.stager.fflags ∧ (s.restWindows x t).v = t.v := by
  refine tileFile_iff.mp (foldl_tile _ _ _ fun t a => ?_)
  dsimp only; split <;> rfl
@[simp] theorem idleCore_file (c : Core) :
    (idleCore c).g = c.g ∧ (idleCore c).k = c.k ∧ (idleCore c).lt = c.lt ∧ (idleCore c).fflags = c.fflags := by
  exact ⟨rfl, rfl, rfl, rfl⟩
@[simp] theorem releaseTile_file (t : Tile) :
    (releaseTile t).worker.g = t.worker.g ∧ (releaseTile t).worker.k = t.worker.k ∧ (releaseTile t).worker.lt = t.worker.lt ∧ (releaseTile t).worker.fflags = t.worker.fflags ∧ (releaseTile t).stager.g = t.stager.g ∧ (releaseTile t).stager.k = t.stager.k ∧ (releaseTile t).stager.lt = t.stager.lt ∧ (releaseTile t).stager.fflags = t.stager.fflags ∧ (releaseTile t).v = t.v := by
  exact ⟨rfl, rfl, rfl, rfl, rfl, rfl, rfl, rfl, rfl⟩
@[simp] theorem releaseFeeder_file (f : Feeder) : coresFile (releaseFeeder f).cores = coresFile f.cores := coresFile_map _ _ fun _ => rfl
@[simp] theorem State.endCrew_files (s : State) (n : Nat) (cause : BitVec 8) (addr : Word) : tileFiles (State.endCrew s n cause addr).tiles = tileFiles s.tiles ∧ feederFiles (State.endCrew s n cause addr).feeders = feederFiles s.feeders := by
  unfold State.endCrew
  extract_lets x keep src s1 s2 s3
  have h1 : tileFiles s1.tiles = tileFiles s.tiles ∧ feederFiles s1.feeders = feederFiles s.feeders := by
    refine ⟨tileFiles_mapVals _ _ fun i t => ?_, feederFiles_mapVals _ _ fun i f => ?_⟩
    · split
      · exact ⟨rfl, rfl, rfl, rfl, rfl, rfl, rfl, rfl, rfl⟩
      · exact State.restWindows_file ..
    · dsimp only; split <;> simp
  have h2 : tileFiles s2.tiles = tileFiles s1.tiles ∧ feederFiles s2.feeders = feederFiles s1.feeders := by
    simp only [s2]; split <;> simp
  clear_value s1 s2
  simp [s3, h1, h2]
@[simp] theorem State.checkEnd_files (s : State) (n : Nat) : tileFiles (State.checkEnd s n).tiles = tileFiles s.tiles ∧ feederFiles (State.checkEnd s n).feeders = feederFiles s.feeders := by
  unfold State.checkEnd
  simp
@[simp] theorem State.setWindow_files (s : State) (r : CoreRef) (w : BitVec 4) (d : WinDesc) : tileFiles (State.setWindow s r w d).tiles = tileFiles s.tiles ∧ feederFiles (State.setWindow s r w d).feeders = feederFiles s.feeders := by
  unfold State.setWindow
  split <;> simp
@[simp] theorem State.storeDue_files (s : State) (r : CoreRef) (due : Nat) (bytes : List (Nat × Byte)) : tileFiles (State.storeDue s r due bytes).tiles = tileFiles s.tiles ∧ feederFiles (State.storeDue s r due bytes).feeders = feederFiles s.feeders := by
  unfold State.storeDue
  split <;> simp
@[simp] theorem State.store_files (s : State) (r : CoreRef) (bytes : List (Nat × Byte)) : tileFiles (State.store s r bytes).tiles = tileFiles s.tiles ∧ feederFiles (State.store s r bytes).feeders = feederFiles s.feeders := by
  unfold State.store
  simp
@[simp] theorem State.markDirty_files (s : State) (r : CoreRef) (a : Nat) : tileFiles (State.markDirty s r a).tiles = tileFiles s.tiles ∧ feederFiles (State.markDirty s r a).feeders = feederFiles s.feeders := by
  unfold State.markDirty
  (repeat' split) <;> simp
@[simp] theorem State.commitBytes_files (s : State) (key : Nat → Nat) (bytes : List (Nat × Byte)) : tileFiles (State.commitBytes s key bytes).tiles = tileFiles s.tiles ∧ feederFiles (State.commitBytes s key bytes).feeders = feederFiles s.feeders := by
  unfold State.commitBytes
  simp
@[simp] theorem State.fetchGranule_files (s : State) (r : CoreRef) (a : Nat) : tileFiles (State.fetchGranule s r a).2.tiles = tileFiles s.tiles ∧ feederFiles (State.fetchGranule s r a).2.feeders = feederFiles s.feeders := by
  unfold State.fetchGranule
  dsimp only
  (repeat' split) <;> simp
@[simp] theorem State.fetchGranules_files (s : State) (r : CoreRef) (a n : Nat) :
    tileFiles (s.fetchGranules r a n).2.tiles = tileFiles s.tiles ∧ feederFiles (s.fetchGranules r a n).2.feeders = feederFiles s.feeders := by
  induction n generalizing s a with
  | zero => exact ⟨rfl, rfl⟩
  | succ n ih => exact ⟨(ih _ _).1.trans (State.fetchGranule_files s r a).1, (ih _ _).2.trans (State.fetchGranule_files s r a).2⟩
@[simp] theorem State.fetchBytes_files (s : State) (r : CoreRef) (a n : Nat) : tileFiles (State.fetchBytes s r a n).2.tiles = tileFiles s.tiles ∧ feederFiles (State.fetchBytes s r a n).2.feeders = feederFiles s.feeders := by
  unfold State.fetchBytes
  simp
@[simp] theorem State.useBanks_files (s : State) (r : CoreRef) (addrs : List Nat) : tileFiles (State.useBanks s r addrs).tiles = tileFiles s.tiles ∧ feederFiles (State.useBanks s r addrs).feeders = feederFiles s.feeders := by
  unfold State.useBanks
  simp
theorem State.withAccess_both (s : State) (i : Instr) (x : Access) (addrs : List Nat) (k : State → State)
    (hk : ∀ s, tileFiles (k s).tiles = tileFiles s.tiles ∧ feederFiles (k s).feeders = feederFiles s.feeders) :
    tileFiles (s.withAccess i x addrs k).tiles = tileFiles s.tiles ∧ feederFiles (s.withAccess i x addrs k).feeders = feederFiles s.feeders := by
  unfold State.withAccess
  split <;> simp [hk]
theorem State.withRead_both (s : State) (i : Instr) (x : Access) (addrs : List Nat) (k : List Byte → State → State)
    (hk : ∀ b s, tileFiles (k b s).tiles = tileFiles s.tiles ∧ feederFiles (k b s).feeders = feederFiles s.feeders) :
    tileFiles (s.withRead i x addrs k).tiles = tileFiles s.tiles ∧ feederFiles (s.withRead i x addrs k).feeders = feederFiles s.feeders := by
  unfold State.withRead
  refine State.withAccess_both _ _ _ _ _ fun s => ?_
  split <;> simp [hk]
@[simp] theorem Feeder.setBerth_file (x : Feeder) (b : PageBerth) :
    coresFile (Feeder.setBerth x b).cores = coresFile x.cores := by
  rfl
@[simp] theorem State.healSectors_files (s : State) (bytes : List (Nat × Byte)) : tileFiles (State.healSectors s bytes).tiles = tileFiles s.tiles ∧ feederFiles (State.healSectors s bytes).feeders = feederFiles s.feeders := by
  unfold State.healSectors
  simp
@[simp] theorem State.writeLine_files (s : State) (f : Nat) (c : Fin 4) (bytes : List (Nat × Byte)) : tileFiles (State.writeLine s f c bytes).tiles = tileFiles s.tiles ∧ feederFiles (State.writeLine s f c bytes).feeders = feederFiles s.feeders := by
  unfold State.writeLine
  simp
@[simp] theorem State.tickLines_files (s : State) (f : Nat) : tileFiles (State.tickLines s f).tiles = tileFiles s.tiles ∧ feederFiles (State.tickLines s f).feeders = feederFiles s.feeders := by
  unfold State.tickLines
  simp
@[simp] theorem State.undoNote_files (s : State) (slot : Option Nat) (f key : Nat) : tileFiles (State.undoNote s slot f key).tiles = tileFiles s.tiles ∧ feederFiles (State.undoNote s slot f key).feeders = feederFiles s.feeders := by
  unfold State.undoNote
  split <;> simp
@[simp] theorem State.bundleWords_files (s : State) (r : CoreRef) (w n : Nat) :
    tileFiles (s.bundleWords r w n).2.tiles = tileFiles s.tiles ∧ feederFiles (s.bundleWords r w n).2.feeders = feederFiles s.feeders := by
  induction n generalizing s w with
  | zero => exact ⟨rfl, rfl⟩
  | succ n ih =>
    have h := State.fetchBytes_files s r (8 * w + 7) 1
    unfold State.bundleWords
    dsimp only
    split
    · exact ⟨(ih _ _).1.trans h.1, (ih _ _).2.trans h.2⟩
    · exact h
@[simp] theorem State.linkAddr_files (s : State) : tileFiles (State.linkAddr s).2.tiles = tileFiles s.tiles ∧ feederFiles (State.linkAddr s).2.feeders = feederFiles s.feeders := by
  unfold State.linkAddr
  simp
@[simp] theorem State.transfer_files (s : State) (taken : Bool) (tgt : BitVec 16) : tileFiles (State.transfer s taken tgt).tiles = tileFiles s.tiles ∧ feederFiles (State.transfer s taken tgt).feeders = feederFiles s.feeders := by
  unfold State.transfer
  split <;> simp
@[simp] theorem State.jumpTo_files (s : State) (t : Word) (link : Option Reg) : tileFiles (State.jumpTo s t link).tiles = tileFiles s.tiles ∧ feederFiles (State.jumpTo s t link).feeders = feederFiles s.feeders := by
  unfold State.jumpTo
  dsimp only
  (repeat' split) <;> simp
@[simp] theorem State.haltCore_files (s : State) (r : CoreRef) : tileFiles (State.haltCore s r).tiles = tileFiles s.tiles ∧ feederFiles (State.haltCore s r).feeders = feederFiles s.feeders := by
  unfold State.haltCore
  dsimp only
  (repeat' split) <;> simp
@[simp] theorem State.tellPartner_files (s : State) (r : CoreRef) : tileFiles (State.tellPartner s r).tiles = tileFiles s.tiles ∧ feederFiles (State.tellPartner s r).feeders = feederFiles s.feeders := by
  unfold State.tellPartner
  split <;> simp
@[simp] theorem State.reportPhase_files (s : State) (r : CoreRef) (level : BitVec 2) : tileFiles (State.reportPhase s r level).tiles = tileFiles s.tiles ∧ feederFiles (State.reportPhase s r level).feeders = feederFiles s.feeders := by
  unfold State.reportPhase
  (repeat' split) <;> simp
@[simp] theorem State.sluiceAdd_files (s : State) (r : CoreRef) (u : SlUpd) : tileFiles (State.sluiceAdd s r u).tiles = tileFiles s.tiles ∧ feederFiles (State.sluiceAdd s r u).feeders = feederFiles s.feeders := by
  unfold State.sluiceAdd
  split <;> simp
@[simp] theorem State.sluiceTake_files (s : State) (r : CoreRef) (sl : BitVec 4) (n : Nat) : tileFiles (State.sluiceTake s r sl n).tiles = tileFiles s.tiles ∧ feederFiles (State.sluiceTake s r sl n).feeders = feederFiles s.feeders := by
  unfold State.sluiceTake
  split <;> simp
@[simp] theorem State.endWait_files (s : State) (r : CoreRef) (p : Wait → Bool) : tileFiles (State.endWait s r p).tiles = tileFiles s.tiles ∧ feederFiles (State.endWait s r p).feeders = feederFiles s.feeders := by
  unfold State.endWait
  simp
@[simp] theorem Tile.writeSys_file (t : Tile) (n : Nat) (v : Word) :
    (Tile.writeSys t n v).worker.g = t.worker.g ∧ (Tile.writeSys t n v).worker.k = t.worker.k ∧ (Tile.writeSys t n v).worker.lt = t.worker.lt ∧ (Tile.writeSys t n v).worker.fflags = t.worker.fflags ∧ (Tile.writeSys t n v).stager.g = t.stager.g ∧ (Tile.writeSys t n v).stager.k = t.stager.k ∧ (Tile.writeSys t n v).stager.lt = t.stager.lt ∧ (Tile.writeSys t n v).stager.fflags = t.stager.fflags ∧ (Tile.writeSys t n v).v = t.v := by
  unfold Tile.writeSys
  (repeat' split) <;> exact ⟨rfl, rfl, rfl, rfl, rfl, rfl, rfl, rfl, rfl⟩
@[simp] theorem Feeder.writeSys_file (f : Feeder) (c : Nat) (n : Nat) (v : Word) :
    coresFile (Feeder.writeSys f c n v).cores = coresFile f.cores := by
  unfold Feeder.writeSys
  (repeat' split) <;> rfl
@[simp] theorem State.lateWrite_files (s : State) (n : Nat) (v : Word) (due : Nat) (free : Bool) : tileFiles (State.lateWrite s n v due free).tiles = tileFiles s.tiles ∧ feederFiles (State.lateWrite s n v due free).feeders = feederFiles s.feeders := by
  unfold State.lateWrite
  split <;> simp
@[simp] theorem State.tapWrite_files (s : State) (n : Nat) (refused : Bool) (v : Word) : tileFiles (State.tapWrite s n refused v).tiles = tileFiles s.tiles ∧ feederFiles (State.tapWrite s n refused v).feeders = feederFiles s.feeders := by
  unfold State.tapWrite
  split <;> simp
@[simp] theorem State.writeEjdesc_files (s : State) (j : BitVec 4) (v : Word) : tileFiles (State.writeEjdesc s j v).tiles = tileFiles s.tiles ∧ feederFiles (State.writeEjdesc s j v).feeders = feederFiles s.feeders := by
  unfold State.writeEjdesc
  simp
@[simp] theorem State.writeRoute_files (s : State) (e : Nat) (v : BitVec 128) : tileFiles (State.writeRoute s e v).tiles = tileFiles s.tiles ∧ feederFiles (State.writeRoute s e v).feeders = feederFiles s.feeders := by
  unfold State.writeRoute
  simp
@[simp] theorem Tile.applyLate_file (t : Tile) (l : LateReg) :
    (Tile.applyLate t l).worker.g = t.worker.g ∧ (Tile.applyLate t l).worker.k = t.worker.k ∧ (Tile.applyLate t l).worker.lt = t.worker.lt ∧ (Tile.applyLate t l).worker.fflags = t.worker.fflags ∧ (Tile.applyLate t l).stager.g = t.stager.g ∧ (Tile.applyLate t l).stager.k = t.stager.k ∧ (Tile.applyLate t l).stager.lt = t.stager.lt ∧ (Tile.applyLate t l).stager.fflags = t.stager.fflags ∧ (Tile.applyLate t l).v = t.v := by
  unfold Tile.applyLate
  dsimp only
  repeat' split
  all_goals exact ⟨rfl, rfl, rfl, rfl, rfl, rfl, rfl, rfl, rfl⟩
@[simp] theorem Tile.tickLate_file (t : Tile) (live : Bool) :
    (Tile.tickLate t live).worker.g = t.worker.g ∧ (Tile.tickLate t live).worker.k = t.worker.k ∧ (Tile.tickLate t live).worker.lt = t.worker.lt ∧ (Tile.tickLate t live).worker.fflags = t.worker.fflags ∧ (Tile.tickLate t live).stager.g = t.stager.g ∧ (Tile.tickLate t live).stager.k = t.stager.k ∧ (Tile.tickLate t live).stager.lt = t.stager.lt ∧ (Tile.tickLate t live).stager.fflags = t.stager.fflags ∧ (Tile.tickLate t live).v = t.v := by
  refine tileFile_iff.mp ((foldl_tile _ _ _ fun t a => ?_).trans rfl)
  generalize (if (a.free || live) = true then _ else a) = x
  dsimp only
  split
  · exact tileFile_iff.mpr (Tile.applyLate_file _ _)
  · rfl
@[simp] theorem Feeder.applyLate_file (f : Feeder) (c : Nat) (l : LateReg) :
    coresFile (Feeder.applyLate f c l).cores = coresFile f.cores := by
  unfold Feeder.applyLate
  dsimp only
  repeat' split
  all_goals rfl
@[simp] theorem Feeder.tickLate_file (f : Feeder) (live : Bool) :
    coresFile (Feeder.tickLate f live).cores = coresFile f.cores := by
  refine (foldl_cores _ _ _ fun t a => ?_).trans rfl
  dsimp only
  split <;> split
  all_goals first | exact Feeder.applyLate_file _ _ _ | rfl
@[simp] theorem State.laterLanes_files (s : State) (n : Nat) (vd : Reg) (mask : Word) (f : Fin 64 → BitVec 32 × BitVec 7) : tileFiles (State.laterLanes s n vd mask f).tiles = tileFiles s.tiles ∧ feederFiles (State.laterLanes s n vd mask f).feeders = feederFiles s.feeders := by
  unfold State.laterLanes
  simp
@[simp] theorem State.laterMove_files (s : State) (n : Nat) (vd : Reg) (mask : Word) (f : Fin 64 → BitVec 32) : tileFiles (State.laterMove s n vd mask f).tiles = tileFiles s.tiles ∧ feederFiles (State.laterMove s n vd mask f).feeders = feederFiles s.feeders := by
  unfold State.laterMove
  simp
@[simp] theorem State.advance_files (s : State) (p : PReg) : tileFiles (State.advance s p).tiles = tileFiles s.tiles ∧ feederFiles (State.advance s p).feeders = feederFiles s.feeders := by
  unfold State.advance
  simp
theorem State.takeStep_both (s : State) (i : Instr) (p : PReg) (k : List Byte → State → State)
    (hk : ∀ b s, tileFiles (k b s).tiles = tileFiles s.tiles ∧ feederFiles (k b s).feeders = feederFiles s.feeders) :
    tileFiles (s.takeStep i p k).tiles = tileFiles s.tiles ∧ feederFiles (s.takeStep i p k).feeders = feederFiles s.feeders := by
  unfold State.takeStep
  dsimp only
  repeat' split
  all_goals simp [hk]
theorem State.writeStep_both (s : State) (i : Instr) (p : PReg) (bs : List (Byte × Byte)) (k : State → State)
    (hk : ∀ s, tileFiles (k s).tiles = tileFiles s.tiles ∧ feederFiles (k s).feeders = feederFiles s.feeders) :
    tileFiles (s.writeStep i p bs k).tiles = tileFiles s.tiles ∧ feederFiles (s.writeStep i p bs k).feeders = feederFiles s.feeders := by
  unfold State.writeStep
  dsimp only
  repeat' split
  all_goals simp [hk]
@[simp] theorem State.closeWrite_files (s : State) (r : CoreRef) (x : Port) : tileFiles (State.closeWrite s r x).tiles = tileFiles s.tiles ∧ feederFiles (State.closeWrite s r x).feeders = feederFiles s.feeders := by
  unfold State.closeWrite
  (repeat' split) <;> simp
@[simp] theorem State.closePort_files (s : State) (r : CoreRef) (p : PReg) : tileFiles (State.closePort s r p).tiles = tileFiles s.tiles ∧ feederFiles (State.closePort s r p).feeders = feederFiles s.feeders := by
  unfold State.closePort
  simp
@[simp] theorem State.failPcfg_files (s : State) (p : PReg) (cause : BitVec 8) (a : Word) : tileFiles (State.failPcfg s p cause a).tiles = tileFiles s.tiles ∧ feederFiles (State.failPcfg s p cause a).feeders = feederFiles s.feeders := by
  unfold State.failPcfg
  simp
@[simp] theorem State.fetchWords_files (s : State) (a n : Nat) :
    tileFiles (s.fetchWords a n).2.tiles = tileFiles s.tiles ∧ feederFiles (s.fetchWords a n).2.feeders = feederFiles s.feeders := by
  induction n generalizing s a with
  | zero => exact ⟨rfl, rfl⟩
  | succ n ih =>
    have h := State.fetchBytes_files s s.actor a 8
    exact ⟨(ih _ _).1.trans h.1, (ih _ _).2.trans h.2⟩
@[simp] theorem State.configure_files (s : State) (p : PReg) (a : Int) : tileFiles (State.configure s p a).tiles = tileFiles s.tiles ∧ feederFiles (State.configure s p a).feeders = feederFiles s.feeders := by
  unfold State.configure
  dsimp only
  repeat' split
  all_goals simp
@[simp] theorem State.engineStore_files (s : State) (r : CoreRef) (bytes : List (Nat × Byte)) : tileFiles (State.engineStore s r bytes).tiles = tileFiles s.tiles ∧ feederFiles (State.engineStore s r bytes).feeders = feederFiles s.feeders := by
  unfold State.engineStore
  simp
@[simp] theorem State.portDrain_files (s : State) (r : CoreRef) (p : PReg) : tileFiles (State.portDrain s r p).tiles = tileFiles s.tiles ∧ feederFiles (State.portDrain s r p).feeders = feederFiles s.feeders := by
  unfold State.portDrain
  dsimp only
  (repeat' split) <;> simp
theorem foldl_racing_files (l : List Nat) (x : List Nat × State) :
    tileFiles (l.foldl (fun (x : List Nat × State) g => let (b, s) := x.2.takeBool; (if b then g :: x.1 else x.1, s)) x).2.tiles = tileFiles x.2.tiles ∧
    feederFiles (l.foldl (fun (x : List Nat × State) g => let (b, s) := x.2.takeBool; (if b then g :: x.1 else x.1, s)) x).2.feeders = feederFiles x.2.feeders := by
  induction l generalizing x with
  | nil => exact ⟨rfl, rfl⟩
  | cons a r ih => exact ⟨(ih _).1.trans rfl, (ih _).2.trans rfl⟩
@[simp] theorem State.readRacing_files (s : State) (r : CoreRef) (addrs : List Nat) :
    tileFiles (s.readRacing r addrs).2.tiles = tileFiles s.tiles ∧ feederFiles (s.readRacing r addrs).2.feeders = feederFiles s.feeders :=
  foldl_racing_files _ ([], s)
@[simp] theorem State.portRead_files (s : State) (r : CoreRef) (p : PReg) : tileFiles (State.portRead s r p).tiles = tileFiles s.tiles ∧ feederFiles (State.portRead s r p).feeders = feederFiles s.feeders := by
  unfold State.portRead
  dsimp only
  (repeat' split) <;> simp
@[simp] theorem State.loadLanes_files (s : State) (t : Reg) (mask : Word) (fmt : BitVec 4) (raw : Nat → Nat) : tileFiles (State.loadLanes s t mask fmt raw).tiles = tileFiles s.tiles ∧ feederFiles (State.loadLanes s t mask fmt raw).feeders = feederFiles s.feeders := by
  unfold State.loadLanes
  simp
@[simp] theorem State.gather_files (s : State) (i : Instr) (t : Reg) (m : Word) (a : Int) (els : Nat → List (Fin 64 × Int)) :
    tileFiles (s.gather i t m a els).tiles = tileFiles s.tiles ∧ feederFiles (s.gather i t m a els).feeders = feederFiles s.feeders := by
  unfold State.gather
  split
  · simp
  · dsimp only; split
    · simp
    · exact State.withRead_both _ _ _ _ _ fun _ s => State.loadLanes_files s _ _ _ _
@[simp] theorem Feeder.writeGroup_file (x : Feeder) (g : BitVec 8) (from_ : BitVec 48) (e : GroupEntry) :
    coresFile (Feeder.writeGroup x g from_ e).cores = coresFile x.cores := by
  rfl
@[simp] theorem Feeder.foldGroups_file (x : Feeder) (t : BitVec 48) :
    coresFile (Feeder.foldGroups x t).cores = coresFile x.cores := by
  rfl
@[simp] theorem State.readLine_files (s : State) (f n line : Nat) : tileFiles (State.readLine s f n line).tiles = tileFiles s.tiles ∧ feederFiles (State.readLine s f n line).feeders = feederFiles s.feeders := by
  unfold State.readLine
  simp
@[simp] theorem State.readWeightLine_files (s : State) (f n line : Nat) : tileFiles (State.readWeightLine s f n line).tiles = tileFiles s.tiles ∧ feederFiles (State.readWeightLine s f n line).feeders = feederFiles s.feeders := by
  unfold State.readWeightLine
  simp
@[simp] theorem Feeder.keepLine_file (x : Feeder) (line pick : Nat) :
    coresFile (Feeder.keepLine x line pick).cores = coresFile x.cores := by
  unfold Feeder.keepLine
  split <;> rfl
@[simp] theorem State.pushPipe_files (s : State) (f c : Nat) (k : PipeKind) (fmt : FFmt) (a : Word) (n : Nat) : tileFiles (State.pushPipe s f c k fmt a n).tiles = tileFiles s.tiles ∧ feederFiles (State.pushPipe s f c k fmt a n).feeders = feederFiles s.feeders := by
  unfold State.pushPipe
  simp
@[simp] theorem State.setPipe_files (s : State) (f c : Nat) (o : Option PipeOp) : tileFiles (State.setPipe s f c o).tiles = tileFiles s.tiles ∧ feederFiles (State.setPipe s f c o).feeders = feederFiles s.feeders := by
  unfold State.setPipe
  simp
@[simp] theorem State.pipeAbsent_files (s : State) (r : CoreRef) (f c line : Nat) : tileFiles (State.pipeAbsent s r f c line).tiles = tileFiles s.tiles ∧ feederFiles (State.pipeAbsent s r f c line).feeders = feederFiles s.feeders := by
  unfold State.pipeAbsent
  (repeat' split) <;> simp
@[simp] theorem State.pipeStop_files (s : State) (f c : Nat) (cause : BitVec 8) (a : Word) : tileFiles (State.pipeStop s f c cause a).tiles = tileFiles s.tiles ∧ feederFiles (State.pipeStop s f c cause a).feeders = feederFiles s.feeders := by
  unfold State.pipeStop
  simp
@[simp] theorem State.redLine_files (s : State) (f c : Nat) (o : PipeOp) (op : FredOp) (d : Reg) (elems : List Num) : tileFiles (State.redLine s f c o op d elems).tiles = tileFiles s.tiles ∧ feederFiles (State.redLine s f c o op d elems).feeders = feederFiles s.feeders := by
  unfold State.redLine
  simp
@[simp] theorem State.updLine_files (s : State) (f c : Nat) (o : PipeOp) (k : Nat) (outs : List (Nat × BitVec 7)) : tileFiles (State.updLine s f c o k outs).tiles = tileFiles s.tiles ∧ feederFiles (State.updLine s f c o k outs).feeders = feederFiles s.feeders := by
  unfold State.updLine
  simp
@[simp] theorem State.updAt_files (s : State) (f c : Nat) (o : PipeOp) (k sk : Nat) (op : FupdOp) (sa : Word) (c32 vc : BitVec 32) (elems : List Num) : tileFiles (State.updAt s f c o k sk op sa c32 vc elems).tiles = tileFiles s.tiles ∧ feederFiles (State.updAt s f c o k sk op sa c32 vc elems).feeders = feederFiles s.feeders := by
  unfold State.updAt
  split <;> simp
@[simp] theorem State.pipeAt_files (s : State) (f c : Nat) (o : PipeOp) (k line : Nat) : tileFiles (State.pipeAt s f c o k line).tiles = tileFiles s.tiles ∧ feederFiles (State.pipeAt s f c o k line).feeders = feederFiles s.feeders := by
  unfold State.pipeAt
  (repeat' split) <;> simp
@[simp] theorem State.pipeLine_files (s : State) (f c : Nat) : tileFiles (State.pipeLine s f c).tiles = tileFiles s.tiles ∧ feederFiles (State.pipeLine s f c).feeders = feederFiles s.feeders := by
  unfold State.pipeLine
  (repeat' split) <;> simp
@[simp] theorem State.pipeCycle_files (s : State) (f c : Nat) : tileFiles (State.pipeCycle s f c).tiles = tileFiles s.tiles ∧ feederFiles (State.pipeCycle s f c).feeders = feederFiles s.feeders := by
  unfold State.pipeCycle
  simp
@[simp] theorem State.autoLater_files (s : State) (a : Auto) : tileFiles (State.autoLater s a).tiles = tileFiles s.tiles ∧ feederFiles (State.autoLater s a).feeders = feederFiles s.feeders := by
  unfold State.autoLater
  simp
theorem State.tableRead_files {s t : State} {r : CoreRef} {w : BitVec 4} {off n : Nat} {b : List Byte}
    (h : s.tableRead r w off n = .ok (b, t)) : tileFiles t.tiles = tileFiles s.tiles ∧ feederFiles t.feeders = feederFiles s.feeders := by
  unfold State.tableRead at h
  dsimp only at h
  repeat' split at h
  all_goals first | (cases h; done) | skip
  cases h; exact State.fetchBytes_files _ _ _ _
theorem State.tableHeader_files {s t : State} {r : CoreRef} {w : BitVec 4} {b : TabHdr}
    (h : s.tableHeader r w = .ok (b, t)) : tileFiles t.tiles = tileFiles s.tiles ∧ feederFiles t.feeders = feederFiles s.feeders := by
  unfold State.tableHeader at h
  split at h
  · cases h
  · rename_i hr
    split at h
    · cases h
    · cases h; exact State.tableRead_files hr
@[simp] theorem State.autoRead_files (s : State) (r : CoreRef) (a : Auto) : tileFiles (State.autoRead s r a).tiles = tileFiles s.tiles ∧ feederFiles (State.autoRead s r a).feeders = feederFiles s.feeders := by
  unfold State.autoRead
  dsimp only
  split
  · simp
  · rename_i h
    have hm := State.tableRead_files h
    repeat' split
    all_goals simp [hm]
@[simp] theorem State.autoReads_files (s : State) (r : CoreRef) : tileFiles (State.autoReads s r).tiles = tileFiles s.tiles ∧ feederFiles (State.autoReads s r).feeders = feederFiles s.feeders := by
  unfold State.autoReads
  simp
@[simp] theorem Core.tickAutos_file (c : Core) :
    (Core.tickAutos c).g = c.g ∧ (Core.tickAutos c).k = c.k ∧ (Core.tickAutos c).lt = c.lt ∧ (Core.tickAutos c).fflags = c.fflags := by
  exact ⟨rfl, rfl, rfl, rfl⟩
@[simp] theorem State.bindArm_files (s : State) (id : Nat) (a : Arm) (block n : Nat) : tileFiles (State.bindArm s id a block n).tiles = tileFiles s.tiles ∧ feederFiles (State.bindArm s id a block n).feeders = feederFiles s.feeders := by
  unfold State.bindArm
  simp
@[simp] theorem State.fireArm_files (s : State) (id : Nat) (a : Arm) (block n : Nat) : tileFiles (State.fireArm s id a block n).tiles = tileFiles s.tiles ∧ feederFiles (State.fireArm s id a block n).feeders = feederFiles s.feeders := by
  unfold State.fireArm
  simp
@[simp] theorem State.clearPoison_files (s : State) (key n : Nat) : tileFiles (State.clearPoison s key n).tiles = tileFiles s.tiles ∧ feederFiles (State.clearPoison s key n).feeders = feederFiles s.feeders := by
  unfold State.clearPoison
  simp
@[simp] theorem State.startProduct_files (s : State) (id : Nat) (kg : KGroup) (z : Bool) (pa : PReg) (pb : Option PReg) (loc : Option BlockLoc) (fa fb : BitVec 4) (g : Nat) : tileFiles (State.startProduct s id kg z pa pb loc fa fb g).tiles = tileFiles s.tiles ∧ feederFiles (State.startProduct s id kg z pa pb loc fa fb g).feeders = feederFiles s.feeders := by
  unfold State.startProduct
  split <;> simp
@[simp] theorem State.blockGranule_files (s : State) (id key : Nat) : tileFiles (State.blockGranule s id key).2.tiles = tileFiles s.tiles ∧ feederFiles (State.blockGranule s id key).2.feeders = feederFiles s.feeders := by
  unfold State.blockGranule
  split <;> simp
@[simp] theorem Tile.setMat_file (t : Tile) (m : MatOp) :
    (Tile.setMat t m).worker.g = t.worker.g ∧ (Tile.setMat t m).worker.k = t.worker.k ∧ (Tile.setMat t m).worker.lt = t.worker.lt ∧ (Tile.setMat t m).worker.fflags = t.worker.fflags ∧ (Tile.setMat t m).stager.g = t.stager.g ∧ (Tile.setMat t m).stager.k = t.stager.k ∧ (Tile.setMat t m).stager.lt = t.stager.lt ∧ (Tile.setMat t m).stager.fflags = t.stager.fflags ∧ (Tile.setMat t m).v = t.v := by
  exact ⟨rfl, rfl, rfl, rfl, rfl, rfl, rfl, rfl, rfl⟩
theorem State.intakePort_files {s t : State} {r : CoreRef} {q : Nat} {p : PReg} {n : Nat} {b : List Byte}
    (h : s.intakePort r q p n = .ok (b, t)) : tileFiles t.tiles = tileFiles s.tiles ∧ feederFiles t.feeders = feederFiles s.feeders := by
  unfold State.intakePort at h
  dsimp only at h
  repeat' split at h
  all_goals first | (cases h; done) | (cases h; simp; done)
@[simp] theorem State.blockBytes_files (s : State) (id k n : Nat) :
    tileFiles (s.blockBytes id k n).2.tiles = tileFiles s.tiles ∧ feederFiles (s.blockBytes id k n).2.feeders = feederFiles s.feeders := by
  induction n generalizing s k with
  | zero => exact ⟨rfl, rfl⟩
  | succ n ih => exact ⟨(ih _ _).1.trans (State.blockGranule_files _ _ _).1, (ih _ _).2.trans (State.blockGranule_files _ _ _).2⟩
theorem State.intakeBlock_files {s t : State} {id : Nat} {b : BlockLoc} {o n : Nat} {x : List Byte}
    (h : s.intakeBlock id b o n = .ok (x, t)) : tileFiles t.tiles = tileFiles s.tiles ∧ feederFiles t.feeders = feederFiles s.feeders := by
  unfold State.intakeBlock at h
  split at h
  · cases h
  · have := congrArg Prod.snd (Except.ok.inj h); dsimp only at this; rw [← this]; exact State.blockBytes_files _ _ _ _
@[simp] theorem State.intake_files (s : State) (id : Nat) (m : MatOp) : tileFiles (State.intake s id m).tiles = tileFiles s.tiles ∧ feederFiles (State.intake s id m).feeders = feederFiles s.feeders := by
  unfold State.intake
  dsimp only
  split
  · exact ⟨rfl, rfl⟩
  · split
    · simp
    · rename_i h
      have h1 := State.intakePort_files h
      split
      · simp
      · rename_i hb
        have h2 := fun {x y p n b t} (e : State.intakePort x y p n b = .ok t) => State.intakePort_files (t := t.2) (b := t.1) e
        split at hb
        · have h3 := State.intakeBlock_files hb; simp [h3, h1]
        · have h3 := State.intakePort_files hb; simp [h3, h1]
        · cases hb; simp [h1]
@[simp] theorem State.stepProduct_files (s : State) (id seq : Nat) : tileFiles (State.stepProduct s id seq).tiles = tileFiles s.tiles ∧ feederFiles (State.stepProduct s id seq).feeders = feederFiles s.feeders := by
  unfold State.stepProduct
  dsimp only
  (repeat' split) <;> simp
@[simp] theorem Tile.takeToken_file (t : Tile) :
    (Tile.takeToken t).worker.g = t.worker.g ∧ (Tile.takeToken t).worker.k = t.worker.k ∧ (Tile.takeToken t).worker.lt = t.worker.lt ∧ (Tile.takeToken t).worker.fflags = t.worker.fflags ∧ (Tile.takeToken t).stager.g = t.stager.g ∧ (Tile.takeToken t).stager.k = t.stager.k ∧ (Tile.takeToken t).stager.lt = t.stager.lt ∧ (Tile.takeToken t).stager.fflags = t.stager.fflags ∧ (Tile.takeToken t).v = t.v := by
  unfold Tile.takeToken
  split <;> exact ⟨rfl, rfl, rfl, rfl, rfl, rfl, rfl, rfl, rfl⟩
@[simp] theorem State.startDrain_files (s : State) (id : Nat) (z : Bool) (cfg : Word) (dest : DrainDest) (fmt : BitVec 4) (wcount srkw : BitVec 32) (span : List Nat) : tileFiles (State.startDrain s id z cfg dest fmt wcount srkw span).tiles = tileFiles s.tiles ∧ feederFiles (State.startDrain s id z cfg dest fmt wcount srkw span).feeders = feederFiles s.feeders := by
  unfold State.startDrain
  simp
@[simp] theorem State.drainRead_files (s : State) (id : Nat) (d : Drain) : tileFiles (State.drainRead s id d).tiles = tileFiles s.tiles ∧ feederFiles (State.drainRead s id d).feeders = feederFiles s.feeders := by
  unfold State.drainRead
  simp
@[simp] theorem State.drainConvert_files (s : State) (id : Nat) (d : Drain) : tileFiles (State.drainConvert s id d).tiles = tileFiles s.tiles ∧ feederFiles (State.drainConvert s id d).feeders = feederFiles s.feeders := by
  unfold State.drainConvert
  dsimp only
  (repeat' split) <;> simp
@[simp] theorem State.drainLine_files (s : State) (id seq : Nat) (l : Nat × List Byte × Nat) : tileFiles (State.drainLine s id seq l).tiles = tileFiles s.tiles ∧ feederFiles (State.drainLine s id seq l).feeders = feederFiles s.feeders := by
  unfold State.drainLine
  split <;> simp
@[simp] theorem State.drainWrites_files (s : State) (id : Nat) : tileFiles (State.drainWrites s id).tiles = tileFiles s.tiles ∧ feederFiles (State.drainWrites s id).feeders = feederFiles s.feeders := by
  unfold State.drainWrites
  simp
@[simp] theorem State.stepDrain_files (s : State) (id seq : Nat) : tileFiles (State.stepDrain s id seq).tiles = tileFiles s.tiles ∧ feederFiles (State.stepDrain s id seq).feeders = feederFiles s.feeders := by
  unfold State.stepDrain
  split <;> simp
@[simp] theorem Tile.writeSets_file (t : Tile) :
    (Tile.writeSets t).worker.g = t.worker.g ∧ (Tile.writeSets t).worker.k = t.worker.k ∧ (Tile.writeSets t).worker.lt = t.worker.lt ∧ (Tile.writeSets t).worker.fflags = t.worker.fflags ∧ (Tile.writeSets t).stager.g = t.stager.g ∧ (Tile.writeSets t).stager.k = t.stager.k ∧ (Tile.writeSets t).stager.lt = t.stager.lt ∧ (Tile.writeSets t).stager.fflags = t.stager.fflags ∧ (Tile.writeSets t).v = t.v := by
  refine tileFile_iff.mp ?_
  refine (show tileFile t.writeSets = tileFile (t.zwrites.foldl _ t) from rfl).trans (foldl_tile _ _ _ fun t a => ?_)
  split
  · unfold Tile.writeZ; split <;> rfl
  · rfl
@[simp] theorem State.drainCycle_files (s : State) (id : Nat) : tileFiles (State.drainCycle s id).tiles = tileFiles s.tiles ∧ feederFiles (State.drainCycle s id).feeders = feederFiles s.feeders := by
  unfold State.drainCycle
  simp
@[simp] theorem State.arrayCycle_files (s : State) (id : Nat) : tileFiles (State.arrayCycle s id).tiles = tileFiles s.tiles ∧ feederFiles (State.arrayCycle s id).feeders = feederFiles s.feeders := by
  unfold State.arrayCycle
  simp
@[simp] theorem Tile.endTokens_file (t : Tile) :
    (Tile.endTokens t).worker.g = t.worker.g ∧ (Tile.endTokens t).worker.k = t.worker.k ∧ (Tile.endTokens t).worker.lt = t.worker.lt ∧ (Tile.endTokens t).worker.fflags = t.worker.fflags ∧ (Tile.endTokens t).stager.g = t.stager.g ∧ (Tile.endTokens t).stager.k = t.stager.k ∧ (Tile.endTokens t).stager.lt = t.stager.lt ∧ (Tile.endTokens t).stager.fflags = t.stager.fflags ∧ (Tile.endTokens t).v = t.v := by
  exact ⟨rfl, rfl, rfl, rfl, rfl, rfl, rfl, rfl, rfl⟩
@[simp] theorem State.dueAt_files (s : State) (n : Nat) : tileFiles (State.dueAt s n).2.tiles = tileFiles s.tiles ∧ feederFiles (State.dueAt s n).2.feeders = feederFiles s.feeders := by
  unfold State.dueAt
  simp
@[simp] theorem State.goLive_files (s : State) (n : Nat) : tileFiles (State.goLive s n).tiles = tileFiles s.tiles ∧ feederFiles (State.goLive s n).feeders = feederFiles s.feeders := by
  unfold State.goLive
  simp
@[simp] theorem State.crewGo_files (s : State) (n : Nat) : tileFiles (State.crewGo s n).tiles = tileFiles s.tiles ∧ feederFiles (State.crewGo s n).feeders = feederFiles s.feeders := by
  unfold State.crewGo
  dsimp only
  (repeat' split) <;> simp
@[simp] theorem State.announceAt_files (s : State) (n : Nat) (a : BitVec 48) (m : HoldMsg) : tileFiles (s.announceAt n a m).tiles = tileFiles s.tiles ∧ feederFiles (s.announceAt n a m).feeders = feederFiles s.feeders := by
  unfold State.announceAt
  simp
@[simp] theorem State.announceHold_files (s : State) (n len : Nat) (why : HoldWhy) : tileFiles (State.announceHold s n len why).tiles = tileFiles s.tiles ∧ feederFiles (State.announceHold s n len why).feeders = feederFiles s.feeders := by
  unfold State.announceHold
  repeat' (first | with_reducible rfl | (simp; done) | split | (refine foldl_files _ _ _ ?_; intro _ _) | simp | (rename_i heq; have hm := congrArg (fun p => ((Prod.snd p).tiles, (Prod.snd p).feeders)) heq; simp at hm; simp [← hm.1, ← hm.2]; done) | constructor)
@[simp] theorem State.lockHold_files (s : State) (n : Nat) (why : HoldWhy) : tileFiles (State.lockHold s n why).tiles = tileFiles s.tiles ∧ feederFiles (State.lockHold s n why).feeders = feederFiles s.feeders := by
  unfold State.lockHold
  simp
@[simp] theorem State.sendRelease_files (s : State) (n : Nat) (h : BitVec 48) (m : Nat) : tileFiles (State.sendRelease s n h m).tiles = tileFiles s.tiles ∧ feederFiles (State.sendRelease s n h m).feeders = feederFiles s.feeders := by
  unfold State.sendRelease
  simp
@[simp] theorem State.releaseHold_files (s : State) (n : Nat) (h : BitVec 48) : tileFiles (State.releaseHold s n h).tiles = tileFiles s.tiles ∧ feederFiles (State.releaseHold s n h).feeders = feederFiles s.feeders := by
  unfold State.releaseHold
  simp
@[simp] theorem State.lockRelease_files (s : State) (n : Nat) (why : HoldWhy) (h : BitVec 48) : tileFiles (State.lockRelease s n why h).tiles = tileFiles s.tiles ∧ feederFiles (State.lockRelease s n why h).feeders = feederFiles s.feeders := by
  unfold State.lockRelease
  simp
@[simp] theorem State.limitOne_files (s : State) (n : Nat) : tileFiles (State.limitOne s n).tiles = tileFiles s.tiles ∧ feederFiles (State.limitOne s n).feeders = feederFiles s.feeders := by
  unfold State.limitOne
  simp
@[simp] theorem State.stopCores_files (s : State) (rs : List CoreRef) :
    tileFiles (s.stopCores rs).tiles = tileFiles s.tiles ∧ feederFiles (s.stopCores rs).feeders = feederFiles s.feeders :=
  foldl_files _ _ _ fun s r => modCore_both s r _ fun c => by split <;> exact ⟨rfl, rfl, rfl, rfl⟩
@[simp] theorem State.dropInject_files (s : State) (f id : Nat) : tileFiles (State.dropInject s f id).tiles = tileFiles s.tiles ∧ feederFiles (State.dropInject s f id).feeders = feederFiles s.feeders := by
  unfold State.dropInject
  simp
@[simp] theorem State.invalidInject_files (s : State) (f : Nat) (b : Inject) : tileFiles (State.invalidInject s f b).tiles = tileFiles s.tiles ∧ feederFiles (State.invalidInject s f b).feeders = feederFiles s.feeders := by
  unfold State.invalidInject
  simp
@[simp] theorem State.lightLost_files (s : State) (f slot : Nat) : tileFiles (State.lightLost s f slot).tiles = tileFiles s.tiles ∧ feederFiles (State.lightLost s f slot).feeders = feederFiles s.feeders := by
  unfold State.lightLost
  simp
@[simp] theorem State.startDelivery_files (s : State) (tile i : Nat) (lams : BitVec 16) (f : Nat) (tm : BitVec 48) (data : List (List Byte)) (errs : List (Nat × Nat × StoreErr)) : tileFiles (State.startDelivery s tile i lams f tm data errs).tiles = tileFiles s.tiles ∧ feederFiles (State.startDelivery s tile i lams f tm data errs).feeders = feederFiles s.feeders := by
  unfold State.startDelivery
  dsimp only
  (repeat' split) <;> simp
@[simp] theorem State.strayStart_files (s : State) (tile : Nat) (lane : BitVec 2) (lams : BitVec 16) (tag : BitVec 8) (errs : List (Nat × Nat × StoreErr)) : tileFiles (State.strayStart s tile lane lams tag errs).tiles = tileFiles s.tiles ∧ feederFiles (State.strayStart s tile lane lams tag errs).feeders = feederFiles s.feeders := by
  unfold State.strayStart
  simp
@[simp] theorem State.landBeat_files (s : State) (tile : Nat) (b : Block) : tileFiles (State.landBeat s tile b).tiles = tileFiles s.tiles ∧ feederFiles (State.landBeat s tile b).feeders = feederFiles s.feeders := by
  unfold State.landBeat
  dsimp only
  (repeat' split) <;> simp
@[simp] theorem State.tapRecords_files (s : State) (tile : Nat) : tileFiles (State.tapRecords s tile).tiles = tileFiles s.tiles ∧ feederFiles (State.tapRecords s tile).feeders = feederFiles s.feeders := by
  unfold State.tapRecords
  simp
@[simp] theorem State.landBeats_files (s : State) (tile : Nat) : tileFiles (State.landBeats s tile).tiles = tileFiles s.tiles ∧ feederFiles (State.landBeats s tile).feeders = feederFiles s.feeders := by
  unfold State.landBeats
  simp
@[simp] theorem State.dimFeeder_files (s : State) (f : Nat) : tileFiles (s.dimFeeder f).tiles = tileFiles s.tiles ∧ feederFiles (s.dimFeeder f).feeders = feederFiles s.feeders := by
  unfold State.dimFeeder
  split
  · exact ⟨rfl, rfl⟩
  · extract_lets c under now dim dark s1
    split
    · exact ⟨rfl, rfl⟩
    · have h1 : tileFiles s1.tiles = tileFiles s.tiles ∧ feederFiles s1.feeders = feederFiles s.feeders :=
        ⟨tileFiles_mapVals _ _ fun _ t => by simp only [dim]; split <;> exact ⟨rfl, rfl, rfl, rfl, rfl, rfl, rfl, rfl, rfl⟩, rfl⟩
      have h2 := feederFiles_modFeeder s1 f (fun x => { x with flying := x.flying.map fun b => if under b then { b with dark := true } else b }) fun _ => rfl
      have h3 := foldl_files (fun (s : State) (b : Inject) => s.lightLost f b.slot) now
        (s1.modFeeder f fun x => { x with flying := x.flying.map fun b => if under b then { b with dark := true } else b })
        fun s b => State.lightLost_files ..
      exact ⟨h3.1.trans h1.1, h3.2.trans (h2.trans h1.2)⟩
@[simp] theorem State.lightCycle_files (s : State) (f : Nat) : tileFiles (State.lightCycle s f).tiles = tileFiles s.tiles ∧ feederFiles (State.lightCycle s f).feeders = feederFiles s.feeders := by
  unfold State.lightCycle
  split <;> simp
@[simp] theorem State.answerIn_files (s : State) (d : Nat) (q : Req) (a : Ans) : tileFiles (State.answerIn s d q a).tiles = tileFiles s.tiles ∧ feederFiles (State.answerIn s d q a).feeders = feederFiles s.feeders := by
  unfold State.answerIn
  simp
@[simp] theorem State.enqueue_files (s : State) (site : Site) (goal : Nat) (p : Packet) : tileFiles (State.enqueue s site goal p).tiles = tileFiles s.tiles ∧ feederFiles (State.enqueue s site goal p).feeders = feederFiles s.feeders := by
  unfold State.enqueue
  split <;> simp
@[simp] theorem State.sendPlain_files (s : State) (site : Site) (p : Packet) : tileFiles (State.sendPlain s site p).tiles = tileFiles s.tiles ∧ feederFiles (State.sendPlain s site p).feeders = feederFiles s.feeders := by
  unfold State.sendPlain
  split <;> simp
@[simp] theorem State.noWay_files (s : State) (site : Site) (p : Packet) : tileFiles (State.noWay s site p).tiles = tileFiles s.tiles ∧ feederFiles (State.noWay s site p).feeders = feederFiles s.feeders := by
  unfold State.noWay
  split <;> simp
@[simp] theorem State.launchPacket_files (s : State) (site : Site) (p : Packet) : tileFiles (State.launchPacket s site p).tiles = tileFiles s.tiles ∧ feederFiles (State.launchPacket s site p).feeders = feederFiles s.feeders := by
  unfold State.launchPacket
  (repeat' split) <;> simp
@[simp] theorem State.answer_files (s : State) (site : Site) (q : Req) (a : Ans) : tileFiles (State.answer s site q a).tiles = tileFiles s.tiles ∧ feederFiles (State.answer s site q a).feeders = feederFiles s.feeders := by
  unfold State.answer
  simp
@[simp] theorem State.dispatchRequest_files (s : State) (r : CoreRef) (q : Req) : tileFiles (State.dispatchRequest s r q).tiles = tileFiles s.tiles ∧ feederFiles (State.dispatchRequest s r q).feeders = feederFiles s.feeders := by
  unfold State.dispatchRequest
  (repeat' split) <;> simp
@[simp] theorem State.sendRequest_files (s : State) (r : CoreRef) (g : Word) (kind : ReqKind) (dst : Option Reg) : tileFiles (State.sendRequest s r g kind dst).tiles = tileFiles s.tiles ∧ feederFiles (State.sendRequest s r g kind dst).feeders = feederFiles s.feeders := by
  unfold State.sendRequest
  simp
@[simp] theorem Tile.setBerth_file (t : Tile) (w : BitVec 4) (b : Berth) :
    (Tile.setBerth t w b).worker.g = t.worker.g ∧ (Tile.setBerth t w b).worker.k = t.worker.k ∧ (Tile.setBerth t w b).worker.lt = t.worker.lt ∧ (Tile.setBerth t w b).worker.fflags = t.worker.fflags ∧ (Tile.setBerth t w b).stager.g = t.stager.g ∧ (Tile.setBerth t w b).stager.k = t.stager.k ∧ (Tile.setBerth t w b).stager.lt = t.stager.lt ∧ (Tile.setBerth t w b).stager.fflags = t.stager.fflags ∧ (Tile.setBerth t w b).v = t.v := by
  exact ⟨rfl, rfl, rfl, rfl, rfl, rfl, rfl, rfl, rfl⟩
@[simp] theorem Tile.setHolder_file (t : Tile) (w : BitVec 4) (h : BitVec 5) :
    (Tile.setHolder t w h).worker.g = t.worker.g ∧ (Tile.setHolder t w h).worker.k = t.worker.k ∧ (Tile.setHolder t w h).worker.lt = t.worker.lt ∧ (Tile.setHolder t w h).worker.fflags = t.worker.fflags ∧ (Tile.setHolder t w h).stager.g = t.stager.g ∧ (Tile.setHolder t w h).stager.k = t.stager.k ∧ (Tile.setHolder t w h).stager.lt = t.stager.lt ∧ (Tile.setHolder t w h).stager.fflags = t.stager.fflags ∧ (Tile.setHolder t w h).v = t.v := by
  exact ⟨rfl, rfl, rfl, rfl, rfl, rfl, rfl, rfl, rfl⟩
@[simp] theorem Tile.nextHolder_file (t : Tile) (w : BitVec 4) (h : BitVec 5) :
    (Tile.nextHolder t w h).worker.g = t.worker.g ∧ (Tile.nextHolder t w h).worker.k = t.worker.k ∧ (Tile.nextHolder t w h).worker.lt = t.worker.lt ∧ (Tile.nextHolder t w h).worker.fflags = t.worker.fflags ∧ (Tile.nextHolder t w h).stager.g = t.stager.g ∧ (Tile.nextHolder t w h).stager.k = t.stager.k ∧ (Tile.nextHolder t w h).stager.lt = t.stager.lt ∧ (Tile.nextHolder t w h).stager.fflags = t.stager.fflags ∧ (Tile.nextHolder t w h).v = t.v := by
  exact ⟨rfl, rfl, rfl, rfl, rfl, rfl, rfl, rfl, rfl⟩
@[simp] theorem State.sendOffer_files (s : State) (site : Site) (reg taker : Word) (view : Bool) : tileFiles (State.sendOffer s site reg taker view).tiles = tileFiles s.tiles ∧ feederFiles (State.sendOffer s site reg taker view).feeders = feederFiles s.feeders := by
  unfold State.sendOffer
  split <;> simp
@[simp] theorem State.tellTaker_files (s : State) (taker reg : Word) (view : Bool) : tileFiles (State.tellTaker s taker reg view).tiles = tileFiles s.tiles ∧ feederFiles (State.tellTaker s taker reg view).feeders = feederFiles s.feeders := by
  unfold State.tellTaker
  split <;> simp
@[simp] theorem State.dropView_files (s : State) (id : Nat) (w : BitVec 4) (v : View) : tileFiles (State.dropView s id w v).tiles = tileFiles s.tiles ∧ feederFiles (State.dropView s id w v).feeders = feederFiles s.feeders := by
  unfold State.dropView
  simp
@[simp] theorem State.offerWindow_files (s : State) (id : Nat) (w : BitVec 4) (h : Holder) (taker : Word) (view : Bool) : tileFiles (State.offerWindow s id w h taker view).tiles = tileFiles s.tiles ∧ feederFiles (State.offerWindow s id w h taker view).feeders = feederFiles s.feeders := by
  unfold State.offerWindow
  split <;> simp
@[simp] theorem State.tickPassage_files (s : State) (id : Nat) (w : BitVec 4) : tileFiles (State.tickPassage s id w).tiles = tileFiles s.tiles ∧ feederFiles (State.tickPassage s id w).feeders = feederFiles s.feeders := by
  unfold State.tickPassage
  dsimp only
  (repeat' split) <;> simp
@[simp] theorem State.tickView_files (s : State) (id : Nat) (w : BitVec 4) (v : View) : tileFiles (State.tickView s id w v).tiles = tileFiles s.tiles ∧ feederFiles (State.tickView s id w v).feeders = feederFiles s.feeders := by
  unfold State.tickView
  simp
theorem foldl_setHolder_file (l : List (BitVec 4 × BitVec 5)) (t : Tile) :
    tileFile (l.foldl (fun (t : Tile) x => t.setHolder x.1 x.2) t) = tileFile t := by
  induction l generalizing t with
  | nil => rfl
  | cons a r ih => exact (ih _).trans rfl
@[simp] theorem State.endBerths_files (s : State) (id : Nat) : tileFiles (State.endBerths s id).tiles = tileFiles s.tiles ∧ feederFiles (State.endBerths s id).feeders = feederFiles s.feeders := by
  unfold State.endBerths
  dsimp only
  have h1 := foldl_files (fun (s : State) w => ((((s.tickPassage id w).tile id).berth w).views).foldl (fun s v => s.tickView id w v) (s.tickPassage id w))
    ((List.range 16).map (BitVec.ofNat 4)) (s.modTile id fun t => { t.holderNew.foldl (fun (t : Tile) x => t.setHolder x.1 x.2) t with holderNew := [] })
    fun s w => by
      have := foldl_files (fun (s : State) v => s.tickView id w v) (((s.tickPassage id w).tile id).berth w).views (s.tickPassage id w) fun s v => State.tickView_files ..
      exact ⟨this.1.trans (State.tickPassage_files ..).1, this.2.trans (State.tickPassage_files ..).2⟩
  refine ⟨h1.1.trans (tileFiles_modTile _ _ _ fun t => ?_), h1.2.trans rfl⟩
  exact tileFile_iff.mp (foldl_setHolder_file _ _)
@[simp] theorem State.giveWindow_files (s : State) (id : Nat) (w : BitVec 4) (h : Holder) : tileFiles (State.giveWindow s id w h).tiles = tileFiles s.tiles ∧ feederFiles (State.giveWindow s id w h).feeders = feederFiles s.feeders := by
  unfold State.giveWindow
  simp
@[simp] theorem State.takeWindow_files (s : State) (id : Nat) (w : BitVec 4) (h : Holder) (view : Bool) : tileFiles (State.takeWindow s id w h view).2.tiles = tileFiles s.tiles ∧ feederFiles (State.takeWindow s id w h view).2.feeders = feederFiles s.feeders := by
  unfold State.takeWindow
  dsimp only
  (repeat' split) <;> simp
@[simp] theorem State.offerPage_files (s : State) (p : PageMap) (h : Holder) (gaddr taker : Word) (view : Bool) : tileFiles (State.offerPage s p h gaddr taker view).2.tiles = tileFiles s.tiles ∧ feederFiles (State.offerPage s p h gaddr taker view).2.feeders = feederFiles s.feeders := by
  unfold State.offerPage
  (repeat' split) <;> simp
@[simp] theorem State.takePage_files (s : State) (p : PageMap) (h : Holder) (view told : Bool) : tileFiles ((s.takePage p h view told).2).tiles = tileFiles s.tiles ∧ feederFiles ((s.takePage p h view told).2).feeders = feederFiles s.feeders := by
  unfold State.takePage
  dsimp only
  (repeat' split) <;> simp
@[simp] theorem State.offerArrived_files (s : State) (r : CoreRef) (reg : Word) (view : Bool) : tileFiles (State.offerArrived s r reg view).tiles = tileFiles s.tiles ∧ feederFiles (State.offerArrived s r reg view).feeders = feederFiles s.feeders := by
  unfold State.offerArrived
  (repeat' split) <;> simp
@[simp] theorem State.release_files (s : State) (r : CoreRef) (x : Release) : tileFiles (State.release s r x).tiles = tileFiles s.tiles ∧ feederFiles (State.release s r x).feeders = feederFiles s.feeders := by
  unfold State.release
  split <;> simp
@[simp] theorem State.releaseSoon_files (s : State) (region : Region) (taker : Word) (view : Bool) : tileFiles (State.releaseSoon s region taker view).tiles = tileFiles s.tiles ∧ feederFiles (State.releaseSoon s region taker view).feeders = feederFiles s.feeders := by
  unfold State.releaseSoon
  simp
@[simp] theorem State.handWindow_files (s : State) (w : BitVec 4) (taker : Word) (view : Bool) : tileFiles (State.handWindow s w taker view).tiles = tileFiles s.tiles ∧ feederFiles (State.handWindow s w taker view).feeders = feederFiles s.feeders := by
  unfold State.handWindow
  split <;> simp
@[simp] theorem State.handPage_files (s : State) (i : Instr) (g taker : Word) (view : Bool) : tileFiles (State.handPage s i g taker view).tiles = tileFiles s.tiles ∧ feederFiles (State.handPage s i g taker view).feeders = feederFiles s.feeders := by
  unfold State.handPage
  simp
@[simp] theorem State.sleepTake_files (s : State) (reg : Region) (view : Bool) : tileFiles (State.sleepTake s reg view).tiles = tileFiles s.tiles ∧ feederFiles (State.sleepTake s reg view).feeders = feederFiles s.feeders := by
  unfold State.sleepTake
  simp
@[simp] theorem State.btakeWindow_files (s : State) (w : BitVec 4) (view : Bool) : tileFiles (State.btakeWindow s w view).tiles = tileFiles s.tiles ∧ feederFiles (State.btakeWindow s w view).feeders = feederFiles s.feeders := by
  unfold State.btakeWindow
  split
  · exact ⟨rfl, rfl⟩
  · dsimp only
    split
    · simp
    · split <;> rename_i h <;> have ht := congrArg (fun p : Take × State => (tileFiles p.2.tiles, feederFiles p.2.feeders)) h <;>
        simp only [State.takeWindow_files, Prod.mk.injEq] at ht
      · exact ⟨ht.1.symm, ht.2.symm⟩
      · simp [← ht.1, ← ht.2]
      · split <;> simp [← ht.1, ← ht.2]
@[simp] theorem State.btakePage_files (s : State) (i : Instr) (g : Word) (view : Bool) : tileFiles (State.btakePage s i g view).tiles = tileFiles s.tiles ∧ feederFiles (State.btakePage s i g view).feeders = feederFiles s.feeders := by
  unfold State.btakePage
  simp
@[simp] theorem State.raiseWaiting_files (s : State) (r : CoreRef) (cause : BitVec 8) (addr : Word) : tileFiles (State.raiseWaiting s r cause addr).tiles = tileFiles s.tiles ∧ feederFiles (State.raiseWaiting s r cause addr).feeders = feederFiles s.feeders := by
  unfold State.raiseWaiting
  simp
@[simp] theorem State.setIface_files (s : State) (x : IfaceState) : tileFiles (State.setIface s x).tiles = tileFiles s.tiles ∧ feederFiles (State.setIface s x).feeders = feederFiles s.feeders := by
  unfold State.setIface
  simp
@[simp] theorem State.dropEntries_files (s : State) (asid : BitVec 16) (page : Nat) : tileFiles (State.dropEntries s asid page).tiles = tileFiles s.tiles ∧ feederFiles (State.dropEntries s asid page).feeders = feederFiles s.feeders := by
  unfold State.dropEntries
  simp
@[simp] theorem State.refuse_files (s : State) (site : Site) (q : Req) (a : Ans) : tileFiles (State.refuse s site q a).tiles = tileFiles s.tiles ∧ feederFiles (State.refuse s site q a).feeders = feederFiles s.feeders := by
  unfold State.refuse
  simp
@[simp] theorem State.writeHome_files (s : State) (f : Nat) (bytes : List (Nat × Byte)) : tileFiles (State.writeHome s f bytes).tiles = tileFiles s.tiles ∧ feederFiles (State.writeHome s f bytes).feeders = feederFiles s.feeders := by
  unfold State.writeHome
  simp
@[simp] theorem State.sendCopy_files (s : State) (u : CopyWrite) (m : BitVec 13) : tileFiles (State.sendCopy s u m).tiles = tileFiles s.tiles ∧ feederFiles (State.sendCopy s u m).feeders = feederFiles s.feeders := by
  unfold State.sendCopy
  simp
@[simp] theorem State.storeDone_files (s : State) (keeper : CoreRef) (p : PageMap) (q : Req) : tileFiles (State.storeDone s keeper p q).tiles = tileFiles s.tiles ∧ feederFiles (State.storeDone s keeper p q).feeders = feederFiles s.feeders := by
  unfold State.storeDone
  dsimp only
  (repeat' split) <;> simp
@[simp] theorem State.copyHeard_files (s : State) (keeper : CoreRef) (num : BitVec 16) (ok : Bool) : tileFiles (State.copyHeard s keeper num ok).tiles = tileFiles s.tiles ∧ feederFiles (State.copyHeard s keeper num ok).feeders = feederFiles s.feeders := by
  unfold State.copyHeard
  dsimp only
  (repeat' split) <;> simp
@[simp] theorem State.performWeight_files (s : State) (f : Nat) (p b : PageMap) (q : Req) : tileFiles (State.performWeight s f p b q).tiles = tileFiles s.tiles ∧ feederFiles (State.performWeight s f p b q).feeders = feederFiles s.feeders := by
  unfold State.performWeight
  extract_lets site k h bad
  clear_value k
  cases q.kind <;> dsimp only <;> repeat' split
  all_goals first
    | (simp; done)
    | (simp only [State.answer_files]; split <;> simp; done)
    | (rename_i h'
       have hm := congrArg (fun p => (tileFiles (Prod.snd p).tiles, feederFiles (Prod.snd p).feeders)) h'
       simp only [State.takePage_files, State.offerPage_files, Prod.mk.injEq] at hm
       simp [← hm.1, ← hm.2]; done)
    | (rename_i h' _
       have hm := congrArg (fun p => (tileFiles (Prod.snd p).tiles, feederFiles (Prod.snd p).feeders)) h'
       simp only [State.takePage_files, State.offerPage_files, Prod.mk.injEq] at hm
       simp [← hm.1, ← hm.2]; done)
@[simp] theorem State.takeAsked_files (s : State) (id : Nat) (w : BitVec 4) (h : Holder) (view told : Bool) : tileFiles (State.takeAsked s id w h view told).2.tiles = tileFiles s.tiles ∧ feederFiles (State.takeAsked s id w h view told).2.feeders = feederFiles s.feeders := by
  unfold State.takeAsked
  repeat' (first | with_reducible rfl | (simp; done) | split | (refine foldl_files _ _ _ ?_; intro _ _) | simp | (rename_i heq; have hm := congrArg (fun p => ((Prod.snd p).tiles, (Prod.snd p).feeders)) heq; simp at hm; simp [← hm.1, ← hm.2]; done) | constructor)
@[simp] theorem State.performTile_files (s : State) (id : Nat) (w : BitVec 4) (p : PageMap) (q : Req) : tileFiles (State.performTile s id w p q).tiles = tileFiles s.tiles ∧ feederFiles (State.performTile s id w p q).feeders = feederFiles s.feeders := by
  unfold State.performTile
  dsimp only
  repeat' (first | with_reducible rfl | (simp; done) | split | (refine foldl_files _ _ _ ?_; intro _ _) | simp | (rename_i heq; have hm := congrArg (fun p => ((Prod.snd p).tiles, (Prod.snd p).feeders)) heq; simp at hm; simp [← hm.1, ← hm.2]; done) | constructor)
@[simp] theorem State.requestAtTile_files (s : State) (id : Nat) (q : Req) : tileFiles (State.requestAtTile s id q).tiles = tileFiles s.tiles ∧ feederFiles (State.requestAtTile s id q).feeders = feederFiles s.feeders := by
  unfold State.requestAtTile
  (repeat' split) <;> simp
@[simp] theorem State.setMigration_files (s : State) (m : Migration) : tileFiles (State.setMigration s m).tiles = tileFiles s.tiles ∧ feederFiles (State.setMigration s m).feeders = feederFiles s.feeders := by
  unfold State.setMigration
  simp
@[simp] theorem State.requestAtHome_files (s : State) (f : Nat) (from_ : Option Nat) (q : Req) : tileFiles (State.requestAtHome s f from_ q).tiles = tileFiles s.tiles ∧ feederFiles (State.requestAtHome s f from_ q).feeders = feederFiles s.feeders := by
  unfold State.requestAtHome
  (repeat' split) <;> simp
@[simp] theorem State.copyLine_files (s : State) (p : PageMap) (m : Migration) : tileFiles (State.copyLine s p m).tiles = tileFiles s.tiles ∧ feederFiles (State.copyLine s p m).feeders = feederFiles s.feeders := by
  unfold State.copyLine
  simp
@[simp] theorem State.movePage_files (s : State) (p : PageMap) (m : Migration) : tileFiles (State.movePage s p m).tiles = tileFiles s.tiles ∧ feederFiles (State.movePage s p m).feeders = feederFiles s.feeders := by
  unfold State.movePage
  split <;> simp
@[simp] theorem State.freePage_files (s : State) (f : Nat) : tileFiles (State.freePage s f).2.tiles = tileFiles s.tiles ∧ feederFiles (State.freePage s f).2.feeders = feederFiles s.feeders := by
  unfold State.freePage
  simp
@[simp] theorem State.closeMove_files (s : State) (page : Nat) : tileFiles (State.closeMove s page).tiles = tileFiles s.tiles ∧ feederFiles (State.closeMove s page).feeders = feederFiles s.feeders := by
  unfold State.closeMove
  split <;> simp
@[simp] theorem State.arriveAtHome_files (s : State) (f : Nat) (from_ : Option Nat) (q : Req) : tileFiles (State.arriveAtHome s f from_ q).tiles = tileFiles s.tiles ∧ feederFiles (State.arriveAtHome s f from_ q).feeders = feederFiles s.feeders := by
  unfold State.arriveAtHome
  split <;> simp
@[simp] theorem State.serve_files (s : State) (i : Iface) (q : Req) : tileFiles (State.serve s i q).tiles = tileFiles s.tiles ∧ feederFiles (State.serve s i q).feeders = feederFiles s.feeders := by
  unfold State.serve
  (repeat' split) <;> simp
@[simp] theorem State.letGo_files (s : State) (x : IfaceState) : tileFiles (State.letGo s x).tiles = tileFiles s.tiles ∧ feederFiles (State.letGo s x).feeders = feederFiles s.feeders := by
  unfold State.letGo
  simp
@[simp] theorem State.tellServing_files (s : State) (r : CoreRef) (n : Nat) (k : BitVec 32) : tileFiles (State.tellServing s r n k).tiles = tileFiles s.tiles ∧ feederFiles (State.tellServing s r n k).feeders = feederFiles s.feeders := by
  unfold State.tellServing
  simp
theorem State.ticketWord_both (s : State) (i : Instr) (k : ReqKind) (dst : Option Reg) (f : State → State)
    (hf : ∀ s, tileFiles (f s).tiles = tileFiles s.tiles ∧ feederFiles (f s).feeders = feederFiles s.feeders) :
    tileFiles (s.ticketWord i k dst f).tiles = tileFiles s.tiles ∧ feederFiles (s.ticketWord i k dst f).feeders = feederFiles s.feeders := by
  unfold State.ticketWord
  split <;> simp [hf]
@[simp] theorem State.remoteWord_files (s : State) (i : Instr) (a : Word) (n : Nat) (k : ReqKind) (dst : Option Reg) : tileFiles (State.remoteWord s i a n k dst).tiles = tileFiles s.tiles ∧ feederFiles (State.remoteWord s i a n k dst).feeders = feederFiles s.feeders := by
  unfold State.remoteWord
  simp
@[simp] theorem State.releaseDue_files (s : State) (r : CoreRef) : tileFiles (State.releaseDue s r).tiles = tileFiles s.tiles ∧ feederFiles (State.releaseDue s r).feeders = feederFiles s.feeders := by
  unfold State.releaseDue
  dsimp only
  (repeat' split) <;> simp
@[simp] theorem State.boardFerry_files (s : State) (r : CoreRef) : tileFiles (State.boardFerry s r).tiles = tileFiles s.tiles ∧ feederFiles (State.boardFerry s r).feeders = feederFiles s.feeders := by
  unfold State.boardFerry
  (repeat' split) <;> simp
@[simp] theorem State.leaveFerry_files (s : State) (r : CoreRef) (trap : Bool) : tileFiles (State.leaveFerry s r trap).tiles = tileFiles s.tiles ∧ feederFiles (State.leaveFerry s r trap).feeders = feederFiles s.feeders := by
  unfold State.leaveFerry
  simp
@[simp] theorem State.noteVote_files (s : State) (id : Nat) (ports : List Nat) (fs : List FlitBits) (out : FlitBits) : tileFiles (State.noteVote s id ports fs out).tiles = tileFiles s.tiles ∧ feederFiles (State.noteVote s id ports fs out).feeders = feederFiles s.feeders := by
  unfold State.noteVote
  dsimp only
  (repeat' split) <;> simp
@[simp] theorem State.ejectFlit_files (s : State) (id : Nat) (red : Option (BitVec 3)) (ejd : BitVec 4) (rfx : BitVec 3) (t : Nat) (f : FlitBits) : tileFiles (State.ejectFlit s id red ejd rfx t f).tiles = tileFiles s.tiles ∧ feederFiles (State.ejectFlit s id red ejd rfx t f).feeders = feederFiles s.feeders := by
  unfold State.ejectFlit
  simp
@[simp] theorem State.ejectNothing_files (s : State) (id : Nat) (except_ : Option (BitVec 4)) : tileFiles (State.ejectNothing s id except_).tiles = tileFiles s.tiles ∧ feederFiles (State.ejectNothing s id except_).feeders = feederFiles s.feeders := by
  unfold State.ejectNothing
  simp
@[simp] theorem State.sendStatic_files (s : State) (id n k : Nat) (f : Option Flit) : tileFiles (State.sendStatic s id n k f).tiles = tileFiles s.tiles ∧ feederFiles (State.sendStatic s id n k f).feeders = feederFiles s.feeders := by
  unfold State.sendStatic
  (repeat' split) <;> simp
@[simp] theorem State.feederFlits_files (s : State) (id : Nat) (row : BitVec 40) : tileFiles (State.feederFlits s id row).tiles = tileFiles s.tiles ∧ feederFiles (State.feederFlits s id row).feeders = feederFiles s.feeders := by
  unfold State.feederFlits
  dsimp only
  refine foldl_files _ _ _ fun s a => ?_
  split <;> simp
@[simp] theorem State.sendLinks_files (s : State) (tile n : Nat) (row : BitVec 40) (resultOn : Nat → Bool) (result : Flit) (input : Nat → Option Flit) : tileFiles (State.sendLinks s tile n row resultOn result input).tiles = tileFiles s.tiles ∧ feederFiles (State.sendLinks s tile n row resultOn result input).feeders = feederFiles s.feeders := by
  unfold State.sendLinks
  simp
@[simp] theorem State.ejectRow_files (s : State) (tile : Nat) (row : BitVec 40) (get : Nat → Flit) : tileFiles (State.ejectRow s tile row get).tiles = tileFiles s.tiles ∧ feederFiles (State.ejectRow s tile row get).feeders = feederFiles s.feeders := by
  unfold State.ejectRow
  simp
@[simp] theorem State.present_files (s : State) (k : PresentKind) : tileFiles (State.present s k).tiles = tileFiles s.tiles ∧ feederFiles (State.present s k).feeders = feederFiles s.feeders := by
  unfold State.present
  split <;> simp
@[simp] theorem State.setRecv_files (s : State) (site : Site) (l : List Packet) : tileFiles (State.setRecv s site l).tiles = tileFiles s.tiles ∧ feederFiles (State.setRecv s site l).feeders = feederFiles s.feeders := by
  unfold State.setRecv
  split <;> simp
theorem State.nextOut_files {s t : State} {site : Site} {p : Packet} (h : s.nextOut site = some (p, t)) :
    tileFiles t.tiles = tileFiles s.tiles ∧ feederFiles t.feeders = feederFiles s.feeders := by
  unfold State.nextOut at h
  dsimp only at h
  repeat' split at h
  all_goals first | (cases h; done) | (cases h; simp; done)
@[simp] theorem State.inject_files (s : State) (site : Site) : tileFiles (State.inject s site).tiles = tileFiles s.tiles ∧ feederFiles (State.inject s site).feeders = feederFiles s.feeders := by
  unfold State.inject
  dsimp only
  split
  · exact ⟨rfl, rfl⟩
  · split
    · exact ⟨rfl, rfl⟩
    · rename_i h
      have hm := State.nextOut_files h
      split
      · exact ⟨(State.noWay_files ..).1.trans hm.1, (State.noWay_files ..).2.trans hm.2⟩
      · refine ⟨Eq.trans ?_ hm.1, Eq.trans ?_ hm.2⟩ <;> simp
@[simp] theorem Tile.popFront_file (t : Tile) (d : DynBuf) :
    (Tile.popFront t d).worker.g = t.worker.g ∧ (Tile.popFront t d).worker.k = t.worker.k ∧ (Tile.popFront t d).worker.lt = t.worker.lt ∧ (Tile.popFront t d).worker.fflags = t.worker.fflags ∧ (Tile.popFront t d).stager.g = t.stager.g ∧ (Tile.popFront t d).stager.k = t.stager.k ∧ (Tile.popFront t d).stager.lt = t.stager.lt ∧ (Tile.popFront t d).stager.fflags = t.stager.fflags ∧ (Tile.popFront t d).v = t.v := by
  exact ⟨rfl, rfl, rfl, rfl, rfl, rfl, rfl, rfl, rfl⟩
@[simp] theorem State.routerNack_files (s : State) (id : Nat) (q : Req) : tileFiles (State.routerNack s id q).tiles = tileFiles s.tiles ∧ feederFiles (State.routerNack s id q).feeders = feederFiles s.feeders := by
  unfold State.routerNack
  simp
@[simp] theorem State.stopPacket_files (s : State) (id : Nat) (d : DynBuf) (why : Stop) : tileFiles (State.stopPacket s id d why).tiles = tileFiles s.tiles ∧ feederFiles (State.stopPacket s id d why).feeders = feederFiles s.feeders := by
  unfold State.stopPacket
  dsimp only
  (repeat' split) <;> simp
@[simp] theorem State.moveFlit_files (s : State) (id : Nat) (out : BitVec 3) (d : DynBuf) : tileFiles (State.moveFlit s id out d).tiles = tileFiles s.tiles ∧ feederFiles (State.moveFlit s id out d).feeders = feederFiles s.feeders := by
  unfold State.moveFlit
  repeat' (first | split | simp)
@[simp] theorem State.deliverMessage_files (s : State) (site : Site) (asid : BitVec 16) (cores : List CoreRef) (p : Packet) : tileFiles (State.deliverMessage s site asid cores p).tiles = tileFiles s.tiles ∧ feederFiles (State.deliverMessage s site asid cores p).feeders = feederFiles s.feeders := by
  unfold State.deliverMessage
  split
  · exact State.mcheck_files ..
  · have h := foldl_files (fun (s : State) r => s.soon (.tdrecvWake r))
      (cores.filter fun r => ((s.setRecv site (s.recvOf site ++ [p])).core r).waits.any fun w => match w.1 with | .tdrecv _ _ => true | _ => false).reverse
      (s.setRecv site (s.recvOf site ++ [p])) fun _ _ => ⟨rfl, rfl⟩
    dsimp only
    rw [(State.wakeAll_files ..).1, (State.wakeAll_files ..).2]
    exact ⟨h.1.trans (State.setRecv_files ..).1, h.2.trans (State.setRecv_files ..).2⟩
@[simp] theorem State.takePacket_files (s : State) (a : Nat) (p : Packet) (late : Nat) : tileFiles (State.takePacket s a p late).tiles = tileFiles s.tiles ∧ feederFiles (State.takePacket s a p late).feeders = feederFiles s.feeders := by
  unfold State.takePacket
  simp
@[simp] theorem State.pendWord_files (s : State) (d : Reg) (v : Word) (due : Nat) : tileFiles (State.pendWord s d v due).tiles = tileFiles s.tiles ∧ feederFiles (State.pendWord s d v due).feeders = feederFiles s.feeders := by
  unfold State.pendWord
  simp
@[simp] theorem State.lockPins_files (s : State) (asid : BitVec 16) (pages : List Nat) : tileFiles (State.lockPins s asid pages).tiles = tileFiles s.tiles ∧ feederFiles (State.lockPins s asid pages).feeders = feederFiles s.feeders := by
  unfold State.lockPins
  simp
@[simp] theorem State.bind_files (s : State) (img : Img) (q : BindAsk) (n : Nat) (crew : BitVec 16) (old : Option Slot) : tileFiles (State.bind s img q n crew old).tiles = tileFiles s.tiles ∧ feederFiles (State.bind s img q n crew old).feeders = feederFiles s.feeders := by
  unfold State.bind
  simp
@[simp] theorem State.startBind_files (s : State) (c : HostCmd) (q : BindAsk) (old : Option Slot) : tileFiles (State.startBind s c q old).tiles = tileFiles s.tiles ∧ feederFiles (State.startBind s c q old).feeders = feederFiles s.feeders := by
  unfold State.startBind
  dsimp only
  (repeat' split) <;> simp
@[simp] theorem State.unbind_files (s : State) (n : Nat) : tileFiles (State.unbind s n).tiles = tileFiles s.tiles ∧ feederFiles (State.unbind s n).feeders = feederFiles s.feeders := by
  unfold State.unbind
  simp
@[simp] theorem State.setHorizon_files (s : State) (n : Nat) (h : BitVec 16) : tileFiles (State.setHorizon s n h).tiles = tileFiles s.tiles ∧ feederFiles (State.setHorizon s n h).feeders = feederFiles s.feeders := by
  unfold State.setHorizon
  simp
@[simp] theorem State.takeSaved_files (s : State) (crew : BitVec 16) : tileFiles (State.takeSaved s crew).tiles = tileFiles s.tiles ∧ feederFiles (State.takeSaved s crew).feeders = feederFiles s.feeders := by
  unfold State.takeSaved
  simp
@[simp] theorem State.setAllow_files (s : State) (n a : Nat) : tileFiles (State.setAllow s n a).tiles = tileFiles s.tiles ∧ feederFiles (State.setAllow s n a).feeders = feederFiles s.feeders := by
  unfold State.setAllow
  simp
@[simp] theorem State.placeSlot_files (s : State) (n : Nat) (o : Nat × Nat) : tileFiles (State.placeSlot s n o).tiles = tileFiles s.tiles ∧ feederFiles (State.placeSlot s n o).feeders = feederFiles s.feeders := by
  have h1 : ∀ (l : List Nat) (t : State), tileFiles (l.foldl (fun s t => s.modTowline t fun l => { l with owner := some n }) t).tiles = tileFiles t.tiles ∧
      feederFiles (l.foldl (fun s t => s.modTowline t fun l => { l with owner := some n }) t).feeders = feederFiles t.feeders := fun l t =>
    foldl_files _ _ _ fun s t => ⟨rfl, rfl⟩
  unfold State.placeSlot
  simp only [State.afterFree_tiles, State.afterFree_feeders, State.setAllow_files, h1, State.modSlot_tiles, State.modSlot_feeders, and_self]
@[simp] theorem Core.inPlace_file (c now : Core) :
    (Core.inPlace c now).g = c.g ∧ (Core.inPlace c now).k = c.k ∧ (Core.inPlace c now).lt = c.lt ∧ (Core.inPlace c now).fflags = c.fflags := by
  exact ⟨rfl, rfl, rfl, rfl⟩
@[simp] theorem State.wipe_files (s : State) (ranges : List (Nat × Nat)) : tileFiles (State.wipe s ranges).tiles = tileFiles s.tiles ∧ feederFiles (State.wipe s ranges).feeders = feederFiles s.feeders := by
  unfold State.wipe
  simp
@[simp] theorem State.dealGroups_files (s : State) (fs : List Nat) (gs : List (BitVec 8 × BitVec 84 × List Receiver)) : tileFiles (State.dealGroups s fs gs).tiles = tileFiles s.tiles ∧ feederFiles (State.dealGroups s fs gs).feeders = feederFiles s.feeders := by
  unfold State.dealGroups
  repeat' (first | with_reducible rfl | (simp; done) | split | (refine foldl_files _ _ _ ?_; intro _ _) | simp | (rename_i heq; have hm := congrArg (fun p => ((Prod.snd p).tiles, (Prod.snd p).feeders)) heq; simp at hm; simp [← hm.1, ← hm.2]; done) | constructor)
@[simp] theorem Shift.cpu_file (m : Shift) (c : Core) :
    (Shift.cpu m c).g = c.g ∧ (Shift.cpu m c).k = c.k ∧ (Shift.cpu m c).lt = c.lt ∧ (Shift.cpu m c).fflags = c.fflags := by
  exact ⟨rfl, rfl, rfl, rfl⟩
@[simp] theorem State.offersHere_files (s : State) (n : Nat) : tileFiles (State.offersHere s n).tiles = tileFiles s.tiles ∧ feederFiles (State.offersHere s n).feeders = feederFiles s.feeders := by
  unfold State.offersHere
  simp
@[simp] theorem State.askAgain_files (s : State) (r : CoreRef) : tileFiles (State.askAgain s r).tiles = tileFiles s.tiles ∧ feederFiles (State.askAgain s r).feeders = feederFiles s.feeders := by
  unfold State.askAgain
  repeat' (first | with_reducible rfl | (simp; done) | split | (refine foldl_files _ _ _ ?_; intro _ _) | simp | (rename_i heq; have hm := congrArg (fun p => ((Prod.snd p).tiles, (Prod.snd p).feeders)) heq; simp at hm; simp [← hm.1, ← hm.2]; done) | constructor)
@[simp] theorem State.startAt_files (s : State) (n : Nat) (t0 : Word) : tileFiles (State.startAt s n t0).tiles = tileFiles s.tiles ∧ feederFiles (State.startAt s n t0).feeders = feederFiles s.feeders := by
  unfold State.startAt
  simp
@[simp] theorem State.nameStart_files (s : State) (n : Nat) : tileFiles (State.nameStart s n).tiles = tileFiles s.tiles ∧ feederFiles (State.nameStart s n).feeders = feederFiles s.feeders := by
  unfold State.nameStart
  simp
@[simp] theorem State.readyHeard_files (s : State) (n modIdx : Nat) (members : List Nat) : tileFiles (State.readyHeard s n modIdx members).tiles = tileFiles s.tiles ∧ feederFiles (State.readyHeard s n modIdx members).feeders = feederFiles s.feeders := by
  unfold State.readyHeard
  simp
@[simp] theorem State.reportReady_files (s : State) (n : Nat) : tileFiles (State.reportReady s n).tiles = tileFiles s.tiles ∧ feederFiles (State.reportReady s n).feeders = feederFiles s.feeders := by
  unfold State.reportReady
  simp
@[simp] theorem State.setTickets_files (s : State) (n : Nat) (l : List (Nat × BitVec 32 × BitVec 32)) : tileFiles (State.setTickets s n l).tiles = tileFiles s.tiles ∧ feederFiles (State.setTickets s n l).feeders = feederFiles s.feeders := by
  unfold State.setTickets
  simp
@[simp] theorem State.vacate_files (s : State) (n : Nat) : tileFiles (State.vacate s n).tiles = tileFiles s.tiles ∧ feederFiles (State.vacate s n).feeders = feederFiles s.feeders := by
  refine ⟨tileFiles_mapVals _ _ fun i t => ?_, feederFiles_mapVals _ _ fun i f => ?_⟩
  · split
    · exact ⟨rfl, rfl, rfl, rfl, rfl, rfl, rfl, rfl, rfl⟩
    · exact State.restWindows_file ..
  · dsimp only; split <;> simp
@[simp] theorem State.withSave_files (s : State) (n : Nat) : tileFiles (State.withSave s n).tiles = tileFiles s.tiles ∧ feederFiles (State.withSave s n).feeders = feederFiles s.feeders := by
  unfold State.withSave
  simp
@[simp] theorem State.drawnByHost_files (s : State) (n : Nat) (x : Slot) : tileFiles (State.drawnByHost s n x).tiles = tileFiles s.tiles ∧ feederFiles (State.drawnByHost s n x).feeders = feederFiles s.feeders := by
  unfold State.drawnByHost
  dsimp only
  (repeat' split) <;> simp
@[simp] theorem State.drawEnds_files (s : State) (n : Nat) : tileFiles (State.drawEnds s n).tiles = tileFiles s.tiles ∧ feederFiles (State.drawEnds s n).feeders = feederFiles s.feeders := by
  unfold State.drawEnds
  dsimp only
  (repeat' split) <;> simp
@[simp] theorem State.drawnHeard_files (s : State) (n modIdx : Nat) : tileFiles (State.drawnHeard s n modIdx).tiles = tileFiles s.tiles ∧ feederFiles (State.drawnHeard s n modIdx).feeders = feederFiles s.feeders := by
  unfold State.drawnHeard
  simp
@[simp] theorem State.abortDraw_files (s : State) (x : Slot) : tileFiles (State.abortDraw s x).tiles = tileFiles s.tiles ∧ feederFiles (State.abortDraw s x).feeders = feederFiles s.feeders := by
  unfold State.abortDraw
  (repeat' split) <;> simp
@[simp] theorem State.playBack_files (s : State) (u : Nat × List Byte × List Nat) : tileFiles (State.playBack s u).tiles = tileFiles s.tiles ∧ feederFiles (State.playBack s u).feeders = feederFiles s.feeders := by
  unfold State.playBack
  simp
@[simp] theorem State.takeSelection_files (s : State) (n : Nat) (e : BitVec 48) (q : Selection) : tileFiles (State.takeSelection s n e q).tiles = tileFiles s.tiles ∧ feederFiles (State.takeSelection s n e q).feeders = feederFiles s.feeders := by
  unfold State.takeSelection
  simp
@[simp] theorem State.without_files (s : State) (vs : List Nat) : tileFiles (State.without s vs).tiles = tileFiles s.tiles ∧ feederFiles (State.without s vs).feeders = feederFiles s.feeders := by
  unfold State.without
  simp
@[simp] theorem State.passFlight_files (s : State) (n : Nat) : tileFiles (State.passFlight s n).tiles = tileFiles s.tiles ∧ feederFiles (State.passFlight s n).feeders = feederFiles s.feeders := by
  unfold State.passFlight
  simp
@[simp] theorem State.passSlot_files (s : State) (n : Nat) : tileFiles (State.passSlot s n).tiles = tileFiles s.tiles ∧ feederFiles (State.passSlot s n).feeders = feederFiles s.feeders := by
  unfold State.passSlot
  dsimp only
  (repeat' split) <;> simp
@[simp] theorem State.raiseAllows_files (s : State) : tileFiles (State.raiseAllows s).tiles = tileFiles s.tiles ∧ feederFiles (State.raiseAllows s).feeders = feederFiles s.feeders := by
  unfold State.raiseAllows
  simp
@[simp] theorem State.planHold_files (s : State) (n : Nat) : tileFiles (State.planHold s n).tiles = tileFiles s.tiles ∧ feederFiles (State.planHold s n).feeders = feederFiles s.feeders := by
  unfold State.planHold
  dsimp only
  repeat' (first | with_reducible rfl | (simp; done) | split | (refine foldl_files _ _ _ ?_; intro _ _) | simp | (rename_i heq; have hm := congrArg (fun p => ((Prod.snd p).tiles, (Prod.snd p).feeders)) heq; simp at hm; simp [← hm.1, ← hm.2]; done) | constructor)
@[simp] theorem State.powerWarn_files (s : State) : tileFiles (State.powerWarn s).tiles = tileFiles s.tiles ∧ feederFiles (State.powerWarn s).feeders = feederFiles s.feeders := by
  unfold State.powerWarn
  repeat' (first | with_reducible rfl | (simp; done) | split | (refine foldl_files _ _ _ ?_; intro _ _) | simp | (rename_i heq; have hm := congrArg (fun p => ((Prod.snd p).tiles, (Prod.snd p).feeders)) heq; simp at hm; simp [← hm.1, ← hm.2]; done) | constructor)
@[simp] theorem State.limitHold_files (s : State) : tileFiles (State.limitHold s).tiles = tileFiles s.tiles ∧ feederFiles (State.limitHold s).feeders = feederFiles s.feeders := by
  unfold State.limitHold
  simp
@[simp] theorem State.sensorRecord_files (s : State) (x : Sensor) : tileFiles (State.sensorRecord s x).tiles = tileFiles s.tiles ∧ feederFiles (State.sensorRecord s x).feeders = feederFiles s.feeders := by
  unfold State.sensorRecord
  simp
@[simp] theorem State.regradeDraw_files (s : State) (n : Nat) : tileFiles (State.regradeDraw s n).tiles = tileFiles s.tiles ∧ feederFiles (State.regradeDraw s n).feeders = feederFiles s.feeders := by
  unfold State.regradeDraw
  simp
@[simp] theorem State.startRegrade_files (s : State) (rx ry : Nat) : tileFiles (State.startRegrade s rx ry).tiles = tileFiles s.tiles ∧ feederFiles (State.startRegrade s rx ry).feeders = feederFiles s.feeders := by
  unfold State.startRegrade
  simp
@[simp] theorem State.planVoltage_files (s : State) (rx ry : Nat) : tileFiles (State.planVoltage s rx ry).tiles = tileFiles s.tiles ∧ feederFiles (State.planVoltage s rx ry).feeders = feederFiles s.feeders := by
  unfold State.planVoltage
  simp
@[simp] theorem Core.shiftTime_file (by_ : Word) (c : Core) :
    (Core.shiftTime by_ c).g = c.g ∧ (Core.shiftTime by_ c).k = c.k ∧ (Core.shiftTime by_ c).lt = c.lt ∧ (Core.shiftTime by_ c).fflags = c.fflags := by
  exact ⟨rfl, rfl, rfl, rfl⟩
@[simp] theorem State.loadTime_files (s : State) (t : Word) :
    tileFiles (s.loadTime t).tiles = tileFiles s.tiles ∧ feederFiles (s.loadTime t).feeders = feederFiles s.feeders :=
  ⟨tileFiles_mapVals _ _ fun _ _ => ⟨rfl, rfl, rfl, rfl, rfl, rfl, rfl, rfl, rfl⟩,
   feederFiles_mapVals _ _ fun _ _ => coresFile_map _ _ fun _ => rfl⟩
@[simp] theorem State.bootStep_files (s : State) : tileFiles (State.bootStep s).tiles = tileFiles s.tiles ∧ feederFiles (State.bootStep s).feeders = feederFiles s.feeders := by
  unfold State.bootStep
  split <;> simp
@[simp] theorem State.railStep_files (s : State) : tileFiles (State.railStep s).tiles = tileFiles s.tiles ∧ feederFiles (State.railStep s).feeders = feederFiles s.feeders := by
  unfold State.railStep
  simp
@[simp] theorem State.trainStep_files (s : State) : tileFiles (State.trainStep s).tiles = tileFiles s.tiles ∧ feederFiles (State.trainStep s).feeders = feederFiles s.feeders := by
  unfold State.trainStep
  simp
@[simp] theorem State.railFault_files (s : State) (n : Nat) (rx ry : Nat) : tileFiles (State.railFault s n rx ry).tiles = tileFiles s.tiles ∧ feederFiles (State.railFault s n rx ry).feeders = feederFiles s.feeders := by
  unfold State.railFault
  simp
@[simp] theorem State.reroute_files (s : State) (ids : List Nat) : tileFiles (State.reroute s ids).tiles = tileFiles s.tiles ∧ feederFiles (State.reroute s ids).feeders = feederFiles s.feeders := by
  unfold State.reroute
  simp
@[simp] theorem State.loseTransit_files (s : State) (rx ry : Nat) : tileFiles (State.loseTransit s rx ry).tiles = tileFiles s.tiles ∧ feederFiles (State.loseTransit s rx ry).feeders = feederFiles s.feeders := by
  unfold State.loseTransit
  extract_lets ids hit src s1 s2 s3 s4
  have h2 : tileFiles s2.tiles = tileFiles s1.tiles ∧ feederFiles s2.feeders = feederFiles s1.feeders :=
    foldl_files _ _ _ fun s t => ⟨tileFiles_modTile _ _ _ fun _ => ⟨rfl, rfl, rfl, rfl, rfl, rfl, rfl, rfl, rfl⟩, rfl⟩
  have h3 : tileFiles s3.tiles = tileFiles s2.tiles ∧ feederFiles s3.feeders = feederFiles s2.feeders := State.reroute_files ..
  have h4 : tileFiles s4.tiles = tileFiles s3.tiles ∧ feederFiles s4.feeders = feederFiles s3.feeders := State.mcheck_files ..
  have h5 := foldl_files (fun (s : State) n => s.railFault n rx ry) hit s4 fun s n => State.railFault_files ..
  exact ⟨h5.1.trans (h4.1.trans (h3.1.trans h2.1)), h5.2.trans (h4.2.trans (h3.2.trans h2.2))⟩
@[simp] theorem State.spread_files (s : State) (i : Instr) : tileFiles (State.spread s i).tiles = tileFiles s.tiles ∧ feederFiles (State.spread s i).feeders = feederFiles s.feeders := by
  unfold State.spread
  simp
@[simp] theorem State.holdFor_files (s : State) (n modIdx : Nat) (why : HoldWhy) : tileFiles (State.holdFor s n modIdx why).tiles = tileFiles s.tiles ∧ feederFiles (State.holdFor s n modIdx why).feeders = feederFiles s.feeders := by
  unfold State.holdFor
  dsimp only
  repeat' (first | with_reducible rfl | (simp; done) | split | (refine foldl_files _ _ _ ?_; intro _ _) | simp | (rename_i heq; have hm := congrArg (fun p => ((Prod.snd p).tiles, (Prod.snd p).feeders)) heq; simp at hm; simp [← hm.1, ← hm.2]; done) | constructor)
@[simp] theorem State.dropFor_files (s : State) (n modIdx : Nat) (why : HoldWhy) : tileFiles (State.dropFor s n modIdx why).tiles = tileFiles s.tiles ∧ feederFiles (State.dropFor s n modIdx why).feeders = feederFiles s.feeders := by
  unfold State.dropFor
  split <;> simp
@[simp] theorem State.drawFor_files (s : State) (n : Nat) (why : DrawWhy) : tileFiles (State.drawFor s n why).tiles = tileFiles s.tiles ∧ feederFiles (State.drawFor s n why).feeders = feederFiles s.feeders := by
  unfold State.drawFor
  simp
@[simp] theorem State.warnFor_files (s : State) (n modIdx : Nat) (why : HoldWhy) : tileFiles (State.warnFor s n modIdx why).tiles = tileFiles s.tiles ∧ feederFiles (State.warnFor s n modIdx why).feeders = feederFiles s.feeders := by
  unfold State.warnFor
  simp
@[simp] theorem State.drawHeard_files (s : State) (tl n : Nat) (v : BitVec 48) (why : DrawWhy) (fault : Option (BitVec 8 × Word)) : tileFiles (State.drawHeard s tl n v why fault).tiles = tileFiles s.tiles ∧ feederFiles (State.drawHeard s tl n v why fault).feeders = feederFiles s.feeders := by
  unfold State.drawHeard
  simp
@[simp] theorem State.discardSaved_files (s : State) (v : SavedCrew) : tileFiles (State.discardSaved s v).tiles = tileFiles s.tiles ∧ feederFiles (State.discardSaved s v).feeders = feederFiles s.feeders := by
  unfold State.discardSaved
  simp
@[simp] theorem State.stepAfter_files (s : State) (tl : Nat) (out : Bool) (d : Nat) : tileFiles (State.stepAfter s tl out d).tiles = tileFiles s.tiles ∧ feederFiles (State.stepAfter s tl out d).feeders = feederFiles s.feeders := by
  unfold State.stepAfter
  simp
@[simp] theorem State.laneRecord_files (s : State) (tl lane : Nat) : tileFiles (State.laneRecord s tl lane).tiles = tileFiles s.tiles ∧ feederFiles (State.laneRecord s tl lane).feeders = feederFiles s.feeders := by
  unfold State.laneRecord
  simp
@[simp] theorem State.park_files (s : State) (tl : Nat) (out : Bool) (lane : Nat) : tileFiles (State.park s tl out lane).tiles = tileFiles s.tiles ∧ feederFiles (State.park s tl out lane).feeders = feederFiles s.feeders := by
  unfold State.park
  simp
@[simp] theorem State.findWeak_files (s : State) (tl : Nat) (out : Bool) (lane : Nat) : tileFiles (State.findWeak s tl out lane).tiles = tileFiles s.tiles ∧ feederFiles (State.findWeak s tl out lane).feeders = feederFiles s.feeders := by
  unfold State.findWeak
  simp
@[simp] theorem State.lanesOn_files (s : State) (tl : Nat) (out : Bool) (after : BitVec 5) : tileFiles (State.lanesOn s tl out after).tiles = tileFiles s.tiles ∧ feederFiles (State.lanesOn s tl out after).feeders = feederFiles s.feeders := by
  unfold State.lanesOn
  simp
@[simp] theorem State.walkStep_files (s : State) (tl : Nat) (out : Bool) (lane : Nat) : tileFiles (State.walkStep s tl out lane).tiles = tileFiles s.tiles ∧ feederFiles (State.walkStep s tl out lane).feeders = feederFiles s.feeders := by
  unfold State.walkStep
  simp
@[simp] theorem State.leaves_files (s : State) (tl : Nat) (f : Frame) : tileFiles (State.leaves s tl f).tiles = tileFiles s.tiles ∧ feederFiles (State.leaves s tl f).feeders = feederFiles s.feeders := by
  unfold State.leaves
  simp
@[simp] theorem State.towlineDown_files (s : State) (tl : Nat) (named : BitVec 12) : tileFiles (State.towlineDown s tl named).tiles = tileFiles s.tiles ∧ feederFiles (State.towlineDown s tl named).feeders = feederFiles s.feeders := by
  unfold State.towlineDown
  extract_lets x lost idle s1 s2 s3
  have h2 : tileFiles s2.tiles = tileFiles s1.tiles ∧ feederFiles s2.feeders = feederFiles s1.feeders := by simp [s2]
  have h3 : tileFiles s3.tiles = tileFiles s2.tiles ∧ feederFiles s3.feeders = feederFiles s2.feeders := by simp only [s3]; split <;> simp
  have h4 := foldl_files (fun (s : State) p => match Packet.req p with | some q => s.answer (.towline tl) q .nack | none => s) (lost ++ x.dynOut) s3
    fun s p => by split <;> simp
  exact ⟨h4.1.trans (h3.1.trans h2.1), h4.2.trans (h3.2.trans h2.2)⟩
@[simp] theorem State.portFault_files (s : State) (tl n : Nat) (cause : BitVec 8) : tileFiles (State.portFault s tl n cause).tiles = tileFiles s.tiles ∧ feederFiles (State.portFault s tl n cause).feeders = feederFiles s.feeders := by
  unfold State.portFault
  simp
@[simp] theorem State.retimeFlit_files (s : State) (tl n : Nat) (f : Frame) (port : BitVec 2) (offs : BitVec 4) (flit : Flit) : tileFiles (State.retimeFlit s tl n f port offs flit).tiles = tileFiles s.tiles ∧ feederFiles (State.retimeFlit s tl n f port offs flit).feeders = feederFiles s.feeders := by
  unfold State.retimeFlit
  simp
@[simp] theorem State.packetArrives_files (s : State) (tl : Nat) (p : Packet) : tileFiles (State.packetArrives s tl p).tiles = tileFiles s.tiles ∧ feederFiles (State.packetArrives s tl p).feeders = feederFiles s.feeders := by
  unfold State.packetArrives
  (repeat' split) <;> simp
@[simp] theorem State.takeStatics_files (s : State) (tl : Nat) (f : Frame) : tileFiles (State.takeStatics s tl f).tiles = tileFiles s.tiles ∧ feederFiles (State.takeStatics s tl f).feeders = feederFiles s.feeders := by
  unfold State.takeStatics
  split <;> simp
@[simp] theorem State.portRecord_files (s : State) (port off : Nat) : tileFiles (State.portRecord s port off).tiles = tileFiles s.tiles ∧ feederFiles (State.portRecord s port off).feeders = feederFiles s.feeders := by
  unfold State.portRecord
  simp
@[simp] theorem State.dropEntry_files (s : State) (q : Queue) : tileFiles (State.dropEntry s q).tiles = tileFiles s.tiles ∧ feederFiles (State.dropEntry s q).feeders = feederFiles s.feeders := by
  unfold State.dropEntry
  simp
@[simp] theorem State.acceptEntry_files (s : State) (q : Queue) (c : HostCmd) : tileFiles (State.acceptEntry s q c).tiles = tileFiles s.tiles ∧ feederFiles (State.acceptEntry s q c).feeders = feederFiles s.feeders := by
  unfold State.acceptEntry
  simp
@[simp] theorem State.writeLhctl_files (s : State) (port : Nat) (val : Word) : tileFiles (State.writeLhctl s port val).tiles = tileFiles s.tiles ∧ feederFiles (State.writeLhctl s port val).feeders = feederFiles s.feeders := by
  unfold State.writeLhctl
  simp
@[simp] theorem State.ringChanged_files (s : State) (port : Nat) : tileFiles (State.ringChanged s port).tiles = tileFiles s.tiles ∧ feederFiles (State.ringChanged s port).feeders = feederFiles s.feeders := by
  unfold State.ringChanged
  simp
@[simp] theorem State.copyOut_files (s : State) (i addr : Nat) : tileFiles (State.copyOut s i addr).tiles = tileFiles s.tiles ∧ feederFiles (State.copyOut s i addr).feeders = feederFiles s.feeders := by
  unfold State.copyOut
  simp
@[simp] theorem State.haltHolds_files (s : State) : tileFiles (State.haltHolds s).tiles = tileFiles s.tiles ∧ feederFiles (State.haltHolds s).feeders = feederFiles s.feeders := by
  unfold State.haltHolds
  dsimp only
  repeat' (first | with_reducible rfl | (simp; done) | split | (refine foldl_files _ _ _ ?_; intro _ _) | simp | (rename_i heq; have hm := congrArg (fun p => ((Prod.snd p).tiles, (Prod.snd p).feeders)) heq; simp at hm; simp [← hm.1, ← hm.2]; done) | constructor)
@[simp] theorem State.haltTold_files (s : State) (addr : Nat) (live : List Nat) : tileFiles (State.haltTold s addr live).tiles = tileFiles s.tiles ∧ feederFiles (State.haltTold s addr live).feeders = feederFiles s.feeders := by
  unfold State.haltTold
  simp
@[simp] theorem State.voteHalt_files (s : State) (addr : Nat) : tileFiles (State.voteHalt s addr).tiles = tileFiles s.tiles ∧ feederFiles (State.voteHalt s addr).feeders = feederFiles s.feeders := by
  unfold State.voteHalt
  simp
@[simp] theorem State.vote_files (s : State) (addr : Nat) (w : Nat → Option Word) : tileFiles (State.vote s addr w).tiles = tileFiles s.tiles ∧ feederFiles (State.vote s addr w).feeders = feederFiles s.feeders := by
  unfold State.vote
  dsimp only
  (repeat' split) <;> simp
@[simp] theorem State.reissueWalks_files (s : State) : tileFiles (State.reissueWalks s).tiles = tileFiles s.tiles ∧ feederFiles (State.reissueWalks s).feeders = feederFiles s.feeders := by
  unfold State.reissueWalks
  repeat' (first | with_reducible rfl | (simp; done) | split | (refine foldl_files _ _ _ ?_; intro _ _) | simp | (rename_i heq; have hm := congrArg (fun p => ((Prod.snd p).tiles, (Prod.snd p).feeders)) heq; simp at hm; simp [← hm.1, ← hm.2]; done) | constructor)
@[simp] theorem State.voteFail_files (s : State) (n addr : Nat) : tileFiles (State.voteFail s n addr).tiles = tileFiles s.tiles ∧ feederFiles (State.voteFail s n addr).feeders = feederFiles s.feeders := by
  unfold State.voteFail
  simp
@[simp] theorem State.deny_files (s : State) (c : HostCmd) (status : BitVec 8) (log : Nat) : tileFiles (State.deny s c status log).tiles = tileFiles s.tiles ∧ feederFiles (State.deny s c status log).feeders = feederFiles s.feeders := by
  unfold State.deny
  simp
theorem State.withBuffer_both (s : State) (c : HostCmd) (a : Word) (n : Nat) (f : State → State)
    (hf : ∀ s, tileFiles (f s).tiles = tileFiles s.tiles ∧ feederFiles (f s).feeders = feederFiles s.feeders) :
    tileFiles (s.withBuffer c a n f).tiles = tileFiles s.tiles ∧ feederFiles (s.withBuffer c a n f).feeders = feederFiles s.feeders := by
  unfold State.withBuffer
  repeat' split
  all_goals simp [hf]
@[simp] theorem State.hostWrite_files (s : State) (a : Word) (bs : List Byte) : tileFiles (State.hostWrite s a bs).tiles = tileFiles s.tiles ∧ feederFiles (State.hostWrite s a bs).feeders = feederFiles s.feeders := by
  unfold State.hostWrite
  simp
@[simp] theorem State.deleteQueue_files (s : State) (n : Nat) : tileFiles (State.deleteQueue s n).tiles = tileFiles s.tiles ∧ feederFiles (State.deleteQueue s n).feeders = feederFiles s.feeders := by
  unfold State.deleteQueue
  simp
@[simp] theorem State.aspaceNew_files (s : State) (c : HostCmd) (a : BitVec 16) : tileFiles (State.aspaceNew s c a).tiles = tileFiles s.tiles ∧ feederFiles (State.aspaceNew s c a).feeders = feederFiles s.feeders := by
  unfold State.aspaceNew
  simp
@[simp] theorem State.aspaceGone_files (s : State) (c : HostCmd) (a : BitVec 16) : tileFiles (State.aspaceGone s c a).tiles = tileFiles s.tiles ∧ feederFiles (State.aspaceGone s c a).feeders = feederFiles s.feeders := by
  unfold State.aspaceGone
  simp
@[simp] theorem State.aspace_files (s : State) (c : HostCmd) : tileFiles (State.aspace s c).tiles = tileFiles s.tiles ∧ feederFiles (State.aspace s c).feeders = feederFiles s.feeders := by
  unfold State.aspace
  split <;> simp
@[simp] theorem State.restPage_files (s : State) (p : PageMap) : tileFiles (State.restPage s p).tiles = tileFiles s.tiles ∧ feederFiles (State.restPage s p).feeders = feederFiles s.feeders := by
  unfold State.restPage
  simp
@[simp] theorem State.copyPut_files (s : State) (asid : BitVec 16) (a : Word) (bs : List Byte) : tileFiles (State.copyPut s asid a bs).tiles = tileFiles s.tiles ∧ feederFiles (State.copyPut s asid a bs).feeders = feederFiles s.feeders := by
  unfold State.copyPut
  split <;> simp
@[simp] theorem State.copyOutFar_files (s : State) (c : HostCmd) (n : Nat) : tileFiles (State.copyOutFar s c n).tiles = tileFiles s.tiles ∧ feederFiles (State.copyOutFar s c n).feeders = feederFiles s.feeders := by
  unfold State.copyOutFar
  split <;> simp
@[simp] theorem State.killCrew_files (s : State) (n : Nat) : tileFiles (State.killCrew s n).tiles = tileFiles s.tiles ∧ feederFiles (State.killCrew s n).feeders = feederFiles s.feeders := by
  unfold State.killCrew
  simp
@[simp] theorem State.startLanes_files (s : State) (t : Nat) : tileFiles (State.startLanes s t).tiles = tileFiles s.tiles ∧ feederFiles (State.startLanes s t).feeders = feederFiles s.feeders := by
  unfold State.startLanes
  simp
@[simp] theorem State.setPound_files (s : State) (p : Pound) : tileFiles (State.setPound s p).tiles = tileFiles s.tiles ∧ feederFiles (State.setPound s p).feeders = feederFiles s.feeders := by
  unfold State.setPound
  simp
@[simp] theorem State.markPounds_files (s : State) : tileFiles (State.markPounds s).tiles = tileFiles s.tiles ∧ feederFiles (State.markPounds s).feeders = feederFiles s.feeders := by
  unfold State.markPounds
  simp
@[simp] theorem State.poundNew_files (s : State) (c : HostCmd) : tileFiles (State.poundNew s c).tiles = tileFiles s.tiles ∧ feederFiles (State.poundNew s c).feeders = feederFiles s.feeders := by
  unfold State.poundNew
  dsimp only
  (repeat' split) <;> simp
@[simp] theorem State.poundAct_files (s : State) (c : HostCmd) : tileFiles (State.poundAct s c).tiles = tileFiles s.tiles ∧ feederFiles (State.poundAct s c).feeders = feederFiles s.feeders := by
  unfold State.poundAct
  dsimp only
  (repeat' split) <;> simp
@[simp] theorem State.pound_files (s : State) (c : HostCmd) : tileFiles (State.pound s c).tiles = tileFiles s.tiles ∧ feederFiles (State.pound s c).feeders = feederFiles s.feeders := by
  unfold State.pound
  simp
@[simp] theorem State.poundDone_files (s : State) (p : Pound) : tileFiles (State.poundDone s p).tiles = tileFiles s.tiles ∧ feederFiles (State.poundDone s p).feeders = feederFiles s.feeders := by
  unfold State.poundDone
  split <;> simp
@[simp] theorem State.unassigned_files (s : State) (c : HostCmd) : tileFiles (State.unassigned s c).tiles = tileFiles s.tiles ∧ feederFiles (State.unassigned s c).feeders = feederFiles s.feeders := by
  unfold State.unassigned
  simp
@[simp] theorem State.afterWords_files (s : State) (r : CoreRef) (ws : List BWord) (i : Nat) : tileFiles (State.afterWords s r ws i).tiles = tileFiles s.tiles ∧ feederFiles (State.afterWords s r ws i).feeders = feederFiles s.feeders := by
  unfold State.afterWords
  simp
@[simp] theorem State.failBundle_files (s : State) (r : CoreRef) (cause : BitVec 8) (addr : Word) : tileFiles (State.failBundle s r cause addr).tiles = tileFiles s.tiles ∧ feederFiles (State.failBundle s r cause addr).feeders = feederFiles s.feeders := by
  unfold State.failBundle
  simp
@[simp] theorem Core.pass_file (c : Core) (n : Nat) :
    (Core.pass c n).g = c.g ∧ (Core.pass c n).k = c.k ∧ (Core.pass c n).lt = c.lt ∧ (Core.pass c n).fflags = c.fflags := by
  unfold Core.pass
  dsimp only
  repeat' split
  all_goals exact ⟨rfl, rfl, rfl, rfl⟩
@[simp] theorem State.prepared_files (s : State) (r : CoreRef) (o : Op) : tileFiles (State.prepared s r o).tiles = tileFiles s.tiles ∧ feederFiles (State.prepared s r o).feeders = feederFiles s.feeders := by
  unfold State.prepared
  simp
@[simp] theorem State.settled_files (s : State) : tileFiles (State.settled s).tiles = tileFiles s.tiles ∧ feederFiles (State.settled s).feeders = feederFiles s.feeders := by
  unfold State.settled
  simp
@[simp] theorem Core.begun_file (c : Core) (ws : List BWord) (ops : List Op) :
    (Core.begun c ws ops).g = c.g ∧ (Core.begun c ws ops).k = c.k ∧ (Core.begun c ws ops).lt = c.lt ∧ (Core.begun c ws ops).fflags = c.fflags := by
  unfold Core.begun
  simp
@[simp] theorem Core.ended_file (c : Core) :
    (Core.ended c).g = c.g ∧ (Core.ended c).k = c.k ∧ (Core.ended c).lt = c.lt ∧ (Core.ended c).fflags = c.fflags := by
  exact ⟨rfl, rfl, rfl, rfl⟩
@[simp] theorem State.undone_files (before : State) (r : CoreRef) (after : Core) (cause : BitVec 8) (addr : Word) : tileFiles (State.undone before r after cause addr).tiles = tileFiles before.tiles ∧ feederFiles (State.undone before r after cause addr).feeders = feederFiles before.feeders := by
  unfold State.undone
  split <;> simp
@[simp] theorem State.stoodAt_files (before : State) (r : CoreRef) (after : Core) : tileFiles (State.stoodAt before r after).tiles = tileFiles before.tiles ∧ feederFiles (State.stoodAt before r after).feeders = feederFiles before.feeders := by
  unfold State.stoodAt
  simp
@[simp] theorem State.commitTile_files (s : State) (id : Nat) (owner : Option Bool) : tileFiles (State.commitTile s id owner).tiles = tileFiles s.tiles ∧ feederFiles (State.commitTile s id owner).feeders = feederFiles s.feeders := by
  unfold State.commitTile
  simp
@[simp] theorem State.commitFeeder_files (s : State) (f c : Nat) : tileFiles (State.commitFeeder s f c).tiles = tileFiles s.tiles ∧ feederFiles (State.commitFeeder s f c).feeders = feederFiles s.feeders := by
  unfold State.commitFeeder
  simp
@[simp] theorem Core.ticked_file (c : Core) :
    (Core.ticked c).g = c.g ∧ (Core.ticked c).k = c.k ∧ (Core.ticked c).lt = c.lt ∧ (Core.ticked c).fflags = c.fflags := by
  exact ⟨rfl, rfl, rfl, rfl⟩
@[simp] theorem State.coreBegin_files (s : State) (r : CoreRef) : tileFiles (State.coreBegin s r).tiles = tileFiles s.tiles ∧ feederFiles (State.coreBegin s r).feeders = feederFiles s.feeders := by
  unfold State.coreBegin
  dsimp only
  (repeat' split) <;> simp
@[simp] theorem State.takeTrap_files (s : State) (r : CoreRef) (cause : BitVec 8) (addr : Word) : tileFiles (State.takeTrap s r cause addr).tiles = tileFiles s.tiles ∧ feederFiles (State.takeTrap s r cause addr).feeders = feederFiles s.feeders := by
  unfold State.takeTrap
  dsimp only
  (repeat' split) <;> simp
@[simp] theorem State.settle_files (s : State) (r : CoreRef) : tileFiles (State.settle s r).tiles = tileFiles s.tiles ∧ feederFiles (State.settle s r).feeders = feederFiles s.feeders := by
  unfold State.settle
  simp
@[simp] theorem State.beginCycle_files (s : State) : tileFiles (State.beginCycle s).tiles = tileFiles s.tiles ∧ feederFiles (State.beginCycle s).feeders = feederFiles s.feeders := by
  unfold State.beginCycle
  simp
@[simp] theorem State.listUnits_files (s : State) : tileFiles (State.listUnits s).tiles = tileFiles s.tiles ∧ feederFiles (State.listUnits s).feeders = feederFiles s.feeders := by
  unfold State.listUnits
  simp
@[simp] theorem State.tileEngines_files (s : State) (id : Nat) : tileFiles (State.tileEngines s id).tiles = tileFiles s.tiles ∧ feederFiles (State.tileEngines s id).feeders = feederFiles s.feeders := by
  unfold State.tileEngines
  simp
@[simp] theorem State.feederEngines_files (s : State) (f : Nat) : tileFiles (State.feederEngines s f).tiles = tileFiles s.tiles ∧ feederFiles (State.feederEngines s f).feeders = feederFiles s.feeders := by
  unfold State.feederEngines
  simp
@[simp] theorem State.sluiceOver_files (s : State) (cores : List CoreRef) (upd : List SlUpd) (sl : BitVec 4) : tileFiles (State.sluiceOver s cores upd sl).tiles = tileFiles s.tiles ∧ feederFiles (State.sluiceOver s cores upd sl).feeders = feederFiles s.feeders := by
  unfold State.sluiceOver
  repeat' (first | with_reducible rfl | (simp; done) | split | (refine foldl_files _ _ _ ?_; intro _ _) | simp | (rename_i heq; have hm := congrArg (fun p => ((Prod.snd p).tiles, (Prod.snd p).feeders)) heq; simp at hm; simp [← hm.1, ← hm.2]; done) | constructor)
@[simp] theorem Tile.ended_file (t : Tile) (live timed : Bool) (runs : Bool → Bool) :
    (Tile.ended t live timed runs).worker.g = t.worker.g ∧ (Tile.ended t live timed runs).worker.k = t.worker.k ∧ (Tile.ended t live timed runs).worker.lt = t.worker.lt ∧ (Tile.ended t live timed runs).worker.fflags = t.worker.fflags ∧ (Tile.ended t live timed runs).stager.g = t.stager.g ∧ (Tile.ended t live timed runs).stager.k = t.stager.k ∧ (Tile.ended t live timed runs).stager.lt = t.stager.lt ∧ (Tile.ended t live timed runs).stager.fflags = t.stager.fflags ∧ (Tile.ended t live timed runs).v = t.v := by
  unfold Tile.ended
  (repeat' split) <;> simp
@[simp] theorem State.tileEnd_files (s : State) (id : Nat) : tileFiles (State.tileEnd s id).tiles = tileFiles s.tiles ∧ feederFiles (State.tileEnd s id).feeders = feederFiles s.feeders := by
  unfold State.tileEnd
  simp
@[simp] theorem Feeder.ended_file (f : Feeder) (live : Bool) (timed : Nat → Bool) :
    coresFile (Feeder.ended f live timed).cores = coresFile f.cores := by
  unfold Feeder.ended
  simp
@[simp] theorem State.feederEnd_files (s : State) (f : Nat) : tileFiles (State.feederEnd s f).tiles = tileFiles s.tiles ∧ feederFiles (State.feederEnd s f).feeders = feederFiles s.feeders := by
  unfold State.feederEnd
  simp
@[simp] theorem readyCore_file (c : Core) (timed : Bool) :
    (readyCore c timed).g = c.g ∧ (readyCore c timed).k = c.k ∧ (readyCore c timed).lt = c.lt ∧ (readyCore c timed).fflags = c.fflags := by
  exact ⟨rfl, rfl, rfl, rfl⟩
@[simp] theorem State.readyFor_files (s : State) (r : CoreRef) (timed : Bool) : tileFiles (State.readyFor s r timed).tiles = tileFiles s.tiles ∧ feederFiles (State.readyFor s r timed).feeders = feederFiles s.feeders := by
  unfold State.readyFor
  split <;> simp
@[simp] theorem State.placeWord_files (s : State) (w : Word) (i : Option Instr) : tileFiles (State.placeWord s w i).tiles = tileFiles s.tiles ∧ feederFiles (State.placeWord s w i).feeders = feederFiles s.feeders := by
  unfold State.placeWord
  simp
@[simp] theorem State.withFetchWord_files (s : State) (_nbits w : Nat) : tileFiles (State.withFetchWord s _nbits w).tiles = tileFiles s.tiles ∧ feederFiles (State.withFetchWord s _nbits w).feeders = feederFiles s.feeders := by
  unfold State.withFetchWord
  simp
@[simp] theorem State.spillTile_files (s : State) (id : Nat) : tileFiles (s.spillTile id).tiles = tileFiles s.tiles ∧ feederFiles (s.spillTile id).feeders = feederFiles s.feeders := by
  unfold State.spillTile
  dsimp only
  refine ⟨?_, ?_⟩
  · refine (foldl_tileFiles _ _ _ fun s l => ?_).trans (tileFiles_modTile _ _ _ fun _ => ⟨rfl, rfl, rfl, rfl, rfl, rfl, rfl, rfl, rfl⟩)
    split
    · exact tileFiles_modTile _ _ _ fun _ => ⟨rfl, rfl, rfl, rfl, rfl, rfl, rfl, rfl, rfl⟩
    · rfl
  · refine (foldl_feederFiles _ _ _ fun s l => ?_).trans rfl
    split <;> rfl
@[simp] theorem State.unspillTile_files (s : State) (id : Nat) : tileFiles (s.unspillTile id).tiles = tileFiles s.tiles ∧ feederFiles (s.unspillTile id).feeders = feederFiles s.feeders := by
  unfold State.unspillTile
  dsimp only
  refine ⟨?_, ?_⟩
  · refine (foldl_tileFiles _ _ _ fun s e => ?_).trans (tileFiles_modTile _ _ _ fun _ => ⟨rfl, rfl, rfl, rfl, rfl, rfl, rfl, rfl, rfl⟩)
    split
    · exact tileFiles_modTile _ _ _ fun _ => ⟨rfl, rfl, rfl, rfl, rfl, rfl, rfl, rfl, rfl⟩
    · split
      · exact tileFiles_modTile _ _ _ fun _ => ⟨rfl, rfl, rfl, rfl, rfl, rfl, rfl, rfl, rfl⟩
      · rfl
  · refine (foldl_feederFiles _ _ _ fun s e => ?_).trans rfl
    split
    · rfl
    · split <;> rfl
@[simp] theorem State.clearDirty_files (s : State) (x : Slot) : tileFiles (s.clearDirty x).tiles = tileFiles s.tiles ∧ feederFiles (s.clearDirty x).feeders = feederFiles s.feeders := by
  unfold State.clearDirty
  have h1 := foldl_files (fun (s : State) t => s.modTile t fun t => { t with dirtymask := 0, dirtylog := Vector.replicate 64 0 }) x.tiles s
    fun s t => ⟨tileFiles_modTile _ _ _ fun _ => ⟨rfl, rfl, rfl, rfl, rfl, rfl, rfl, rfl, rfl⟩, rfl⟩
  have h2 := foldl_files (fun (s : State) f => s.modFeeder f fun f =>
      { f with dirtymask := Vector.replicate 4 0, dirtylog := Vector.replicate 4 (Vector.replicate 64 0) }) x.feeders
    (x.tiles.foldl (fun s t => s.modTile t fun t => { t with dirtymask := 0, dirtylog := Vector.replicate 64 0 }) s)
    fun s f => ⟨rfl, feederFiles_modFeeder _ _ _ fun _ => rfl⟩
  exact ⟨h2.1.trans h1.1, h2.2.trans h1.2⟩
theorem State.forCrew_files (s : State) (crew : BitVec 16) (f : State → Nat → State) (hf : ∀ s n, tileFiles (f s n).tiles = tileFiles s.tiles ∧ feederFiles (f s n).feeders = feederFiles s.feeders) : tileFiles (s.forCrew crew f).tiles = tileFiles s.tiles ∧ feederFiles (s.forCrew crew f).feeders = feederFiles s.feeders := by
  unfold State.forCrew
  split
  · exact hf _ _
  · exact ⟨rfl, rfl⟩
@[simp] theorem State.heed_files (s : State) (tl : Nat) (m : Notice) : tileFiles (s.heed tl m).tiles = tileFiles s.tiles ∧ feederFiles (s.heed tl m).feeders = feederFiles s.feeders := by
  unfold State.heed
  split <;> first | (simp; done) | (refine State.forCrew_files _ _ _ fun s n => ?_; simp; done) | (split <;> simp; done)
@[simp] theorem State.takeNotice_files (s : State) (tl : Nat) (m : Notice) : tileFiles (s.takeNotice tl m).tiles = tileFiles s.tiles ∧ feederFiles (s.takeNotice tl m).feeders = feederFiles s.feeders := by
  unfold State.takeNotice
  split <;> simp
@[simp] theorem State.lostTwice_files (s : State) (tl : Nat) (fr : Frame) : tileFiles (s.lostTwice tl fr).tiles = tileFiles s.tiles ∧ feederFiles (s.lostTwice tl fr).feeders = feederFiles s.feeders := by
  unfold State.lostTwice
  extract_lets static told s1
  have h1 : tileFiles s1.tiles = tileFiles s.tiles ∧ feederFiles s1.feeders = feederFiles s.feeders := by
    simp only [s1]; (repeat' split) <;> simp
  have h2 := foldl_files (fun (s : State) crew => s.forCrew crew fun s n => s.portFault tl n Cause.late) told.eraseDups s1
    fun s a => State.forCrew_files _ _ _ fun s n => by simp
  exact ⟨h2.1.trans h1.1, h2.2.trans h1.2⟩
end Sys2Proof.Machine
end

