-- ==== Sys2Proof/Laws/MeaningFile.lean ====
section
/-! SUPPORT. The meanings that write no register of a core's file at once (a word's results land later). -/

set_option linter.unusedTactic false
set_option linter.unreachableTactic false

namespace Sys2Proof.Machine
/-- An answer that, if it is a next state, has the registers of `s`. -/
def FileKept (s : State) (x : Result) : Prop := ∀ t, x = .next t → tileFiles t.tiles = tileFiles s.tiles ∧ feederFiles t.feeders = feederFiles s.feeders
theorem fileKept_done {s t : State} (h : tileFiles t.tiles = tileFiles s.tiles ∧ feederFiles t.feeders = feederFiles s.feeders) :
    FileKept s (done t) := fun _ e => by cases e; exact h
theorem fileKept_onUnit {s t : State} {ok : Bool} (h : tileFiles t.tiles = tileFiles s.tiles ∧ feederFiles t.feeders = feederFiles s.feeders) :
    FileKept s (onUnit ok t) := fun _ e => by
  unfold onUnit at e
  split at e <;> cases e
  exact h
theorem fileKept_guarded {i : Instr} {s : State} {f : State → State}
    (h : ∀ s, tileFiles (f s).tiles = tileFiles s.tiles ∧ feederFiles (f s).feeders = feederFiles s.feeders) : FileKept s (guarded i s f) := fun t e => by
  unfold guarded done at e
  split at e
  · cases e; exact h s
  · split at e <;> cases e
    · exact State.raise_files ..
    · exact h s
theorem execBra_files (tgt : BitVec 16) (s : State) : FileKept s (execBra tgt s) := by
  refine fileKept_guarded fun s => ?_
  simp
theorem execBcc_files (c : BccCond) (a b : Reg) (tgt : BitVec 16) (s : State) : FileKept s (execBcc c a b tgt s) := by
  refine fileKept_guarded fun s => ?_
  simp
theorem execBpr_files (c : BprCond) (k : KReg) (tgt : BitVec 16) (s : State) : FileKept s (execBpr c k tgt s) := by
  refine fileKept_guarded fun s => ?_
  simp
theorem execJmp_files (a : Reg) (s : State) : FileKept s (execJmp a s) := by
  refine fileKept_guarded fun s => ?_
  simp
theorem execJmpLink_files (d a : Reg) (s : State) : FileKept s (execJmpLink d a s) := by
  refine fileKept_guarded fun s => ?_
  simp
theorem execCall_files (a : Reg) (tgt : BitVec 16) (s : State) : FileKept s (execCall a tgt s) := by
  refine fileKept_guarded fun s => ?_
  simp
theorem execRet_files (a : Reg) (s : State) : FileKept s (execRet a s) := by
  refine fileKept_guarded fun s => ?_
  simp
theorem execLoop_files (a : Reg) (tgt : BitVec 16) (s : State) : FileKept s (execLoop a tgt s) := by
  refine fileKept_guarded fun s => ?_
  simp
theorem execLoops_files (p : PReg) (dim : BitVec 4) (tgt : BitVec 16) (s : State) : FileKept s (execLoops p dim tgt s) := by
  refine fileKept_guarded fun s => ?_
  simp
theorem execHalt_files (s : State) : FileKept s (execHalt s) := by
  refine fileKept_guarded fun s => ?_
  simp
theorem execTrap_files (imm : BitVec 32) (s : State) : FileKept s (execTrap imm s) := by
  refine fileKept_guarded fun s => ?_
  simp
theorem execBreakTrap_files (imm : BitVec 32) (s : State) : FileKept s (execBreakTrap imm s) := by
  refine fileKept_guarded fun s => ?_
  simp
theorem execEret_files (s : State) : FileKept s (execEret s) := by
  refine fileKept_guarded fun s => ?_
  simp
theorem execWaiti_files (s : State) : FileKept s (execWaiti s) := by
  refine fileKept_guarded fun s => ?_
  simp
theorem execWaitv_files (a : Reg) (imm : BitVec 16) (s : State) : FileKept s (execWaitv a imm s) := by
  refine fileKept_guarded fun s => ?_
  simp
theorem execPhase_files (level : BitVec 2) (s : State) : FileKept s (execPhase level s) := by
  refine fileKept_guarded fun s => ?_
  simp
theorem execSize_files (a : Reg) (cls : BitVec 3) (s : State) : FileKept s (execSize a cls s) := by
  refine fileKept_guarded fun s => ?_
  split <;> simp
theorem execMarkp_files (s : State) : FileKept s (execMarkp s) := by
  refine fileKept_guarded fun s => ?_
  split <;> simp
theorem execSlpost_files (sl : BitVec 4) (n : BitVec 15) (s : State) : FileKept s (execSlpost sl n s) := by
  refine fileKept_guarded fun s => ?_
  simp
theorem execSlwait_files (sl : BitVec 4) (n : BitVec 15) (s : State) : FileKept s (execSlwait sl n s) := by
  refine fileKept_guarded fun s => ?_
  simp
theorem execSlwaitProceed_files (core : CoreRef) (s : State) : FileKept s (execSlwaitProceed core s) := by
  refine fileKept_onUnit ?_
  split <;> simp
theorem execSlset_files (sl : BitVec 4) (a : Reg) (imm : BitVec 16) (s : State) : FileKept s (execSlset sl a imm s) := by
  refine fileKept_guarded fun s => ?_
  split <;> simp
theorem execSlget_files (d : Reg) (sl : BitVec 4) (s : State) : FileKept s (execSlget d sl s) := by
  refine fileKept_guarded fun s => ?_
  simp
theorem execWaitvExpire_files (core : CoreRef) (s : State) : FileKept s (execWaitvExpire core s) := by
  refine fileKept_onUnit ?_
  simp
theorem execPhaseWake_files (core : CoreRef) (s : State) : FileKept s (execPhaseWake core s) := by
  refine fileKept_onUnit ?_
  simp
theorem execWaitiWake_files (core : CoreRef) (s : State) : FileKept s (execWaitiWake core s) := by
  refine fileKept_onUnit ?_
  simp
theorem execPhaseCheckTimeout_files (crew : BitVec 16) (level : BitVec 2) (count : BitVec 48) (s : State) : FileKept s (execPhaseCheckTimeout crew level count s) := by
  refine fileKept_done ?_
  dsimp only
  (repeat' split) <;> simp
theorem execNop_files (s : State) : FileKept s (execNop s) := by
  refine fileKept_guarded fun s => ?_
  simp
theorem execSysrd_files (d : Reg) (n : BitVec 12) (s : State) : FileKept s (execSysrd d n s) := by
  refine fileKept_guarded fun s => ?_
  simp
theorem execSyswr_files (n : BitVec 12) (a : Reg) (s : State) : FileKept s (execSyswr n a s) := by
  refine fileKept_guarded fun s => ?_
  simp
theorem execFflagsWrite_files (a : Reg) (s : State) : FileKept s (execFflagsWrite a s) := by
  refine fileKept_guarded fun s => ?_
  simp
theorem execCvmodeWrite_files (a : Reg) (s : State) : FileKept s (execCvmodeWrite a s) := by
  refine fileKept_guarded fun s => ?_
  simp
theorem execVotelogClear_files (a : Reg) (s : State) : FileKept s (execVotelogClear a s) := by
  refine fileKept_guarded fun s => ?_
  simp
theorem execEjflagsClear_files (a : Reg) (s : State) : FileKept s (execEjflagsClear a s) := by
  refine fileKept_guarded fun s => ?_
  simp
theorem execWindescWrite_files (half : BitVec 5) (a : Reg) (s : State) : FileKept s (execWindescWrite half a s) := by
  refine fileKept_guarded fun s => ?_
  simp
theorem execTapcfgWrite_files (i : BitVec 3) (a : Reg) (s : State) : FileKept s (execTapcfgWrite i a s) := by
  refine fileKept_guarded fun s => ?_
  simp
theorem execArrmapWrite_files (i : BitVec 3) (a : Reg) (s : State) : FileKept s (execArrmapWrite i a s) := by
  refine fileKept_guarded fun s => ?_
  simp
theorem execRfmtWrite_files (i : BitVec 3) (a : Reg) (s : State) : FileKept s (execRfmtWrite i a s) := by
  refine fileKept_guarded fun s => ?_
  simp
theorem execEjdescWrite_files (i : BitVec 4) (a : Reg) (s : State) : FileKept s (execEjdescWrite i a s) := by
  refine fileKept_guarded fun s => ?_
  simp
theorem execTej_files (j : BitVec 4) (a : Reg) (s : State) : FileKept s (execTej j a s) := by
  refine fileKept_guarded fun s => ?_
  simp
theorem execRtabWrite_files (half : BitVec 9) (a : Reg) (s : State) : FileKept s (execRtabWrite half a s) := by
  refine fileKept_guarded fun s => ?_
  simp
theorem execTrtab_files (e : BitVec 8) (a b : Reg) (s : State) : FileKept s (execTrtab e a b s) := by
  refine fileKept_guarded fun s => ?_
  simp
theorem arith2_files (i : Instr) (s : State) (ty : VTy) (sat : Bool) (f : BitVec 2) (vd va : Reg) (b : VSrc) (k : KReg) (fp : BitVec 3 → Num → Num → Num × BitVec 7) (int : Int → Int → Int) : FileKept s (arith2 i s ty sat f vd va b k fp int) := by
  refine fileKept_guarded fun s => ?_
  simp
theorem arith3_files (i : Instr) (s : State) (ty : VTy) (sat : Bool) (f : BitVec 2) (vd va vb vc : Reg) (k : KReg) (minus : Bool) : FileKept s (arith3 i s ty sat f vd va vb vc k minus) := by
  refine fileKept_guarded fun s => ?_
  simp
theorem execVadd_files (ty : VTy) (sat : Bool) (fold : BitVec 2) (vd va : Reg) (b : VSrc) (k : KReg) (s : State) : FileKept s (execVadd ty sat fold vd va b k s) :=
  arith2_files _ _ _ _ _ _ _ _ _ _ _
theorem execVsub_files (ty : VTy) (sat : Bool) (fold : BitVec 2) (vd va : Reg) (b : VSrc) (k : KReg) (s : State) : FileKept s (execVsub ty sat fold vd va b k s) :=
  arith2_files _ _ _ _ _ _ _ _ _ _ _
theorem execVmul_files (ty : VTy) (sat : Bool) (fold : BitVec 2) (vd va : Reg) (b : VSrc) (k : KReg) (s : State) : FileKept s (execVmul ty sat fold vd va b k s) :=
  arith2_files _ _ _ _ _ _ _ _ _ _ _
theorem execVfma_files (ty : VTy) (sat : Bool) (fold : BitVec 2) (vd va vb vc : Reg) (k : KReg) (s : State) : FileKept s (execVfma ty sat fold vd va vb vc k s) :=
  arith3_files _ _ _ _ _ _ _ _ _ _ _
theorem execVfms_files (ty : VTy) (sat : Bool) (fold : BitVec 2) (vd va vb vc : Reg) (k : KReg) (s : State) : FileKept s (execVfms ty sat fold vd va vb vc k s) :=
  arith3_files _ _ _ _ _ _ _ _ _ _ _
theorem execVmin_files (ty : VTy) (fold : BitVec 2) (vd va : Reg) (b : VSrc) (k : KReg) (s : State) : FileKept s (execVmin ty fold vd va b k s) :=
  arith2_files _ _ _ _ _ _ _ _ _ _ _
theorem execVmax_files (ty : VTy) (fold : BitVec 2) (vd va : Reg) (b : VSrc) (k : KReg) (s : State) : FileKept s (execVmax ty fold vd va b k s) :=
  arith2_files _ _ _ _ _ _ _ _ _ _ _
theorem execVabs_files (ty : VTy) (sat : Bool) (fold : BitVec 2) (vd va : Reg) (k : KReg) (s : State) : FileKept s (execVabs ty sat fold vd va k s) := by
  refine fileKept_guarded fun s => ?_
  simp
theorem execVneg_files (ty : VTy) (sat : Bool) (fold : BitVec 2) (vd va : Reg) (k : KReg) (s : State) : FileKept s (execVneg ty sat fold vd va k s) := by
  refine fileKept_guarded fun s => ?_
  simp
theorem logic2_files (i : Instr) (s : State) (f : BitVec 2) (vd va : Reg) (b : VSrc) (k : KReg) (g : BitVec 32 → BitVec 32 → BitVec 32) : FileKept s (logic2 i s f vd va b k g) := by
  refine fileKept_guarded fun s => ?_
  simp
theorem execVand_files (fold : BitVec 2) (vd va : Reg) (b : VSrc) (k : KReg) (s : State) : FileKept s (execVand fold vd va b k s) :=
  logic2_files _ _ _ _ _ _ _ _
theorem execVor_files (fold : BitVec 2) (vd va : Reg) (b : VSrc) (k : KReg) (s : State) : FileKept s (execVor fold vd va b k s) :=
  logic2_files _ _ _ _ _ _ _ _
theorem execVxor_files (fold : BitVec 2) (vd va : Reg) (b : VSrc) (k : KReg) (s : State) : FileKept s (execVxor fold vd va b k s) :=
  logic2_files _ _ _ _ _ _ _ _
theorem execVshl_files (fold : BitVec 2) (vd va : Reg) (b : VSrc) (k : KReg) (s : State) : FileKept s (execVshl fold vd va b k s) :=
  logic2_files _ _ _ _ _ _ _ _
theorem execVshr_files (fold : BitVec 2) (vd va : Reg) (b : VSrc) (k : KReg) (s : State) : FileKept s (execVshr fold vd va b k s) :=
  logic2_files _ _ _ _ _ _ _ _
theorem execVsha_files (fold : BitVec 2) (vd va : Reg) (b : VSrc) (k : KReg) (s : State) : FileKept s (execVsha fold vd va b k s) :=
  logic2_files _ _ _ _ _ _ _ _
theorem execVcmp_files (c : VCond) (ty : VTy) (fold : BitVec 2) (kd : KReg) (va : Reg) (b : VSrc) (k : KReg) (s : State) : FileKept s (execVcmp c ty fold kd va b k s) := by
  refine fileKept_guarded fun s => ?_
  simp
theorem execVsel_files (fold : BitVec 2) (vd va vb : Reg) (k : KReg) (s : State) : FileKept s (execVsel fold vd va vb k s) := by
  refine fileKept_guarded fun s => ?_
  simp
theorem execVcvt_files (dst src : CvtTy) (fold : BitVec 2) (vd va : Reg) (k : KReg) (s : State) : FileKept s (execVcvt dst src fold vd va k s) := by
  refine fileKept_guarded fun s => ?_
  simp
theorem special_files (i : Instr) (s : State) (f : BitVec 2) (vd va : Reg) (k : KReg) (g : Num → Num × BitVec 7) : FileKept s (special i s f vd va k g) := by
  refine fileKept_guarded fun s => ?_
  simp
theorem execVrcp_files (fold : BitVec 2) (vd va : Reg) (k : KReg) (s : State) : FileKept s (execVrcp fold vd va k s) :=
  special_files _ _ _ _ _ _ _
theorem execVrsq_files (fold : BitVec 2) (vd va : Reg) (k : KReg) (s : State) : FileKept s (execVrsq fold vd va k s) :=
  special_files _ _ _ _ _ _ _
theorem execVsqrt_files (fold : BitVec 2) (vd va : Reg) (k : KReg) (s : State) : FileKept s (execVsqrt fold vd va k s) :=
  special_files _ _ _ _ _ _ _
theorem execVexp2_files (fold : BitVec 2) (vd va : Reg) (k : KReg) (s : State) : FileKept s (execVexp2 fold vd va k s) :=
  special_files _ _ _ _ _ _ _
theorem execVlog2_files (fold : BitVec 2) (vd va : Reg) (k : KReg) (s : State) : FileKept s (execVlog2 fold vd va k s) :=
  special_files _ _ _ _ _ _ _
theorem execVtanh_files (fold : BitVec 2) (vd va : Reg) (k : KReg) (s : State) : FileKept s (execVtanh fold vd va k s) :=
  special_files _ _ _ _ _ _ _
theorem execVsigm_files (fold : BitVec 2) (vd va : Reg) (k : KReg) (s : State) : FileKept s (execVsigm fold vd va k s) :=
  special_files _ _ _ _ _ _ _
theorem reduction_files (i : Instr) (s : State) (op : ScanOp) (ty : VTy) (sat : Bool) (f : BitVec 2) (vd va : Reg) (k : KReg) : FileKept s (reduction i s op ty sat f vd va k) := by
  refine fileKept_guarded fun s => ?_
  simp
theorem execVredadd_files (ty : VTy) (sat : Bool) (fold : BitVec 2) (vd va : Reg) (k : KReg) (s : State) : FileKept s (execVredadd ty sat fold vd va k s) :=
  reduction_files _ _ _ _ _ _ _ _ _
theorem execVredmax_files (ty : VTy) (fold : BitVec 2) (vd va : Reg) (k : KReg) (s : State) : FileKept s (execVredmax ty fold vd va k s) :=
  reduction_files _ _ _ _ _ _ _ _ _
theorem execVredmin_files (ty : VTy) (fold : BitVec 2) (vd va : Reg) (k : KReg) (s : State) : FileKept s (execVredmin ty fold vd va k s) :=
  reduction_files _ _ _ _ _ _ _ _ _
theorem execVscan_files (op : ScanOp) (ty : VTy) (sat : Bool) (fold : BitVec 2) (vd va : Reg) (k : KReg) (s : State) : FileKept s (execVscan op ty sat fold vd va k s) := by
  refine fileKept_guarded fun s => ?_
  simp
theorem execVargmax_files (ty : VTy) (fold : BitVec 2) (vd va : Reg) (k : KReg) (s : State) : FileKept s (execVargmax ty fold vd va k s) := by
  refine fileKept_guarded fun s => ?_
  simp
theorem move_files (i : Instr) (s : State) (f : BitVec 2) (vd : Reg) (k : KReg) (g : State → Fin 64 → BitVec 32) : FileKept s (move i s f vd k g) := by
  refine fileKept_guarded fun s => ?_
  simp
theorem execVperm_files (fold : BitVec 2) (vd va vb : Reg) (k : KReg) (s : State) : FileKept s (execVperm fold vd va vb k s) :=
  move_files _ _ _ _ _ _
theorem execVbcast_files (fold : BitVec 2) (vd va : Reg) (e : BitVec 6) (k : KReg) (s : State) : FileKept s (execVbcast fold vd va e k s) :=
  move_files _ _ _ _ _ _
theorem execVsplatG_files (fold : BitVec 2) (vd ga : Reg) (k : KReg) (s : State) : FileKept s (execVsplatG fold vd ga k s) :=
  move_files _ _ _ _ _ _
theorem execVsplatImm_files (fold : BitVec 2) (vd : Reg) (imm : BitVec 13) (k : KReg) (s : State) : FileKept s (execVsplatImm fold vd imm k s) :=
  move_files _ _ _ _ _ _
theorem execViota_files (fold : BitVec 2) (vd : Reg) (imm : BitVec 13) (k : KReg) (s : State) : FileKept s (execViota fold vd imm k s) :=
  move_files _ _ _ _ _ _
theorem execVmov_files (fold : BitVec 2) (vd va : Reg) (k : KReg) (s : State) : FileKept s (execVmov fold vd va k s) :=
  move_files _ _ _ _ _ _
theorem execVmovG_files (gd va : Reg) (e : BitVec 6) (s : State) : FileKept s (execVmovG gd va e s) := by
  refine fileKept_guarded fun s => ?_
  simp
theorem execVmovE_files (vd ga : Reg) (e : BitVec 6) (s : State) : FileKept s (execVmovE vd ga e s) := by
  refine fileKept_guarded fun s => ?_
  simp
theorem execVcomp_files (fold : BitVec 2) (vd : Reg) (kd : KReg) (va : Reg) (k : KReg) (s : State) : FileKept s (execVcomp fold vd kd va k s) := by
  refine fileKept_guarded fun s => ?_
  simp
theorem execVlut_files (fold : BitVec 2) (vd va : Reg) (k : KReg) (s : State) : FileKept s (execVlut fold vd va k s) :=
  move_files _ _ _ _ _ _
theorem execVhash_files (fold : BitVec 2) (vd va vb : Reg) (seed : BitVec 13) (k : KReg) (s : State) : FileKept s (execVhash fold vd va vb seed k s) := by
  refine fileKept_guarded fun s => ?_
  simp
theorem execVsample_files (fold : BitVec 2) (vd va vb vc : Reg) (topk : BitVec 13) (k : KReg) (s : State) : FileKept s (execVsample fold vd va vb vc topk k s) := by
  refine fileKept_guarded fun s => ?_
  split <;> simp
theorem execPcfg_files (p : PReg) (base idx : Reg) (off : BitVec 19) (s : State) : FileKept s (execPcfg p base idx off s) := by
  refine fileKept_guarded fun s => ?_
  simp
theorem execPclose_files (p : PReg) (s : State) : FileKept s (execPclose p s) := by
  refine fileKept_guarded fun s => ?_
  simp
theorem execPstat_files (d : Reg) (p : PReg) (s : State) : FileKept s (execPstat d p s) := by
  refine fileKept_guarded fun s => ?_
  simp
theorem execPseek_files (p : PReg) (b : Reg) (s : State) : FileKept s (execPseek p b s) := by
  refine fileKept_guarded fun s => ?_
  simp
theorem execPortFetch_files (core : CoreRef) (p : PReg) (s : State) : FileKept s (execPortFetch core p s) := by
  refine fileKept_onUnit ?_
  simp
theorem execFence_files (s : State) : FileKept s (execFence s) := by
  refine fileKept_guarded fun s => ?_
  simp
theorem execFenceRelease_files (core : CoreRef) (s : State) : FileKept s (execFenceRelease core s) := by
  refine fileKept_onUnit ?_
  simp
theorem execVld_files (fold : BitVec 2) (t : Reg) (m : MemOp) (k : KReg) (s : State) : FileKept s (execVld fold t m k s) := by
  refine fileKept_guarded fun s => ?_
  cases m <;> dsimp only
  · split
    · simp
    · split
      · simp
      · refine State.withAccess_both _ _ _ _ _ fun s => ?_
        split <;> simp
  · split
    · simp
    · exact State.takeStep_both _ _ _ _ fun _ _ => State.loadLanes_files ..
theorem execVst_files (fold : BitVec 2) (t : Reg) (m : MemOp) (k : KReg) (s : State) : FileKept s (execVst fold t m k s) := by
  refine fileKept_guarded fun s => ?_
  cases m <;> dsimp only
  · split
    · simp
    · split
      · simp
      · refine State.withAccess_both _ _ _ _ _ fun s => ?_
        simp
  · split
    · simp
    · refine State.writeStep_both _ _ _ _ _ fun s => ?_
      simp
theorem execVlds_files (fold : BitVec 2) (t base : Reg) (off : BitVec 19) (st : Reg) (k : KReg) (s : State) : FileKept s (execVlds fold t base off st k s) := by
  refine fileKept_guarded fun s => ?_
  simp
theorem execVgath_files (fold : BitVec 2) (t base : Reg) (off : BitVec 19) (vi : Reg) (k : KReg) (s : State) : FileKept s (execVgath fold t base off vi k s) := by
  refine fileKept_guarded fun s => ?_
  simp
theorem execVscat_files (fold : BitVec 2) (t base : Reg) (off : BitVec 19) (vi : Reg) (k : KReg) (s : State) : FileKept s (execVscat fold t base off vi k s) := by
  refine fileKept_guarded fun s => ?_
  repeat' (first | with_reducible rfl | (simp; done) | split | (refine State.withRead_both _ _ _ _ _ ?_; intro _ _) | (refine State.withAccess_both _ _ _ _ _ ?_; intro _) | (refine State.takeStep_both _ _ _ _ ?_; intro _ _) | (refine State.writeStep_both _ _ _ _ _ ?_; intro _) | (refine State.ticketWord_both _ _ _ _ _ ?_; intro _) | (refine State.withBuffer_both _ _ _ _ _ ?_; intro _) | (refine foldl_files _ _ _ ?_; intro _ _) | simp | (rename_i heq; have hm := congrArg (fun p => (tileFiles (Prod.snd p).tiles, feederFiles (Prod.snd p).feeders)) heq; simp at hm; simp [← hm.1, ← hm.2]; done) | constructor)
theorem execFgrp_files (a : Reg) (g : BitVec 8) (s : State) : FileKept s (execFgrp a g s) := by
  refine fileKept_guarded fun s => ?_
  dsimp only
  (repeat' split) <;> simp
theorem execFinj_files (a t : Reg) (g : BitVec 8) (s : State) : FileKept s (execFinj a t g s) := by
  refine fileKept_guarded fun s => ?_
  split <;> simp
theorem execFpref_files (a l : Reg) (s : State) : FileKept s (execFpref a l s) := by
  refine fileKept_guarded fun s => ?_
  dsimp only
  (repeat' split) <;> simp
theorem execFupd_files (op : FupdOp) (fmt : FFmt) (w sr c : Reg) (nM1 : BitVec 16) (s : State) : FileKept s (execFupd op fmt w sr c nM1 s) := by
  refine fileKept_guarded fun s => ?_
  dsimp only
  (repeat' split) <;> simp
theorem execFred_files (op : FredOp) (fmt : FFmt) (d a : Reg) (nM1 : BitVec 16) (s : State) : FileKept s (execFred op fmt d a nM1 s) := by
  refine fileKept_guarded fun s => ?_
  dsimp only
  (repeat' split) <;> simp
theorem execVpda_files (vd va vb : Reg) (w : BitVec 4) (s : State) : FileKept s (execVpda vd va vb w s) := by
  refine fileKept_guarded fun s => ?_
  dsimp only
  split
  · simp
  · split
    · simp
    · rename_i h
      have := State.tableHeader_files h
      split <;> simp [this]
theorem execVtmask_files (fold : BitVec 2) (kd : KReg) (va vb : Reg) (w : BitVec 4) (s : State) : FileKept s (execVtmask fold kd va vb w s) := by
  refine fileKept_guarded fun s => ?_
  dsimp only
  split
  · simp
  · split
    · simp
    · rename_i h
      have := State.tableHeader_files h
      split <;> simp [this]
theorem execMarm_files (ch : BitVec 4) (s : State) : FileKept s (execMarm ch s) := by
  refine fileKept_guarded fun s => ?_
  dsimp only
  (repeat' split) <;> simp
theorem execMdisarm_files (ch : BitVec 4) (s : State) : FileKept s (execMdisarm ch s) := by
  refine fileKept_guarded fun s => ?_
  simp
theorem execMrel_files (ch : BitVec 4) (s : State) : FileKept s (execMrel ch s) := by
  refine fileKept_guarded fun s => ?_
  dsimp only
  (repeat' split) <;> simp
theorem execMmul_files (kg : KGroup) (z : Bool) (ch : BitVec 4) (pa : PReg) (gm1 : BitVec 8) (s : State) : FileKept s (execMmul kg z ch pa gm1 s) := by
  refine fileKept_guarded fun s => ?_
  dsimp only
  (repeat' split) <;> simp
theorem execMmulw_files (kg : KGroup) (z : Bool) (ch : BitVec 4) (pa pb : PReg) (gm1 : BitVec 8) (s : State) : FileKept s (execMmulw kg z ch pa pb gm1 s) := by
  refine fileKept_guarded fun s => ?_
  split <;> simp
theorem execMzero_files (z : Bool) (s : State) : FileKept s (execMzero z s) := by
  refine fileKept_guarded fun s => ?_
  simp
theorem execMldz_files (z : Bool) (vs : Reg) (s : State) : FileKept s (execMldz z vs s) := by
  refine fileKept_guarded fun s => ?_
  simp
theorem execMstz_files (vd : Reg) (z : Bool) (s : State) : FileKept s (execMstz vd z s) := by
  refine fileKept_guarded fun s => ?_
  simp
theorem execMsums_files (acc : Bool) (vd : Reg) (s : State) : FileKept s (execMsums acc vd s) := by
  refine fileKept_guarded fun s => ?_
  simp
theorem execMdrain_files (z : Bool) (o : Reg) (s : State) : FileKept s (execMdrain z o s) := by
  refine fileKept_guarded fun s => ?_
  dsimp only
  (repeat' split) <;> simp
theorem execMdrainV_files (z : Bool) (vd : Reg) (s : State) : FileKept s (execMdrainV z vd s) := by
  refine fileKept_guarded fun s => ?_
  split <;> simp
theorem execMdcfgSet_files (c : BitVec 2) (s : State) : FileKept s (execMdcfgSet c s) := by
  refine fileKept_guarded fun s => ?_
  simp
theorem execMdcfgClr_files (s : State) : FileKept s (execMdcfgClr s) := by
  refine fileKept_guarded fun s => ?_
  simp
theorem execMdcfgTok_files (c : BitVec 2) (s : State) : FileKept s (execMdcfgTok c s) := by
  refine fileKept_guarded fun s => ?_
  simp
theorem execHoldAnnounce_files (crew : BitVec 16) (_a : BitVec 48) (m : HoldMsg) (via : Option Nat) (s : State) : FileKept s (execHoldAnnounce crew _a m via s) := by
  refine fileKept_done ?_
  split <;> simp
theorem execHoldRelease_files (crew : BitVec 16) (y : HoldSpan) (via : Option Nat) (s : State) : FileKept s (execHoldRelease crew y via s) := by
  refine fileKept_done ?_
  split <;> simp
theorem execHoldStart_files (crew : BitVec 16) (s : State) : FileKept s (execHoldStart crew s) := by
  refine fileKept_done ?_
  split <;> simp
theorem execHoldEnd_files (crew : BitVec 16) (s : State) : FileKept s (execHoldEnd crew s) := by
  refine fileKept_done ?_
  split <;> simp
theorem execHoldrq_files (l : BitVec 16) (s : State) : FileKept s (execHoldrq l s) := by
  refine fileKept_guarded fun s => ?_
  split <;> simp
theorem execDrift_files (s : State) : FileKept s (execDrift s) := by
  refine fileKept_guarded fun s => ?_
  split <;> simp
theorem execDriftPause_files (crew : BitVec 16) (s : State) : FileKept s (execDriftPause crew s) := by
  refine fileKept_done ?_
  split <;> simp
theorem execTimeCheckPulse_files (s : State) : FileKept s (execTimeCheckPulse s) := by
  refine fileKept_done ?_
  simp
theorem execVcycBroadcast_files (crew : BitVec 16) (s : State) : FileKept s (execVcycBroadcast crew s) := by
  refine fileKept_done ?_
  split <;> simp
theorem execReferenceLoss_files (s : State) : FileKept s (execReferenceLoss s) := by
  refine fileKept_done ?_
  simp
theorem execTimeT_files (d : Reg) (s : State) : FileKept s (execTimeT d s) := by
  refine fileKept_guarded fun s => ?_
  simp
theorem execTimeV_files (d : Reg) (s : State) : FileKept s (execTimeV d s) := by
  refine fileKept_guarded fun s => ?_
  simp
theorem execTimeOff_files (d : Reg) (s : State) : FileKept s (execTimeOff d s) := by
  refine fileKept_guarded fun s => ?_
  simp
@[simp] theorem State.copyBytes_files (s : State) (f k n : Nat) :
    tileFiles (s.copyBytes f k n).2.tiles = tileFiles s.tiles ∧ feederFiles (s.copyBytes f k n).2.feeders = feederFiles s.feeders := by
  induction n generalizing s k with
  | zero => exact ⟨rfl, rfl⟩
  | succ n ih =>
    unfold State.copyBytes
    dsimp only
    split
    · exact ih _ _
    · exact ⟨(ih _ _).1.trans rfl, (ih _ _).2.trans rfl⟩
theorem execFinjCopy_files (f id : Nat) (s : State) : FileKept s (execFinjCopy f id s) := by
  refine fileKept_onUnit ?_
  split
  · exact ⟨rfl, rfl⟩
  · extract_lets
    split
    · simp +zetaDelta
    · split
      · simp +zetaDelta
      · extract_lets
        repeat' split
        all_goals first | (simp +zetaDelta; done) | (rename_i h; have hm := congrArg (fun p => (tileFiles (Prod.snd p).tiles, feederFiles (Prod.snd p).feeders)) h; simp at hm; simp [← hm.1, ← hm.2]; done)
theorem execInjectionModulate_files (f id : Nat) (s : State) : FileKept s (execInjectionModulate f id s) := by
  refine fileKept_onUnit ?_
  split
  · exact ⟨rfl, rfl⟩
  · dsimp only
    split
    · exact ⟨rfl, rfl⟩
    · split
      · exact ⟨rfl, rfl⟩
      · split
        · simp
        · split
          · simp
          · constructor
            · refine (foldl_tileFiles _ _ _ fun s r => ?_).trans ?_
              · split <;> simp
              · simp
            · refine (foldl_feederFiles _ _ _ fun s r => ?_).trans ?_
              · split <;> simp
              · simp
theorem execDrawOffInjectStop_files (crew : BitVec 16) (s : State) : FileKept s (execDrawOffInjectStop crew s) := by
  refine fileKept_done ?_
  split <;> simp
theorem execWeightReadRetry_files (f line : Nat) (s : State) : FileKept s (execWeightReadRetry f line s) := by
  refine fileKept_onUnit ?_
  split <;> simp
theorem execWeightReadData_files (f line : Nat) (s : State) : FileKept s (execWeightReadData f line s) := by
  refine fileKept_onUnit ?_
  split <;> simp
theorem execDeliveryStart_files (tile : Nat) (lane : BitVec 2) (lams : BitVec 16) (tag : BitVec 8) (f : Nat) (t : BitVec 48) (light : Light) (only : Option (BitVec 3)) (s : State) : FileKept s (execDeliveryStart tile lane lams tag f t light only s) := by
  refine fileKept_onUnit ?_
  simp
theorem execDeliveryComplete_files (tile block : Nat) (s : State) : FileKept s (execDeliveryComplete tile block s) := by
  refine fileKept_onUnit ?_
  dsimp only
  (repeat' split) <;> simp
theorem execLaserFailover_files (laser : Nat) (s : State) : FileKept s (execLaserFailover laser s) := by
  refine fileKept_onUnit ?_
  simp
theorem execScrubRead_files (tile addr : Nat) (found : StoreErr) (s : State) : FileKept s (execScrubRead tile addr found s) := by
  refine fileKept_onUnit ?_
  split <;> simp
theorem execDirtyLineEvict_files (f line : Nat) (badSectors : BitVec 8) (s : State) : FileKept s (execDirtyLineEvict f line badSectors s) := by
  refine fileKept_onUnit ?_
  dsimp only
  (repeat' split) <;> simp
theorem execLd_files (sz : BitVec 2) (uns : Bool) (t : Reg) (m : MemOp) (s : State) : FileKept s (execLd sz uns t m s) := by
  refine fileKept_guarded fun s => ?_
  repeat' (first | with_reducible rfl | (simp; done) | split | (refine State.withRead_both _ _ _ _ _ ?_; intro _ _) | (refine State.withAccess_both _ _ _ _ _ ?_; intro _) | (refine State.takeStep_both _ _ _ _ ?_; intro _ _) | (refine State.writeStep_both _ _ _ _ _ ?_; intro _) | (refine State.ticketWord_both _ _ _ _ _ ?_; intro _) | (refine State.withBuffer_both _ _ _ _ _ ?_; intro _) | (refine foldl_files _ _ _ ?_; intro _ _) | simp | (rename_i heq; have hm := congrArg (fun p => (tileFiles (Prod.snd p).tiles, feederFiles (Prod.snd p).feeders)) heq; simp at hm; simp [← hm.1, ← hm.2]; done) | constructor)
theorem execSt_files (sz : BitVec 2) (t : Reg) (m : MemOp) (s : State) : FileKept s (execSt sz t m s) := by
  refine fileKept_guarded fun s => ?_
  repeat' (first | with_reducible rfl | (simp; done) | split | (refine State.withRead_both _ _ _ _ _ ?_; intro _ _) | (refine State.withAccess_both _ _ _ _ _ ?_; intro _) | (refine State.takeStep_both _ _ _ _ ?_; intro _ _) | (refine State.writeStep_both _ _ _ _ _ ?_; intro _) | (refine State.ticketWord_both _ _ _ _ _ ?_; intro _) | (refine State.withBuffer_both _ _ _ _ _ ?_; intro _) | (refine foldl_files _ _ _ ?_; intro _ _) | simp | (rename_i heq; have hm := congrArg (fun p => (tileFiles (Prod.snd p).tiles, feederFiles (Prod.snd p).feeders)) heq; simp at hm; simp [← hm.1, ← hm.2]; done) | constructor)
theorem execAmo_files (op : AmoOp) (uns dword : Bool) (t base : Reg) (off : BitVec 19) (i : Reg) (s : State) : FileKept s (execAmo op uns dword t base off i s) := by
  refine fileKept_guarded fun s => ?_
  repeat' (first | with_reducible rfl | (simp; done) | split | (refine State.withRead_both _ _ _ _ _ ?_; intro _ _) | (refine State.withAccess_both _ _ _ _ _ ?_; intro _) | (refine State.takeStep_both _ _ _ _ ?_; intro _ _) | (refine State.writeStep_both _ _ _ _ _ ?_; intro _) | (refine State.ticketWord_both _ _ _ _ _ ?_; intro _) | (refine State.withBuffer_both _ _ _ _ _ ?_; intro _) | (refine foldl_files _ _ _ ?_; intro _ _) | simp | (rename_i heq; have hm := congrArg (fun p => (tileFiles (Prod.snd p).tiles, feederFiles (Prod.snd p).feeders)) heq; simp at hm; simp [← hm.1, ← hm.2]; done) | constructor)
theorem execWinqAddr_files (d a : Reg) (s : State) : FileKept s (execWinqAddr d a s) := by
  refine fileKept_guarded fun s => ?_
  simp
theorem execWinqNum_files (d : Reg) (w : BitVec 4) (s : State) : FileKept s (execWinqNum d w s) := by
  refine fileKept_guarded fun s => ?_
  simp
theorem execLutld_files (base idx : Reg) (off : BitVec 19) (s : State) : FileKept s (execLutld base idx off s) := by
  refine fileKept_guarded fun s => ?_
  repeat' (first | with_reducible rfl | (simp; done) | split | (refine State.withRead_both _ _ _ _ _ ?_; intro _ _) | (refine State.withAccess_both _ _ _ _ _ ?_; intro _) | (refine State.takeStep_both _ _ _ _ ?_; intro _ _) | (refine State.writeStep_both _ _ _ _ _ ?_; intro _) | (refine State.ticketWord_both _ _ _ _ _ ?_; intro _) | (refine State.withBuffer_both _ _ _ _ _ ?_; intro _) | (refine foldl_files _ _ _ ?_; intro _ _) | simp | (rename_i heq; have hm := congrArg (fun p => (tileFiles (Prod.snd p).tiles, feederFiles (Prod.snd p).feeders)) heq; simp at hm; simp [← hm.1, ← hm.2]; done) | constructor)
theorem execBerthW_files (w : BitVec 4) (b : Reg) (s : State) : FileKept s (execBerthW w b s) := by
  refine fileKept_guarded fun s => ?_
  simp
theorem execBerthG_files (a b : Reg) (s : State) : FileKept s (execBerthG a b s) := by
  refine fileKept_guarded fun s => ?_
  simp
theorem execBviewW_files (w : BitVec 4) (b : Reg) (s : State) : FileKept s (execBviewW w b s) := by
  refine fileKept_guarded fun s => ?_
  simp
theorem execBviewG_files (a b : Reg) (s : State) : FileKept s (execBviewG a b s) := by
  refine fileKept_guarded fun s => ?_
  simp
theorem execBtakeW_files (w : BitVec 4) (s : State) : FileKept s (execBtakeW w s) := by
  refine fileKept_guarded fun s => ?_
  simp
theorem execBtakeG_files (a : Reg) (s : State) : FileKept s (execBtakeG a s) := by
  refine fileKept_guarded fun s => ?_
  simp
theorem execBtakeViewW_files (w : BitVec 4) (s : State) : FileKept s (execBtakeViewW w s) := by
  refine fileKept_guarded fun s => ?_
  simp
theorem execBtakeViewG_files (a : Reg) (s : State) : FileKept s (execBtakeViewG a s) := by
  refine fileKept_guarded fun s => ?_
  simp
theorem execBerthOfferArrive_files (core : CoreRef) (region : Word) (view : Bool) (s : State) : FileKept s (execBerthOfferArrive core region view s) := by
  refine fileKept_onUnit ?_
  repeat' (first | with_reducible rfl | (simp; done) | split | (refine State.withRead_both _ _ _ _ _ ?_; intro _ _) | (refine State.withAccess_both _ _ _ _ _ ?_; intro _) | (refine State.takeStep_both _ _ _ _ ?_; intro _ _) | (refine State.writeStep_both _ _ _ _ _ ?_; intro _) | (refine State.ticketWord_both _ _ _ _ _ ?_; intro _) | (refine State.withBuffer_both _ _ _ _ _ ?_; intro _) | (refine foldl_files _ _ _ ?_; intro _ _) | simp | (rename_i heq; have hm := congrArg (fun p => (tileFiles (Prod.snd p).tiles, feederFiles (Prod.snd p).feeders)) heq; simp at hm; simp [← hm.1, ← hm.2]; done) | constructor)
theorem execBtakeTimeout_files (core : CoreRef) (s : State) : FileKept s (execBtakeTimeout core s) := by
  refine fileKept_onUnit ?_
  dsimp only
  (repeat' split) <;> simp
theorem execPageMigration_files (asid : BitVec 16) (gaddr : Word) (home : Nat) (s : State) : FileKept s (execPageMigration asid gaddr home s) := by
  refine fileKept_onUnit ?_
  repeat' (first | with_reducible rfl | (simp; done) | split | (refine State.withRead_both _ _ _ _ _ ?_; intro _ _) | (refine State.withAccess_both _ _ _ _ _ ?_; intro _) | (refine State.takeStep_both _ _ _ _ ?_; intro _ _) | (refine State.writeStep_both _ _ _ _ _ ?_; intro _) | (refine State.ticketWord_both _ _ _ _ _ ?_; intro _) | (refine State.withBuffer_both _ _ _ _ _ ?_; intro _) | (refine foldl_files _ _ _ ?_; intro _ _) | simp | (rename_i heq; have hm := congrArg (fun p => (tileFiles (Prod.snd p).tiles, feederFiles (Prod.snd p).feeders)) heq; simp at hm; simp [← hm.1, ← hm.2]; done) | constructor)
theorem execMigrationClose_files (page : Nat) (s : State) : FileKept s (execMigrationClose page s) := by
  refine fileKept_done ?_
  split <;> simp
theorem execRemoteRequestReceive_files (i : Iface) (q : Req) (s : State) : FileKept s (execRemoteRequestReceive i q s) := by
  refine fileKept_onUnit ?_
  split <;> simp
theorem execPageWalkDone_files (i : Iface) (asid : BitVec 16) (gaddr : Word) (s : State) : FileKept s (execPageWalkDone i asid gaddr s) := by
  refine fileKept_onUnit ?_
  simp
theorem execTicketRequest_files (rx ry : Nat) (q : Req) (s : State) : FileKept s (execTicketRequest rx ry q s) := by
  refine fileKept_onUnit ?_
  (repeat' split) <;> simp
theorem execTserveWake_files (w : TicketWait) (s : State) : FileKept s (execTserveWake w s) := by
  refine fileKept_onUnit ?_
  simp
theorem execTkt_files (d : Reg) (n : BitVec 6) (s : State) : FileKept s (execTkt d n s) := by
  refine fileKept_guarded fun s => ?_
  repeat' (first | with_reducible rfl | (simp; done) | split | (refine State.withRead_both _ _ _ _ _ ?_; intro _ _) | (refine State.withAccess_both _ _ _ _ _ ?_; intro _) | (refine State.takeStep_both _ _ _ _ ?_; intro _ _) | (refine State.writeStep_both _ _ _ _ _ ?_; intro _) | (refine State.ticketWord_both _ _ _ _ _ ?_; intro _) | (refine State.withBuffer_both _ _ _ _ _ ?_; intro _) | (refine foldl_files _ _ _ ?_; intro _ _) | simp | (rename_i heq; have hm := congrArg (fun p => (tileFiles (Prod.snd p).tiles, feederFiles (Prod.snd p).feeders)) heq; simp at hm; simp [← hm.1, ← hm.2]; done) | constructor)
theorem execTserve_files (a : Reg) (n : BitVec 6) (s : State) : FileKept s (execTserve a n s) := by
  refine fileKept_guarded fun s => ?_
  repeat' (first | with_reducible rfl | (simp; done) | split | (refine State.withRead_both _ _ _ _ _ ?_; intro _ _) | (refine State.withAccess_both _ _ _ _ _ ?_; intro _) | (refine State.takeStep_both _ _ _ _ ?_; intro _ _) | (refine State.writeStep_both _ _ _ _ _ ?_; intro _) | (refine State.ticketWord_both _ _ _ _ _ ?_; intro _) | (refine State.withBuffer_both _ _ _ _ _ ?_; intro _) | (refine foldl_files _ _ _ ?_; intro _ _) | simp | (rename_i heq; have hm := congrArg (fun p => (tileFiles (Prod.snd p).tiles, feederFiles (Prod.snd p).feeders)) heq; simp at hm; simp [← hm.1, ← hm.2]; done) | constructor)
theorem execTadv_files (n : BitVec 6) (s : State) : FileKept s (execTadv n s) := by
  refine fileKept_guarded fun s => ?_
  repeat' (first | with_reducible rfl | (simp; done) | split | (refine State.withRead_both _ _ _ _ _ ?_; intro _ _) | (refine State.withAccess_both _ _ _ _ _ ?_; intro _) | (refine State.takeStep_both _ _ _ _ ?_; intro _ _) | (refine State.writeStep_both _ _ _ _ _ ?_; intro _) | (refine State.ticketWord_both _ _ _ _ _ ?_; intro _) | (refine State.withBuffer_both _ _ _ _ _ ?_; intro _) | (refine foldl_files _ _ _ ?_; intro _ _) | simp | (rename_i heq; have hm := congrArg (fun p => (tileFiles (Prod.snd p).tiles, feederFiles (Prod.snd p).feeders)) heq; simp at hm; simp [← hm.1, ← hm.2]; done) | constructor)
theorem execRld_files (sz : BitVec 2) (uns : Bool) (d a : Reg) (imm : BitVec 16) (s : State) : FileKept s (execRld sz uns d a imm s) := by
  refine fileKept_guarded fun s => ?_
  simp
theorem execRst_files (sz : BitVec 2) (a b : Reg) (imm : BitVec 16) (s : State) : FileKept s (execRst sz a b imm s) := by
  refine fileKept_guarded fun s => ?_
  simp
theorem execRamo_files (op : AmoOp) (uns dword : Bool) (d a b c : Reg) (imm : BitVec 16) (s : State) : FileKept s (execRamo op uns dword d a b c imm s) := by
  refine fileKept_guarded fun s => ?_
  simp
theorem execRfence_files (s : State) : FileKept s (execRfence s) := by
  refine fileKept_guarded fun s => ?_
  simp
@[simp] theorem State.takeAnswer_files (s : State) (core : CoreRef) (tag : BitVec 16) (a : Ans) (o : Outstanding) : tileFiles (s.takeAnswer core tag a o).tiles = tileFiles s.tiles ∧ feederFiles (s.takeAnswer core tag a o).feeders = feederFiles s.feeders := by
  unfold State.takeAnswer
  dsimp only
  (repeat' split) <;> simp
@[simp] theorem State.afterAnswer_files (s : State) (core : CoreRef) : tileFiles (s.afterAnswer core).tiles = tileFiles s.tiles ∧ feederFiles (s.afterAnswer core).feeders = feederFiles s.feeders := by
  unfold State.afterAnswer
  dsimp only
  (repeat' split) <;> simp
theorem execRemoteAnswer_files (core : CoreRef) (tag : BitVec 16) (a : Ans) (s : State) : FileKept s (execRemoteAnswer core tag a s) := by
  refine fileKept_onUnit ?_
  (repeat' split) <;> simp
theorem execRemoteTimeout_files (core : CoreRef) (tag : BitVec 16) (s : State) : FileKept s (execRemoteTimeout core tag s) := by
  refine fileKept_onUnit ?_
  simp
theorem execRfenceRelease_files (core : CoreRef) (s : State) : FileKept s (execRfenceRelease core s) := by
  refine fileKept_onUnit ?_
  simp
theorem execFerryOffer_files (core : CoreRef) (tag : BitVec 16) (f : Nat) (s : State) : FileKept s (execFerryOffer core tag f s) := by
  refine fileKept_onUnit ?_
  simp
theorem execFerryReturn_files (core : CoreRef) (s : State) : FileKept s (execFerryReturn core s) := by
  refine fileKept_onUnit ?_
  (repeat' split) <;> simp
theorem execTokenEject_files (tile : Nat) (ejd : BitVec 4) (rfx : BitVec 3) (flits : List FlitBits) (s : State) : FileKept s (execTokenEject tile ejd rfx flits s) := by
  refine fileKept_onUnit ?_
  simp
@[simp] theorem State.noteVoted_files (s : State) (tile : Nat) (ports : List Nat) (ins : List Flit) (v : Option FlitBits) :
    tileFiles (s.noteVoted tile ports ins v).tiles = tileFiles s.tiles ∧ feederFiles (s.noteVoted tile ports ins v).feeders = feederFiles s.feeders := by
  cases v <;> simp [State.noteVoted]
@[simp] theorem State.ejectResult_files (s : State) (tile : Nat) (x : Flit) (r : Option Reduction) :
    tileFiles (s.ejectResult tile x r).tiles = tileFiles s.tiles ∧ feederFiles (s.ejectResult tile x r).feeders = feederFiles s.feeders := by
  unfold State.ejectResult
  repeat' split
  all_goals simp
theorem execStaticFlitHop_files (tile : Nat) (s : State) : FileKept s (execStaticFlitHop tile s) := by
  refine fileKept_onUnit ?_
  split
  · exact ⟨rfl, rfl⟩
  · split
    · exact ⟨rfl, rfl⟩
    · split
      · exact ⟨tileFiles_modTile _ _ _ fun _ => ⟨rfl, rfl, rfl, rfl, rfl, rfl, rfl, rfl, rfl⟩, rfl⟩
      · extract_lets
        split
        extract_lets
        split
        extract_lets
        refine (fun h => ⟨h.1.trans ?_, h.2.trans ?_⟩) (foldl_files _ _ _ fun s r => State.coreFault_files ..)
        all_goals simp +zetaDelta only [State.ejectRow_files, State.ejectResult_files, State.sendLinks_files, State.noteVoted_files,
          tileFiles_modTile, State.modTile_feeders, State.feederFlits_files, and_self, implies_true]
theorem execStaticFlitHandoff_files (tl : Nat) (s : State) : FileKept s (execStaticFlitHandoff tl s) := by
  refine fileKept_onUnit ?_
  repeat' (first | with_reducible rfl | (simp; done) | split | (refine State.withRead_both _ _ _ _ _ ?_; intro _ _) | (refine State.withAccess_both _ _ _ _ _ ?_; intro _) | (refine State.takeStep_both _ _ _ _ ?_; intro _ _) | (refine State.writeStep_both _ _ _ _ _ ?_; intro _) | (refine State.ticketWord_both _ _ _ _ _ ?_; intro _) | (refine State.withBuffer_both _ _ _ _ _ ?_; intro _) | (refine foldl_files _ _ _ ?_; intro _ _) | simp | (rename_i heq; have hm := congrArg (fun p => (tileFiles (Prod.snd p).tiles, feederFiles (Prod.snd p).feeders)) heq; simp at hm; simp [← hm.1, ← hm.2]; done) | constructor)
theorem execTsend_files (a : Reg) (imm : BitVec 16) (s : State) : FileKept s (execTsend a imm s) := by
  refine fileKept_guarded fun s => ?_
  repeat' (first | with_reducible rfl | (simp; done) | split | (refine State.withRead_both _ _ _ _ _ ?_; intro _ _) | (refine State.withAccess_both _ _ _ _ _ ?_; intro _) | (refine State.takeStep_both _ _ _ _ ?_; intro _ _) | (refine State.writeStep_both _ _ _ _ _ ?_; intro _) | (refine State.ticketWord_both _ _ _ _ _ ?_; intro _) | (refine State.withBuffer_both _ _ _ _ _ ?_; intro _) | (refine foldl_files _ _ _ ?_; intro _ _) | simp | (rename_i heq; have hm := congrArg (fun p => (tileFiles (Prod.snd p).tiles, feederFiles (Prod.snd p).feeders)) heq; simp at hm; simp [← hm.1, ← hm.2]; done) | constructor)
theorem execTsendP_files (p : PReg) (s : State) : FileKept s (execTsendP p s) := by
  refine fileKept_guarded fun s => ?_
  repeat' (first | with_reducible rfl | (simp; done) | split | (refine State.withRead_both _ _ _ _ _ ?_; intro _ _) | (refine State.withAccess_both _ _ _ _ _ ?_; intro _) | (refine State.takeStep_both _ _ _ _ ?_; intro _ _) | (refine State.writeStep_both _ _ _ _ _ ?_; intro _) | (refine State.ticketWord_both _ _ _ _ _ ?_; intro _) | (refine State.withBuffer_both _ _ _ _ _ ?_; intro _) | (refine foldl_files _ _ _ ?_; intro _ _) | simp | (rename_i heq; have hm := congrArg (fun p => (tileFiles (Prod.snd p).tiles, feederFiles (Prod.snd p).feeders)) heq; simp at hm; simp [← hm.1, ← hm.2]; done) | constructor)
theorem execTsendV_files (va : Reg) (q : BitVec 2) (s : State) : FileKept s (execTsendV va q s) := by
  refine fileKept_guarded fun s => ?_
  simp
theorem execTredV_files (isInt : Bool) (va : Reg) (s : State) : FileKept s (execTredV isInt va s) := by
  refine fileKept_guarded fun s => ?_
  simp
theorem execTredMem_files (isInt : Bool) (a : Reg) (imm : BitVec 16) (s : State) : FileKept s (execTredMem isInt a imm s) := by
  refine fileKept_guarded fun s => ?_
  repeat' (first | with_reducible rfl | (simp; done) | split | (refine State.withRead_both _ _ _ _ _ ?_; intro _ _) | (refine State.withAccess_both _ _ _ _ _ ?_; intro _) | (refine State.takeStep_both _ _ _ _ ?_; intro _ _) | (refine State.writeStep_both _ _ _ _ _ ?_; intro _) | (refine State.ticketWord_both _ _ _ _ _ ?_; intro _) | (refine State.withBuffer_both _ _ _ _ _ ?_; intro _) | (refine foldl_files _ _ _ ?_; intro _ _) | simp | (rename_i heq; have hm := congrArg (fun p => (tileFiles (Prod.snd p).tiles, feederFiles (Prod.snd p).feeders)) heq; simp at hm; simp [← hm.1, ← hm.2]; done) | constructor)
theorem execDynPacketHop_files (tile : Nat) (s : State) : FileKept s (execDynPacketHop tile s) := by
  refine fileKept_onUnit ?_
  split
  · exact ⟨tileFiles_modTile _ _ _ fun _ => ⟨rfl, rfl, rfl, rfl, rfl, rfl, rfl, rfl, rfl⟩, rfl⟩
  · dsimp only
    refine (fun a b => ⟨a.1.trans b.1, a.2.trans b.2⟩) (foldl_files _ _ _ fun s k => ?_) (foldl_files _ _ _ fun s x => ?_)
    · split
      · exact ⟨rfl, rfl⟩
      · split <;> simp
    · split
      · exact ⟨rfl, rfl⟩
      · split
        · split <;> simp
        · split <;> simp
theorem execDynPacketDeliver_files (tile : Nat) (p : Packet) (s : State) : FileKept s (execDynPacketDeliver tile p s) := by
  refine fileKept_onUnit ?_
  dsimp only
  (repeat' split) <;> simp
theorem execTdsend_files (d a b c : Reg) (len : BitVec 7) (s : State) : FileKept s (execTdsend d a b c len s) := by
  refine fileKept_guarded fun s => ?_
  dsimp only
  split
  · simp
  · refine State.withRead_both _ _ _ _ _ fun bs s => ?_
    split
    · simp
    · rw [(State.laterG_files ..).1, (State.laterG_files ..).2]; split <;> simp
theorem execTdrecv_files (d a : Reg) (s : State) : FileKept s (execTdrecv d a s) := by
  refine fileKept_guarded fun s => ?_
  (repeat' split) <;> simp
theorem execTdrecvNb_files (d a : Reg) (s : State) : FileKept s (execTdrecvNb d a s) := by
  refine fileKept_guarded fun s => ?_
  (repeat' split) <;> simp
theorem execTdrecvWake_files (core : CoreRef) (s : State) : FileKept s (execTdrecvWake core s) := by
  refine fileKept_onUnit ?_
  dsimp only
  (repeat' split) <;> simp
theorem execHello_files (tile : Nat) (edge : EdgeWire) (code : BitVec 3) (s : State) : FileKept s (execHello tile edge code s) := by
  refine fileKept_onUnit ?_
  simp
theorem execBindRequest_files (b : BindReq) (s : State) : FileKept s (execBindRequest b s) := by
  refine fileKept_done ?_
  dsimp only
  (repeat' split) <;> simp
theorem execBindResponse_files (crew : BitVec 16) (modIdx : Nat) (status : BitVec 8) (result addr : Word) (s : State) : FileKept s (execBindResponse crew modIdx status result addr s) := by
  refine fileKept_done ?_
  dsimp only
  (repeat' split) <;> simp
theorem execDrawOff_files (crew : BitVec 16) (s : State) : FileKept s (execDrawOff crew s) := by
  refine fileKept_done ?_
  split <;> simp
theorem execDrawOffComplete_files (crew : BitVec 16) (s : State) : FileKept s (execDrawOffComplete crew s) := by
  refine fileKept_done ?_
  dsimp only
  (repeat' split) <;> simp
theorem execMarkComplete_files (crew : BitVec 16) (s : State) : FileKept s (execMarkComplete crew s) := by
  refine fileKept_done ?_
  dsimp only
  (repeat' split) <;> simp
theorem execCrewFaultReport_files (crew : BitVec 16) (cause : BitVec 8) (addr : Word) (member : Nat) (s : State) : FileKept s (execCrewFaultReport crew cause addr member s) := by
  refine fileKept_done ?_
  dsimp only
  (repeat' split) <;> simp
theorem execCrewFaultStop_files (crew : BitVec 16) (s : State) : FileKept s (execCrewFaultStop crew s) := by
  refine fileKept_done ?_
  dsimp only
  (repeat' split) <;> simp
theorem execRewind_files (crew : BitVec 16) (s : State) : FileKept s (execRewind crew s) := by
  refine fileKept_done ?_
  split <;> simp
theorem execSelectionDecide_files (crew : BitVec 16) (cls : BitVec 3) (e : BitVec 48) (s : State) : FileKept s (execSelectionDecide crew cls e s) := by
  refine fileKept_done ?_
  dsimp only
  (repeat' split) <;> simp
theorem execSelectionSwitch_files (crew : BitVec 16) (s : State) : FileKept s (execSelectionSwitch crew s) := by
  refine fileKept_done ?_
  split <;> simp
theorem execAllowChange_files (crew : BitVec 16) (modIdx : Nat) (allow : BitVec 16) (s : State) : FileKept s (execAllowChange crew modIdx allow s) := by
  refine fileKept_done ?_
  dsimp only
  (repeat' split) <;> simp
theorem execSchedulerPass_files (s : State) : FileKept s (execSchedulerPass s) := by
  refine fileKept_done ?_
  simp
theorem execAgeTick_files (s : State) : FileKept s (execAgeTick s) := by
  refine fileKept_done ?_
  simp
theorem execPowerLimitRelease_files (mean : Nat) (s : State) : FileKept s (execPowerLimitRelease mean s) := by
  refine fileKept_done ?_
  simp
theorem execVoltageReplan_files (rx ry : Nat) (slackPs : Nat) (s : State) : FileKept s (execVoltageReplan rx ry slackPs s) := by
  refine fileKept_onUnit ?_
  simp
theorem execGreetingPhase_files (s : State) : FileKept s (execGreetingPhase s) := by
  refine fileKept_done ?_
  (repeat' split) <;> simp
theorem execCoreRailLoss_files (rx ry : Nat) (s : State) : FileKept s (execCoreRailLoss rx ry s) := by
  refine fileKept_onUnit ?_
  simp
theorem execCoreRailReturn_files (rx ry : Nat) (s : State) : FileKept s (execCoreRailReturn rx ry s) := by
  refine fileKept_onUnit ?_
  dsimp only
  (repeat' split) <;> simp
theorem execTransitRailLoss_files (rx ry : Nat) (s : State) : FileKept s (execTransitRailLoss rx ry s) := by
  refine fileKept_onUnit ?_
  simp
theorem execTransitConverterLoss_files (rx ry : Nat) (second : Bool) (s : State) : FileKept s (execTransitConverterLoss rx ry second s) := by
  refine fileKept_onUnit ?_
  dsimp only
  (repeat' split) <;> simp
theorem execFrameSend_files (tl : Nat) (s : State) : FileKept s (execFrameSend tl s) := by
  refine fileKept_onUnit ?_
  dsimp only
  (repeat' split) <;> simp
theorem execFrameReplay_files (tl : Nat) (seq : BitVec 12) (s : State) : FileKept s (execFrameReplay tl seq s) := by
  refine fileKept_onUnit ?_
  dsimp only
  (repeat' split) <;> simp
theorem execLaneRotationStep_files (d : TowDir) (differ : Bool) (s : State) : FileKept s (execLaneRotationStep d differ s) := by
  refine fileKept_onUnit ?_
  dsimp only
  (repeat' split) <;> simp
theorem execWeakLane_files (d : TowDir) (lane : Nat) (s : State) : FileKept s (execWeakLane d lane s) := by
  refine fileKept_onUnit ?_
  simp
theorem execLaneSignalLoss_files (d : TowDir) (lane : Nat) (s : State) : FileKept s (execLaneSignalLoss d lane s) := by
  refine fileKept_onUnit ?_
  simp
theorem execSubmit_files (port off : Nat) (data : List Byte) (s : State) : FileKept s (execSubmit port off data s) := by
  refine fileKept_onUnit ?_
  (repeat' split) <;> simp
theorem execCqheadWrite_files (port off : Nat) (val : Word) (s : State) : FileKept s (execCqheadWrite port off val s) := by
  refine fileKept_onUnit ?_
  (repeat' split) <;> simp
theorem execCompletionWrite_files (qid : Nat) (s : State) : FileKept s (execCompletionWrite qid s) := by
  refine fileKept_done ?_
  simp
theorem execLhctlRestart_files (port : Nat) (val : Word) (s : State) : FileKept s (execLhctlRestart port val s) := by
  refine fileKept_onUnit ?_
  simp
theorem execBar0Write_files (port off : Nat) (val : Word) (s : State) : FileKept s (execBar0Write port off val s) := by
  refine fileKept_onUnit ?_
  simp
theorem execVoteCommit_files (m : Voted) (addr : Nat) (c0 c1 c2 : Option Word) (s : State) : FileKept s (execVoteCommit m addr c0 c1 c2 s) := by
  refine fileKept_onUnit ?_
  simp
theorem execVoteTimeout_files (m : Voted) (addr : Nat) (c0 c1 c2 : Option Word) (s : State) : FileKept s (execVoteTimeout m addr c0 c1 c2 s) := by
  refine fileKept_onUnit ?_
  simp
theorem execResyncDone_files (s : State) : FileKept s (execResyncDone s) := by
  refine fileKept_done ?_
  simp
theorem State.command_files (s : State) (c : HostCmd) (admin : Bool) (ops : List Fields) (f : State → State) (flags : BitVec 8)
    (h : ∀ s, tileFiles (f s).tiles = tileFiles s.tiles ∧ feederFiles (f s).feeders = feederFiles s.feeders) : FileKept s (s.command c admin ops f flags) := by
  refine fileKept_done ?_
  split
  · exact State.deny_files ..
  · split
    · exact State.deny_files ..
    · exact h s
theorem execIdentify_files (c : HostCmd) (s : State) : FileKept s (execIdentify c s) := by
  refine State.command_files _ _ _ _ _ _ fun s => ?_
  repeat' (first | with_reducible rfl | (simp; done) | split | (refine State.withRead_both _ _ _ _ _ ?_; intro _ _) | (refine State.withAccess_both _ _ _ _ _ ?_; intro _) | (refine State.takeStep_both _ _ _ _ ?_; intro _ _) | (refine State.writeStep_both _ _ _ _ _ ?_; intro _) | (refine State.ticketWord_both _ _ _ _ _ ?_; intro _) | (refine State.withBuffer_both _ _ _ _ _ ?_; intro _) | (refine foldl_files _ _ _ ?_; intro _ _) | simp | (rename_i heq; have hm := congrArg (fun p => (tileFiles (Prod.snd p).tiles, feederFiles (Prod.snd p).feeders)) heq; simp at hm; simp [← hm.1, ← hm.2]; done) | constructor)
theorem execCreateQueue_files (c : HostCmd) (s : State) : FileKept s (execCreateQueue c s) := by
  refine State.command_files _ _ _ _ _ _ fun s => ?_
  simp
theorem execDeleteQueue_files (c : HostCmd) (s : State) : FileKept s (execDeleteQueue c s) := by
  refine State.command_files _ _ _ _ _ _ fun s => ?_
  dsimp only
  (repeat' split) <;> simp
theorem execQueryQueue_files (c : HostCmd) (s : State) : FileKept s (execQueryQueue c s) := by
  refine State.command_files _ _ _ _ _ _ fun s => ?_
  dsimp only
  (repeat' split) <;> simp
theorem execEvents_files (c : HostCmd) (s : State) : FileKept s (execEvents c s) := by
  refine State.command_files _ _ _ _ _ _ fun s => ?_
  exact ⟨(State.completeOk_files ..).1.trans (State.ringChanged_files ..).1, (State.completeOk_files ..).2.trans (State.ringChanged_files ..).2⟩
theorem execAspaceCreate_files (c : HostCmd) (s : State) : FileKept s (execAspaceCreate c s) := by
  refine State.command_files _ _ _ _ _ _ fun s => ?_
  simp
theorem execAspaceDestroy_files (c : HostCmd) (s : State) : FileKept s (execAspaceDestroy c s) := by
  refine State.command_files _ _ _ _ _ _ fun s => ?_
  simp
@[simp] theorem State.mapStep_files (s : State) (e : PageMap) (k : Nat) (x : Option (BitVec 8 × Nat)) :
    tileFiles (s.mapStep e k x).1.tiles = tileFiles s.tiles ∧ feederFiles (s.mapStep e k x).1.feeders = feederFiles s.feeders := by
  cases x
  · exact State.restPage_files ..
  · exact ⟨rfl, rfl⟩
@[simp] theorem State.mapOne_files (s : State) (e : PageMap) (k : Nat) :
    tileFiles (s.mapOne e k).1.tiles = tileFiles s.tiles ∧ feederFiles (s.mapOne e k).1.feeders = feederFiles s.feeders := by
  exact State.mapStep_files ..
theorem foldl_mapOne_files (e : PageMap) (l : List Nat) (x : State × Option (BitVec 8 × Nat × Nat)) :
    tileFiles (l.foldl (fun x k => if x.2.isSome then x else x.1.mapOne e k) x).1.tiles = tileFiles x.1.tiles ∧
    feederFiles (l.foldl (fun x k => if x.2.isSome then x else x.1.mapOne e k) x).1.feeders = feederFiles x.1.feeders := by
  induction l generalizing x with
  | nil => exact ⟨rfl, rfl⟩
  | cons k r ih => exact ⟨(ih _).1.trans (by dsimp only; split <;> simp), (ih _).2.trans (by dsimp only; split <;> simp)⟩
@[simp] theorem State.mapFrom_files (s : State) (e : PageMap) (n : Nat) :
    tileFiles (s.mapFrom e n).1.tiles = tileFiles s.tiles ∧ feederFiles (s.mapFrom e n).1.feeders = feederFiles s.feeders :=
  foldl_mapOne_files e _ (s, none)
@[simp] theorem State.unmapFrom_files (s : State) (asid : BitVec 16) (n page k : Nat) :
    tileFiles (s.unmapFrom asid n page k).1.tiles = tileFiles s.tiles ∧ feederFiles (s.unmapFrom asid n page k).1.feeders = feederFiles s.feeders := by
  induction n generalizing s page k with
  | zero => exact ⟨rfl, rfl⟩
  | succ n ih =>
    unfold State.unmapFrom
    split
    · exact ih _ _ _
    · split
      · exact ⟨rfl, rfl⟩
      · exact ⟨(ih _ _ _).1.trans (State.dropEntries_files _ _ _).1, (ih _ _ _).2.trans (State.dropEntries_files _ _ _).2⟩
theorem execMapPages_files (c : HostCmd) (s : State) : FileKept s (execMapPages c s) := by
  refine State.command_files _ _ _ _ _ _ fun s => ?_
  dsimp only
  split
  · exact State.deny_files ..
  · split
    · exact State.deny_files ..
    · split <;> rename_i h <;> have hm := congrArg (fun p => (tileFiles (Prod.fst p).tiles, feederFiles (Prod.fst p).feeders)) h <;>
        simp only [State.mapFrom_files, Prod.mk.injEq] at hm
      · exact ⟨(State.completeOk_files ..).1.trans hm.1.symm, (State.completeOk_files ..).2.trans hm.2.symm⟩
      · exact ⟨(State.complete_files ..).1.trans hm.1.symm, (State.complete_files ..).2.trans hm.2.symm⟩
theorem execUnmapPages_files (c : HostCmd) (s : State) : FileKept s (execUnmapPages c s) := by
  refine State.command_files _ _ _ _ _ _ fun s => ?_
  dsimp only
  split
  · exact State.deny_files ..
  · split <;> rename_i h <;> have hm := congrArg (fun p => (tileFiles (Prod.fst p).tiles, feederFiles (Prod.fst p).feeders)) h <;>
      simp only [State.unmapFrom_files, Prod.mk.injEq] at hm
    · exact ⟨(State.completeOk_files ..).1.trans hm.1.symm, (State.completeOk_files ..).2.trans hm.2.symm⟩
    · exact ⟨(State.complete_files ..).1.trans hm.1.symm, (State.complete_files ..).2.trans hm.2.symm⟩
theorem execCopyIn_files (c : HostCmd) (s : State) : FileKept s (execCopyIn c s) := by
  refine State.command_files _ _ _ _ _ _ fun s => ?_
  dsimp only
  split
  · exact State.deny_files ..
  · refine State.withBuffer_both _ _ _ _ _ fun s => ?_
    split
    · split
      · exact ⟨(State.complete_files ..).1.trans rfl, (State.complete_files ..).2.trans rfl⟩
      · exact ⟨(State.completeOk_files ..).1.trans rfl, (State.completeOk_files ..).2.trans rfl⟩
    · split
      · exact State.complete_files ..
      · refine (fun h => ⟨(State.completeOk_files ..).1.trans h.1, (State.completeOk_files ..).2.trans h.2⟩) (foldl_files _ _ _ fun s p => State.copyPut_files ..)
theorem State.copyOutAll_files (s : State) (asid : BitVec 16) (host a : Word) (l : List (Nat × Nat)) :
    tileFiles (s.copyOutAll asid host a l).1.tiles = tileFiles s.tiles ∧ feederFiles (s.copyOutAll asid host a l).1.feeders = feederFiles s.feeders := by
  induction l generalizing s with
  | nil => exact ⟨rfl, rfl⟩
  | cons p r ih =>
    unfold State.copyOutAll
    dsimp only
    split
    · exact State.hostWrite_files s ..
    · exact ⟨(ih _).1.trans (State.hostWrite_files s ..).1, (ih _).2.trans (State.hostWrite_files s ..).2⟩
@[simp] theorem State.copied_files (s : State) (c : HostCmd) (x : Option Word) :
    tileFiles (s.copyOutDone c x).tiles = tileFiles s.tiles ∧ feederFiles (s.copyOutDone c x).feeders = feederFiles s.feeders := by
  cases x
  · exact State.completeOk_files ..
  · exact State.complete_files ..
theorem State.copyOutHere_files (s : State) (c : HostCmd) (n : Nat) (x : Option (BitVec 8 × Word)) :
    tileFiles (s.copyOutHere c n x).tiles = tileFiles s.tiles ∧ feederFiles (s.copyOutHere c n x).feeders = feederFiles s.feeders := by
  cases x
  · exact ⟨(State.copied_files ..).1.trans (State.copyOutAll_files ..).1, (State.copied_files ..).2.trans (State.copyOutAll_files ..).2⟩
  · exact State.complete_files ..
theorem execCopyOut_files (c : HostCmd) (s : State) : FileKept s (execCopyOut c s) := by
  refine State.command_files _ _ _ _ _ _ fun s => ?_
  split
  · exact State.deny_files ..
  · refine State.withBuffer_both _ _ _ _ _ fun s => ?_
    split
    · exact State.copyOutFar_files ..
    · exact State.copyOutHere_files ..
theorem execLaunch_files (c : HostCmd) (s : State) : FileKept s (execLaunch c s) := by
  refine State.command_files _ _ _ _ _ _ fun s => ?_
  split
  · exact State.deny_files ..
  · exact State.startBind_files ..
theorem execKill_files (c : HostCmd) (s : State) : FileKept s (execKill c s) := by
  refine State.command_files _ _ _ _ _ _ fun s => ?_
  dsimp only
  (repeat' split) <;> simp
theorem execDraw_files (c : HostCmd) (s : State) : FileKept s (execDraw c s) := by
  refine State.command_files _ _ _ _ _ _ fun s => ?_
  dsimp only
  (repeat' split) <;> simp
theorem execResume_files (c : HostCmd) (s : State) : FileKept s (execResume c s) := by
  refine State.command_files _ _ _ _ _ _ fun s => ?_
  split
  · exact State.deny_files ..
  · dsimp only
    split
    · exact State.deny_files ..
    · split
      · split
        · exact State.startBind_files ..
        · exact ⟨(State.startBind_files ..).1, (State.startBind_files ..).2⟩
      · exact State.startBind_files ..
theorem execDiscard_files (c : HostCmd) (s : State) : FileKept s (execDiscard c s) := by
  refine State.command_files _ _ _ _ _ _ fun s => ?_
  split <;> simp
theorem execCrewStatus_files (c : HostCmd) (s : State) : FileKept s (execCrewStatus c s) := by
  refine State.command_files _ _ _ _ _ _ fun s => ?_
  repeat' (first | with_reducible rfl | (simp; done) | split | (refine State.withRead_both _ _ _ _ _ ?_; intro _ _) | (refine State.withAccess_both _ _ _ _ _ ?_; intro _) | (refine State.takeStep_both _ _ _ _ ?_; intro _ _) | (refine State.writeStep_both _ _ _ _ _ ?_; intro _) | (refine State.ticketWord_both _ _ _ _ _ ?_; intro _) | (refine State.withBuffer_both _ _ _ _ _ ?_; intro _) | (refine foldl_files _ _ _ ?_; intro _ _) | simp | (rename_i heq; have hm := congrArg (fun p => (tileFiles (Prod.snd p).tiles, feederFiles (Prod.snd p).feeders)) heq; simp at hm; simp [← hm.1, ← hm.2]; done) | constructor)
theorem execCalibrate_files (c : HostCmd) (s : State) : FileKept s (execCalibrate c s) := by
  refine State.command_files _ _ _ _ _ _ fun s => ?_
  repeat' (first | with_reducible rfl | (simp; done) | split | (refine State.withRead_both _ _ _ _ _ ?_; intro _ _) | (refine State.withAccess_both _ _ _ _ _ ?_; intro _) | (refine State.takeStep_both _ _ _ _ ?_; intro _ _) | (refine State.writeStep_both _ _ _ _ _ ?_; intro _) | (refine State.ticketWord_both _ _ _ _ _ ?_; intro _) | (refine State.withBuffer_both _ _ _ _ _ ?_; intro _) | (refine foldl_files _ _ _ ?_; intro _ _) | simp | (rename_i heq; have hm := congrArg (fun p => (tileFiles (Prod.snd p).tiles, feederFiles (Prod.snd p).feeders)) heq; simp at hm; simp [← hm.1, ← hm.2]; done) | constructor)
theorem execRoute_files (c : HostCmd) (s : State) : FileKept s (execRoute c s) := by
  refine State.command_files _ _ _ _ _ _ fun s => ?_
  dsimp only
  split
  · exact State.deny_files ..
  · refine State.withBuffer_both _ _ _ _ _ fun s => ?_
    split
    · exact State.completeOk_files ..
    · exact State.deny_files ..
theorem execPoundDefine_files (c : HostCmd) (s : State) : FileKept s (execPoundDefine c s) := by
  refine State.command_files _ _ _ _ _ _ fun s => ?_
  simp
theorem execPoundFence_files (c : HostCmd) (s : State) : FileKept s (execPoundFence c s) := by
  refine State.command_files _ _ _ _ _ _ fun s => ?_
  simp
theorem execPoundReset_files (c : HostCmd) (s : State) : FileKept s (execPoundReset c s) := by
  refine State.command_files _ _ _ _ _ _ fun s => ?_
  simp
theorem execPoundRelease_files (c : HostCmd) (s : State) : FileKept s (execPoundRelease c s) := by
  refine State.command_files _ _ _ _ _ _ fun s => ?_
  simp
theorem execPoundFenceEffect_files (pound : Nat) (s : State) : FileKept s (execPoundFenceEffect pound s) := by
  refine fileKept_done ?_
  split <;> simp
theorem execPower_files (c : HostCmd) (s : State) : FileKept s (execPower c s) := by
  refine State.command_files _ _ _ _ _ _ fun s => ?_
  simp
theorem execReadLog_files (c : HostCmd) (s : State) : FileKept s (execReadLog c s) := by
  refine State.command_files _ _ _ _ _ _ fun s => ?_
  dsimp only
  split
  · exact State.deny_files ..
  · refine State.withBuffer_both _ _ _ _ _ fun s => ?_
    simp
theorem execFwStage_files (c : HostCmd) (s : State) : FileKept s (execFwStage c s) := by
  refine State.command_files _ _ _ _ _ _ fun s => ?_
  dsimp only
  split
  · exact State.deny_files ..
  · refine State.withBuffer_both _ _ _ _ _ fun s => ?_
    split
    · exact State.complete_files ..
    · exact State.completeOk_files ..
theorem execAttest_files (c : HostCmd) (s : State) : FileKept s (execAttest c s) := by
  refine State.command_files _ _ _ _ _ _ fun s => ?_
  extract_lets chain n
  split
  · exact State.deny_files ..
  · refine State.withBuffer_both _ _ _ _ _ fun s => State.withBuffer_both _ _ _ _ _ fun s => ?_
    exact ⟨(State.completeOk_files ..).1.trans (State.hostWrite_files ..).1, (State.completeOk_files ..).2.trans (State.hostWrite_files ..).2⟩
theorem scalar_files (i : Instr) (s : State) (n : Nat) (d : Reg) (f : State → Word) : FileKept s (scalar i s n d f) := by
  refine fileKept_guarded fun s => ?_
  simp
theorem division_files (i : Instr) (s : State) (d b : Reg) (f : State → Word) : FileKept s (division i s d b f) := by
  refine fileKept_guarded fun s => ?_
  simp
theorem execAdd_files (d a b : Reg) (s : State) : FileKept s (execAdd d a b s) :=
  scalar_files _ _ _ _ _
theorem execSub_files (d a b : Reg) (s : State) : FileKept s (execSub d a b s) :=
  scalar_files _ _ _ _ _
theorem execAddi_files (d a : Reg) (imm : BitVec 32) (s : State) : FileKept s (execAddi d a imm s) :=
  scalar_files _ _ _ _ _
theorem execMul_files (d a b : Reg) (s : State) : FileKept s (execMul d a b s) :=
  scalar_files _ _ _ _ _
theorem execMulh_files (d a b : Reg) (s : State) : FileKept s (execMulh d a b s) :=
  scalar_files _ _ _ _ _
theorem execMulhsu_files (d a b : Reg) (s : State) : FileKept s (execMulhsu d a b s) :=
  scalar_files _ _ _ _ _
theorem execDiv_files (d a b : Reg) (s : State) : FileKept s (execDiv d a b s) :=
  division_files _ _ _ _ _
theorem execDivu_files (d a b : Reg) (s : State) : FileKept s (execDivu d a b s) :=
  division_files _ _ _ _ _
theorem execRem_files (d a b : Reg) (s : State) : FileKept s (execRem d a b s) :=
  division_files _ _ _ _ _
theorem execRemu_files (d a b : Reg) (s : State) : FileKept s (execRemu d a b s) :=
  division_files _ _ _ _ _
theorem execAnd_files (d a b : Reg) (s : State) : FileKept s (execAnd d a b s) :=
  scalar_files _ _ _ _ _
theorem execOr_files (d a b : Reg) (s : State) : FileKept s (execOr d a b s) :=
  scalar_files _ _ _ _ _
theorem execXor_files (d a b : Reg) (s : State) : FileKept s (execXor d a b s) :=
  scalar_files _ _ _ _ _
theorem execAndn_files (d a b : Reg) (s : State) : FileKept s (execAndn d a b s) :=
  scalar_files _ _ _ _ _
theorem execAndi_files (d a : Reg) (imm : BitVec 32) (s : State) : FileKept s (execAndi d a imm s) :=
  scalar_files _ _ _ _ _
theorem execOri_files (d a : Reg) (imm : BitVec 32) (s : State) : FileKept s (execOri d a imm s) :=
  scalar_files _ _ _ _ _
theorem execXori_files (d a : Reg) (imm : BitVec 32) (s : State) : FileKept s (execXori d a imm s) :=
  scalar_files _ _ _ _ _
theorem execShl_files (d a b : Reg) (s : State) : FileKept s (execShl d a b s) :=
  scalar_files _ _ _ _ _
theorem execShr_files (d a b : Reg) (s : State) : FileKept s (execShr d a b s) :=
  scalar_files _ _ _ _ _
theorem execSha_files (d a b : Reg) (s : State) : FileKept s (execSha d a b s) :=
  scalar_files _ _ _ _ _
theorem execShli_files (d a : Reg) (n : BitVec 6) (s : State) : FileKept s (execShli d a n s) :=
  scalar_files _ _ _ _ _
theorem execShri_files (d a : Reg) (n : BitVec 6) (s : State) : FileKept s (execShri d a n s) :=
  scalar_files _ _ _ _ _
theorem execShai_files (d a : Reg) (n : BitVec 6) (s : State) : FileKept s (execShai d a n s) :=
  scalar_files _ _ _ _ _
theorem execRot_files (d a b : Reg) (s : State) : FileKept s (execRot d a b s) :=
  scalar_files _ _ _ _ _
theorem execMin_files (d a b : Reg) (s : State) : FileKept s (execMin d a b s) :=
  scalar_files _ _ _ _ _
theorem execMax_files (d a b : Reg) (s : State) : FileKept s (execMax d a b s) :=
  scalar_files _ _ _ _ _
theorem execMinu_files (d a b : Reg) (s : State) : FileKept s (execMinu d a b s) :=
  scalar_files _ _ _ _ _
theorem execMaxu_files (d a b : Reg) (s : State) : FileKept s (execMaxu d a b s) :=
  scalar_files _ _ _ _ _
theorem execSlt_files (d a b : Reg) (s : State) : FileKept s (execSlt d a b s) :=
  scalar_files _ _ _ _ _
theorem execSltu_files (d a b : Reg) (s : State) : FileKept s (execSltu d a b s) :=
  scalar_files _ _ _ _ _
theorem execSeq_files (d a b : Reg) (s : State) : FileKept s (execSeq d a b s) :=
  scalar_files _ _ _ _ _
theorem execSel_files (d a b c : Reg) (s : State) : FileKept s (execSel d a b c s) :=
  scalar_files _ _ _ _ _
theorem execClz_files (d a : Reg) (s : State) : FileKept s (execClz d a s) :=
  scalar_files _ _ _ _ _
theorem execCtz_files (d a : Reg) (s : State) : FileKept s (execCtz d a s) :=
  scalar_files _ _ _ _ _
theorem execPopc_files (d a : Reg) (s : State) : FileKept s (execPopc d a s) :=
  scalar_files _ _ _ _ _
theorem execLi_files (d : Reg) (imm : BitVec 42) (s : State) : FileKept s (execLi d imm s) :=
  scalar_files _ _ _ _ _
theorem execLih_files (d : Reg) (imm : BitVec 22) (s : State) : FileKept s (execLih d imm s) :=
  scalar_files _ _ _ _ _
theorem execAddx_files (d a b : Reg) (n : BitVec 3) (s : State) : FileKept s (execAddx d a b n s) :=
  scalar_files _ _ _ _ _
theorem execExtb_files (sgn : Bool) (d a : Reg) (pos lenM1 : BitVec 6) (s : State) : FileKept s (execExtb sgn d a pos lenM1 s) :=
  scalar_files _ _ _ _ _
theorem execInsb_files (d a : Reg) (pos lenM1 : BitVec 6) (s : State) : FileKept s (execInsb d a pos lenM1 s) :=
  scalar_files _ _ _ _ _
theorem execKmovToK_files (d : KReg) (a : Reg) (s : State) : FileKept s (execKmovToK d a s) := by
  refine fileKept_guarded fun s => ?_
  simp
theorem execKmovToG_files (d : Reg) (a : KReg) (s : State) : FileKept s (execKmovToG d a s) :=
  scalar_files _ _ _ _ _
theorem execKop_files (op : KopOp) (d a b : KReg) (s : State) : FileKept s (execKop op d a b s) := by
  refine fileKept_guarded fun s => ?_
  simp
theorem files_trans {s t u : State} (h : tileFiles u.tiles = tileFiles t.tiles ∧ feederFiles u.feeders = feederFiles t.feeders)
    (a : tileFiles t.tiles = tileFiles s.tiles ∧ feederFiles t.feeders = feederFiles s.feeders) :
    tileFiles u.tiles = tileFiles s.tiles ∧ feederFiles u.feeders = feederFiles s.feeders := ⟨h.1.trans a.1, h.2.trans a.2⟩
theorem execCrewStart_files (crew : BitVec 16) (s : State) : FileKept s (execCrewStart crew s) := by
  refine fileKept_done ?_
  split
  · exact ⟨rfl, rfl⟩
  · dsimp only
    split
    · exact ⟨rfl, rfl⟩
    · refine files_trans (foldl_files _ _ _ fun s b => ?_) ?_
      · split
        · rename_i t h; exact execInjectionModulate_files b.1 b.2 s t h
        · exact ⟨rfl, rfl⟩
      · split <;> split <;> simp
theorem State.unlessHalted_files (s : State) (f : State → State) (hf : tileFiles (f s).tiles = tileFiles s.tiles ∧ feederFiles (f s).feeders = feederFiles s.feeders) : tileFiles (s.unlessHalted f).tiles = tileFiles s.tiles ∧ feederFiles (s.unlessHalted f).feeders = feederFiles s.feeders := by
  unfold State.unlessHalted
  split
  · exact ⟨rfl, rfl⟩
  · exact hf
theorem execPowerWarning_files (mean : Nat) (s : State) : FileKept s (execPowerWarning mean s) := by
  refine fileKept_done ?_
  split
  · exact ⟨rfl, rfl⟩
  · exact files_trans (State.unlessHalted_files _ _ (by simp)) (by simp)
theorem execPowerLimit_files (mean : Nat) (s : State) : FileKept s (execPowerLimit mean s) := by
  refine fileKept_done ?_
  split
  · exact ⟨rfl, rfl⟩
  · exact files_trans (State.unlessHalted_files _ _ (by simp)) (by simp)
theorem execThermalWarning_files (x : Sensor) (s : State) : FileKept s (execThermalWarning x s) := by
  refine fileKept_onUnit (files_trans (State.unlessHalted_files _ _ ?_) (by simp))
  dsimp only
  exact files_trans (foldl_files _ _ _ fun _ _ => by simp) (by simp)
theorem execThermalLimit_files (x : Sensor) (s : State) : FileKept s (execThermalLimit x s) :=
  fileKept_onUnit (files_trans (State.unlessHalted_files _ _ (by simp)) (by simp))
theorem execFrameReceive_files (tl : Nat) (fr : Frame) (bad : Bool) (s : State) : FileKept s (execFrameReceive tl fr bad s) := by
  refine fileKept_onUnit ?_
  dsimp only
  split
  · exact ⟨rfl, rfl⟩
  · split
    · split <;> simp
    · refine files_trans (foldl_files _ _ _ fun s y => ?_) ?_
      · unfold State.takeSlot
        split <;> simp
      · simp
@[simp] theorem State.catchUp_files (s : State) : tileFiles (s.catchUp).tiles = tileFiles s.tiles ∧ feederFiles (s.catchUp).feeders = feederFiles s.feeders := by
  unfold State.catchUp
  extract_lets mail src s1 s2
  refine files_trans (State.soon_files ..) (files_trans (t := s1) (foldl_files _ _ _ fun s y => ?_) ?_)
  · simp
  · refine files_trans (t := { s with lh := { s.lh with mail := [] } }) (foldl_files _ _ _ fun s y => ?_) ⟨rfl, rfl⟩
    simp
theorem execLockhouseRestartDone_files (agree : Bool) (s : State) : FileKept s (execLockhouseRestartDone agree s) := by
  refine fileKept_done ?_
  split
  · exact ⟨rfl, rfl⟩
  · split
    · simp
    · dsimp only
      refine files_trans (State.catchUp_files _) ?_
      (repeat' split) <;> simp
end Sys2Proof.Machine
end

