-- ==== Sys2Proof/Laws/Memory.lean ====
section
/-! SUPPORT. The laws of the memory list: a byte written reads back, other bytes keep their value, and every operation keeps the
canonical form. -/

namespace Sys2Proof.Machine

theorem cellsFrom_mono {lo lo' : Nat} {m : List Host.Cell} (h : lo ≤ lo') (w : cellsFrom lo' m = true) : cellsFrom lo m = true := by
  cases m with
  | nil => rfl
  | cons c r =>
    simp only [cellsFrom, Bool.and_eq_true, decide_eq_true_eq] at w ⊢
    exact ⟨⟨by omega, w.1.2⟩, w.2⟩

/-- A key below every listed key reads as zero. -/
theorem readCell_below {lo k : Nat} {m : List Host.Cell} (w : cellsFrom lo m = true) (h : k < lo) : readCell m k = 0 := by
  cases m with
  | nil => rfl
  | cons c r =>
    simp only [cellsFrom, Bool.and_eq_true, decide_eq_true_eq] at w
    have h1 : c.1 ≠ k := by omega
    have h2 : k < c.1 := by omega
    simp [readCell, h1, h2]

theorem cellsFrom_writeCell {lo k : Nat} {m : List Host.Cell} (v : Byte) (w : cellsFrom lo m = true) (h : lo ≤ k) :
    cellsFrom lo (writeCell m k v) = true := by
  induction m generalizing lo with
  | nil => unfold writeCell; split <;> simp_all [cellsFrom]
  | cons c r ih =>
    simp only [cellsFrom, Bool.and_eq_true, decide_eq_true_eq] at w
    obtain ⟨⟨hl, hb⟩, hr⟩ := w
    unfold writeCell
    split
    · split
      · simp only [cellsFrom, Bool.and_eq_true, decide_eq_true_eq]; exact ⟨⟨hl, hb⟩, hr⟩
      · simp_all [cellsFrom] <;> omega
    · split
      · subst k
        split
        · exact cellsFrom_mono (by omega) hr
        · simp_all [cellsFrom]
      · simp only [cellsFrom, Bool.and_eq_true, decide_eq_true_eq]
        exact ⟨⟨hl, hb⟩, ih hr (by omega)⟩

/-- Writing a byte keeps the canonical form. -/
@[simp] theorem wf_writeCell {m : List Host.Cell} (k : Nat) (v : Byte) (w : Memory.wf m = true) : Memory.wf (writeCell m k v) = true :=
  cellsFrom_writeCell v w (Nat.zero_le k)

/-- Writing bytes keeps the canonical form. -/
@[simp] theorem wf_writeCells {m : List Host.Cell} (bs : List (Nat × Byte)) (w : Memory.wf m = true) : Memory.wf (writeCells m bs) = true := by
  induction bs generalizing m with
  | nil => exact w
  | cons b r ih => exact ih (wf_writeCell b.1 b.2 w)

theorem cellsFrom_filter {lo : Nat} {m : List Host.Cell} (p : Host.Cell → Bool) (w : cellsFrom lo m = true) :
    cellsFrom lo (m.filter p) = true := by
  induction m generalizing lo with
  | nil => rfl
  | cons c r ih =>
    simp only [cellsFrom, Bool.and_eq_true, decide_eq_true_eq] at w
    obtain ⟨⟨hl, hb⟩, hr⟩ := w
    rw [List.filter_cons]
    split
    · simp only [cellsFrom, Bool.and_eq_true, decide_eq_true_eq]; exact ⟨⟨hl, hb⟩, ih hr⟩
    · exact cellsFrom_mono (by omega) (ih hr)

/-- Removing cells keeps the canonical form. -/
@[simp] theorem wf_filter {m : List Host.Cell} (p : Host.Cell → Bool) (w : Memory.wf m = true) : Memory.wf (m.filter p) = true :=
  cellsFrom_filter p w

theorem wf_clearCells {m : List Host.Cell} (lo hi : Nat) (w : Memory.wf m = true) : Memory.wf (clearCells m lo hi) = true :=
  wf_filter _ w

/-- A byte just written reads back. -/
@[simp] theorem readCell_writeCell_same {lo : Nat} {m : List Host.Cell} (k : Nat) (v : Byte) (w : cellsFrom lo m = true) :
    readCell (writeCell m k v) k = v := by
  induction m generalizing lo with
  | nil => unfold writeCell; split <;> simp_all [readCell]
  | cons c r ih =>
    simp only [cellsFrom, Bool.and_eq_true, decide_eq_true_eq] at w
    obtain ⟨⟨hl, hb⟩, hr⟩ := w
    unfold writeCell
    split
    · rename_i hk
      have h1 : c.1 ≠ k := by omega
      split
      · rename_i hv; simp [readCell, h1, hk, hv]
      · simp [readCell]
    · split
      · rename_i hk hv
        split
        · rename_i hz; rw [hz]; exact readCell_below hr (by omega)
        · simp [readCell]
      · rename_i hk hne
        have h1 : c.1 ≠ k := fun e => hne e.symm
        have h2 : ¬ k < c.1 := hk
        simp only [readCell, h1, h2, if_false]; exact ih hr

/-- Other bytes keep their value. -/
theorem readCell_writeCell_other {lo : Nat} {m : List Host.Cell} {k j : Nat} (v : Byte) (w : cellsFrom lo m = true) (h : j ≠ k) :
    readCell (writeCell m k v) j = readCell m j := by
  induction m generalizing lo with
  | nil =>
    by_cases hv : v = 0
    · simp [writeCell, hv]
    · simp only [writeCell, hv, if_false, readCell]
      have : k ≠ j := fun e => h e.symm
      simp [this]
  | cons c r ih =>
    simp only [cellsFrom, Bool.and_eq_true, decide_eq_true_eq] at w
    obtain ⟨⟨hl, hb⟩, hr⟩ := w
    have hkj : k ≠ j := fun e => h e.symm
    unfold writeCell
    split
    · rename_i hk
      split
      · rfl
      · by_cases hj : j < k
        · have h1 : c.1 ≠ j := by omega
          have h2 : j < c.1 := by omega
          simp [readCell, hkj, hj, h1, h2]
        · simp [readCell, hkj, hj]
    · split
      · rename_i hk hv
        subst hv
        split
        · by_cases hj : j < c.1
          · rw [readCell_below hr (by omega)]; simp [readCell, hkj, hj]
          · simp [readCell, hkj, hj]
        · simp [readCell, hkj]
      · by_cases h1 : c.1 = j
        · simp [readCell, h1]
        · by_cases h2 : j < c.1
          · simp [readCell, h1, h2]
          · simp only [readCell, h1, h2, if_false]; exact ih hr

/-- Bytes outside the keys written keep their value. -/
theorem readCell_writeCells_other {m : List Host.Cell} {bs : List (Nat × Byte)} {j : Nat} (w : Memory.wf m = true)
    (h : ∀ b ∈ bs, b.1 ≠ j) : readCell (writeCells m bs) j = readCell m j := by
  induction bs generalizing m with
  | nil => rfl
  | cons b r ih =>
    have h1 : readCell (writeCells (writeCell m b.1 b.2) r) j = readCell (writeCell m b.1 b.2) j :=
      ih (wf_writeCell b.1 b.2 w) (fun x hx => h x (List.mem_cons_of_mem _ hx))
    exact h1.trans (readCell_writeCell_other b.2 w (fun e => h b List.mem_cons_self e.symm))

/-- Two canonical memories that read alike are the same list. -/
theorem eq_of_readCell {lo : Nat} {m n : List Host.Cell} (w : cellsFrom lo m = true) (v : cellsFrom lo n = true)
    (h : ∀ k, readCell m k = readCell n k) : m = n := by
  induction m generalizing lo n with
  | nil =>
    cases n with
    | nil => rfl
    | cons d q =>
      have := h d.1
      simp_all [readCell, cellsFrom]
  | cons c r ih =>
    simp only [cellsFrom, Bool.and_eq_true, decide_eq_true_eq, bne_iff_ne] at w
    obtain ⟨⟨hl, hb⟩, hr⟩ := w
    cases n with
    | nil => have := h c.1; simp_all [readCell]
    | cons d q =>
      simp only [cellsFrom, Bool.and_eq_true, decide_eq_true_eq, bne_iff_ne] at v
      obtain ⟨⟨hm, hd⟩, hq⟩ := v
      have hc := h c.1
      have hdd := h d.1
      have hk : c.1 = d.1 := by
        rcases Nat.lt_trichotomy c.1 d.1 with hlt | heq | hgt
        · exfalso; have h1 : d.1 ≠ c.1 := by omega
          simp [readCell, h1, hlt] at hc; exact hb hc
        · exact heq
        · exfalso; have h1 : c.1 ≠ d.1 := by omega
          simp [readCell, h1, hgt] at hdd; exact hd hdd.symm
      have hv : c.2 = d.2 := by simpa [readCell, hk] using hc
      have hcd : c = d := Prod.ext hk hv
      subst hcd
      congr 1
      refine ih hr hq (fun k => ?_)
      by_cases hlt : k < c.1 + 1
      · rw [readCell_below hr hlt, readCell_below hq hlt]
      · have hk := h k
        have h1 : c.1 ≠ k := by omega
        have h2 : ¬ k < c.1 := by omega
        simpa [readCell, h1, h2] using hk

end Sys2Proof.Machine
end

