-- ==== Sys2Proof/Laws/MemFrame.lean ====
section
/-! SUPPORT. The operations that store nothing: each leaves the bytes of the module as they were. -/

set_option linter.unusedTactic false
set_option linter.unreachableTactic false

namespace Sys2Proof.Machine
@[simp] theorem foldl_mem {α : Type} (f : State → α → State) (l : List α) (s : State) (h : ∀ s a, (f s a).mem = s.mem) : (l.foldl f s).mem = s.mem := by
  induction l generalizing s with
  | nil => rfl
  | cons a r ih => exact (ih _).trans (h s a)

@[simp] theorem ite_state_mem (c : Prop) [Decidable c] (a b : State) : (if c then a else b).mem = if c then a.mem else b.mem := apply_ite _ _ _ _
@[simp] theorem State.freeBelow_mem (s : State) (n : Nat) : (State.freeBelow s n).2.mem = s.mem := by
  unfold State.freeBelow
  simp
@[simp] theorem State.takeBool_mem (s : State) : (State.takeBool s).2.mem = s.mem := by
  unfold State.takeBool
  simp
@[simp] theorem State.takeWord_mem (s : State) : (State.takeWord s).2.mem = s.mem := by
  unfold State.takeWord
  simp
@[simp] theorem State.mcheck_mem (s : State) (addr : Word) (asid crew : BitVec 16) (unit : BitVec 4) (index : Nat) (kind cause : BitVec 8) (cmd : Option (Nat × BitVec 16 × BitVec 8)) : (State.mcheck s addr asid crew unit index kind cause cmd).mem = s.mem := by
  unfold State.mcheck
  dsimp only
  (repeat' split) <;> simp
@[simp] theorem State.modMyTile_mem (s : State) (f : Tile → Tile) : (State.modMyTile s f).mem = s.mem := by
  unfold State.modMyTile
  split <;> simp
@[simp] theorem State.later_mem (s : State) (n : Nat) (w : Wr) : (State.later s n w).mem = s.mem := by
  unfold State.later
  simp
@[simp] theorem State.laterG_mem (s : State) (n : Nat) (r : Reg) (v : Word) : (State.laterG s n r v).mem = s.mem := by
  unfold State.laterG
  simp
@[simp] theorem State.laterK_mem (s : State) (n : Nat) (r : KReg) (v : Word) : (State.laterK s n r v).mem = s.mem := by
  unfold State.laterK
  simp
@[simp] theorem State.laterFlags_mem (s : State) (n : Nat) (f : BitVec 7) : (State.laterFlags s n f).mem = s.mem := by
  unfold State.laterFlags
  simp
@[simp] theorem State.report_mem (s : State) (slot : Nat) (cause : BitVec 8) (addr : Word) (member : Nat) : (State.report s slot cause addr member).mem = s.mem := by
  unfold State.report
  simp
@[simp] theorem State.unitFault_mem (s : State) (slot : Option Nat) (unit : BitVec 4) (index : Nat) (member : Nat) (cause : BitVec 8) (addr : Word) : (State.unitFault s slot unit index member cause addr).mem = s.mem := by
  unfold State.unitFault
  split <;> simp
@[simp] theorem State.coreFault_mem (s : State) (r : CoreRef) (cause : BitVec 8) (addr : Word) : (State.coreFault s r cause addr).mem = s.mem := by
  unfold State.coreFault
  simp
@[simp] theorem State.raiseOf_mem (s : State) (r : CoreRef) (cause : BitVec 8) (addr : Word) (next : Bool) : (State.raiseOf s r cause addr next).mem = s.mem := by
  unfold State.raiseOf
  dsimp only
  (repeat' split) <;> simp
@[simp] theorem State.raise_mem (s : State) (cause : BitVec 8) (addr : Word) : (State.raise s cause addr).mem = s.mem := by
  unfold State.raise
  simp
@[simp] theorem State.lateFault_mem (s : State) (r : CoreRef) (cause : BitVec 8) (addr : Word) : (State.lateFault s r cause addr).mem = s.mem := by
  unfold State.lateFault
  simp
@[simp] theorem State.opFault_mem (s : State) (cause : BitVec 8) (addr : Word) : (State.opFault s cause addr).mem = s.mem := by
  unfold State.opFault
  simp
@[simp] theorem State.writeAt_mem (s : State) (r : CoreRef) (seq n : Nat) (w : Wr) : (State.writeAt s r seq n w).mem = s.mem := by
  unfold State.writeAt
  simp
@[simp] theorem State.standOp_mem (s : State) (n : Nat) (i : Instr) : (State.standOp s n i).mem = s.mem := by
  unfold State.standOp
  simp
@[simp] theorem State.standDrain_mem (s : State) (i : Instr) : (State.standDrain s i).mem = s.mem := by
  unfold State.standDrain
  simp
@[simp] theorem State.await_mem (s : State) (w : Wait) : (State.await s w).mem = s.mem := by
  unfold State.await
  simp
@[simp] theorem State.setQueue_mem (s : State) (q : Queue) : (State.setQueue s q).mem = s.mem := by
  unfold State.setQueue
  simp
@[simp] theorem State.keepOpen_mem (s : State) (c : HostCmd) : (State.keepOpen s c).mem = s.mem := by
  unfold State.keepOpen
  simp
@[simp] theorem State.soon_mem (s : State) (i : Instr) : (State.soon s i).mem = s.mem := by
  unfold State.soon
  simp
@[simp] theorem State.seqFault_mem (s : State) (n : Nat) (cause : BitVec 8) (addr : Word) : (State.seqFault s n cause addr).mem = s.mem := by
  unfold State.seqFault
  simp
@[simp] theorem State.wakeWaiti_mem (s : State) (r : CoreRef) (always : Bool) : (State.wakeWaiti s r always).mem = s.mem := by
  unfold State.wakeWaiti
  simp
@[simp] theorem State.wakeAll_mem (s : State) (rs : List CoreRef) (always : Bool) : (State.wakeAll s rs always).mem = s.mem := by
  unfold State.wakeAll
  simp
@[simp] theorem State.drawHere_mem (s : State) (n : Nat) (v : BitVec 48) (why : DrawWhy) : (State.drawHere s n v why).mem = s.mem := by
  unfold State.drawHere
  simp
@[simp] theorem State.announceDraw_mem (s : State) (n : Nat) (v : BitVec 48) (why : DrawWhy) : (State.announceDraw s n v why).mem = s.mem := by
  unfold State.announceDraw
  simp
@[simp] theorem State.drawCrew_mem (s : State) (n : Nat) (why : DrawWhy) : (State.drawCrew s n why).mem = s.mem := by
  unfold State.drawCrew
  simp
@[simp] theorem State.phaseReport_mem (s : State) (n : Nat) (r : Reporter) (level : BitVec 2) (e : BitVec 48) : (State.phaseReport s n r level e).mem = s.mem := by
  unfold State.phaseReport
  dsimp only
  (repeat' split) <;> simp
@[simp] theorem State.wishMark_mem (s : State) (n : Nat) : (State.wishMark s n).mem = s.mem := by
  unfold State.wishMark
  simp
@[simp] theorem State.markReport_mem (s : State) (n : Nat) (r : Reporter) (e : BitVec 48) : (State.markReport s n r e).mem = s.mem := by
  unfold State.markReport
  dsimp only
  (repeat' split) <;> simp
@[simp] theorem State.sizeWord_mem (s : State) (n : Nat) (cls grp : BitVec 3) (w : BitVec 16) (e : BitVec 48) : (State.sizeWord s n cls grp w e).mem = s.mem := by
  unfold State.sizeWord
  simp
@[simp] theorem State.contribute_mem (s : State) (n : Nat) (r : CoreRef) (cls : BitVec 3) (w : BitVec 16) (e : BitVec 48) : (State.contribute s n r cls w e).mem = s.mem := by
  unfold State.contribute
  simp
@[simp] theorem State.setWindow_mem (s : State) (r : CoreRef) (w : BitVec 4) (d : WinDesc) : (State.setWindow s r w d).mem = s.mem := by
  unfold State.setWindow
  split <;> simp
@[simp] theorem State.storeDue_mem (s : State) (r : CoreRef) (due : Nat) (bytes : List (Nat × Byte)) : (State.storeDue s r due bytes).mem = s.mem := by
  unfold State.storeDue
  split <;> simp
@[simp] theorem State.store_mem (s : State) (r : CoreRef) (bytes : List (Nat × Byte)) : (State.store s r bytes).mem = s.mem := by
  unfold State.store
  simp
@[simp] theorem State.markDirty_mem (s : State) (r : CoreRef) (a : Nat) : (State.markDirty s r a).mem = s.mem := by
  unfold State.markDirty
  (repeat' split) <;> simp
@[simp] theorem State.fetchGranule_mem (s : State) (r : CoreRef) (a : Nat) : (State.fetchGranule s r a).2.mem = s.mem := by
  unfold State.fetchGranule
  dsimp only
  (repeat' split) <;> simp
@[simp] theorem State.fetchGranules_mem (s : State) (r : CoreRef) (a n : Nat) : (s.fetchGranules r a n).2.mem = s.mem := by
  induction n generalizing s a with
  | zero => rfl
  | succ n ih => exact (ih _ _).trans (State.fetchGranule_mem s r a)
@[simp] theorem State.fetchBytes_mem (s : State) (r : CoreRef) (a n : Nat) : (State.fetchBytes s r a n).2.mem = s.mem := by
  unfold State.fetchBytes
  simp
@[simp] theorem State.useBanks_mem (s : State) (r : CoreRef) (addrs : List Nat) : (State.useBanks s r addrs).mem = s.mem := by
  unfold State.useBanks
  simp
@[simp] theorem State.withAccess_mem (s : State) (i : Instr) (x : Access) (addrs : List Nat) (k : State → State)
    (hk : ∀ s, (k s).mem = s.mem) : (s.withAccess i x addrs k).mem = s.mem := by
  unfold State.withAccess
  split <;> simp [hk]
@[simp] theorem State.withRead_mem (s : State) (i : Instr) (x : Access) (addrs : List Nat) (k : List Byte → State → State)
    (hk : ∀ b s, (k b s).mem = s.mem) : (s.withRead i x addrs k).mem = s.mem := by
  unfold State.withRead
  refine State.withAccess_mem _ _ _ _ _ fun s => ?_
  split <;> simp [hk]
@[simp] theorem State.healSectors_mem (s : State) (bytes : List (Nat × Byte)) : (State.healSectors s bytes).mem = s.mem := by
  unfold State.healSectors
  simp
@[simp] theorem State.writeLine_mem (s : State) (f : Nat) (c : Fin 4) (bytes : List (Nat × Byte)) : (State.writeLine s f c bytes).mem = s.mem := by
  unfold State.writeLine
  simp
@[simp] theorem State.undoNote_mem (s : State) (slot : Option Nat) (f key : Nat) : (State.undoNote s slot f key).mem = s.mem := by
  unfold State.undoNote
  split <;> simp
@[simp] theorem State.bundleWords_mem (s : State) (r : CoreRef) (w n : Nat) : (s.bundleWords r w n).2.mem = s.mem := by
  induction n generalizing s w with
  | zero => rfl
  | succ n ih =>
    unfold State.bundleWords
    dsimp only
    split
    · exact (ih _ _).trans (State.fetchBytes_mem _ _ _ _)
    · exact State.fetchBytes_mem _ _ _ _
@[simp] theorem State.linkAddr_mem (s : State) : (State.linkAddr s).2.mem = s.mem := by
  unfold State.linkAddr
  simp
@[simp] theorem State.transfer_mem (s : State) (taken : Bool) (tgt : BitVec 16) : (State.transfer s taken tgt).mem = s.mem := by
  unfold State.transfer
  simp
@[simp] theorem State.jumpTo_mem (s : State) (t : Word) (link : Option Reg) : (State.jumpTo s t link).mem = s.mem := by
  unfold State.jumpTo
  dsimp only
  (repeat' split) <;> simp
@[simp] theorem State.tellPartner_mem (s : State) (r : CoreRef) : (State.tellPartner s r).mem = s.mem := by
  unfold State.tellPartner
  split <;> simp
@[simp] theorem State.reportPhase_mem (s : State) (r : CoreRef) (level : BitVec 2) : (State.reportPhase s r level).mem = s.mem := by
  unfold State.reportPhase
  (repeat' split) <;> simp
@[simp] theorem State.sluiceAdd_mem (s : State) (r : CoreRef) (u : SlUpd) : (State.sluiceAdd s r u).mem = s.mem := by
  unfold State.sluiceAdd
  split <;> simp
@[simp] theorem State.sluiceTake_mem (s : State) (r : CoreRef) (sl : BitVec 4) (n : Nat) : (State.sluiceTake s r sl n).mem = s.mem := by
  unfold State.sluiceTake
  split <;> simp
@[simp] theorem State.endWait_mem (s : State) (r : CoreRef) (p : Wait → Bool) : (State.endWait s r p).mem = s.mem := by
  unfold State.endWait
  simp
@[simp] theorem State.writeSys_mem (s : State) (r : CoreRef) (n : Nat) (v : Word) : (State.writeSys s r n v).mem = s.mem := by
  unfold State.writeSys
  split <;> simp
@[simp] theorem State.lateWrite_mem (s : State) (n : Nat) (v : Word) (due : Nat) (free : Bool) : (State.lateWrite s n v due free).mem = s.mem := by
  unfold State.lateWrite
  split <;> simp
@[simp] theorem State.tapWrite_mem (s : State) (n : Nat) (refused : Bool) (v : Word) : (State.tapWrite s n refused v).mem = s.mem := by
  unfold State.tapWrite
  split <;> simp
@[simp] theorem State.writeEjdesc_mem (s : State) (j : BitVec 4) (v : Word) : (State.writeEjdesc s j v).mem = s.mem := by
  unfold State.writeEjdesc
  simp
@[simp] theorem State.writeRoute_mem (s : State) (e : Nat) (v : BitVec 128) : (State.writeRoute s e v).mem = s.mem := by
  unfold State.writeRoute
  simp
@[simp] theorem State.laterLanes_mem (s : State) (n : Nat) (vd : Reg) (mask : Word) (f : Fin 64 → BitVec 32 × BitVec 7) : (State.laterLanes s n vd mask f).mem = s.mem := by
  unfold State.laterLanes
  simp
@[simp] theorem State.laterMove_mem (s : State) (n : Nat) (vd : Reg) (mask : Word) (f : Fin 64 → BitVec 32) : (State.laterMove s n vd mask f).mem = s.mem := by
  unfold State.laterMove
  simp
@[simp] theorem State.advance_mem (s : State) (p : PReg) : (State.advance s p).mem = s.mem := by
  unfold State.advance
  simp
@[simp] theorem State.takeStep_mem (s : State) (i : Instr) (p : PReg) (k : List Byte → State → State)
    (hk : ∀ b s, (k b s).mem = s.mem) : (s.takeStep i p k).mem = s.mem := by
  unfold State.takeStep
  dsimp only
  repeat' split
  all_goals simp [hk]
@[simp] theorem State.writeStep_mem (s : State) (i : Instr) (p : PReg) (bs : List (Byte × Byte)) (k : State → State)
    (hk : ∀ s, (k s).mem = s.mem) : (s.writeStep i p bs k).mem = s.mem := by
  unfold State.writeStep
  dsimp only
  repeat' split
  all_goals simp [hk]
@[simp] theorem State.closeWrite_mem (s : State) (r : CoreRef) (x : Port) : (State.closeWrite s r x).mem = s.mem := by
  unfold State.closeWrite
  (repeat' split) <;> simp
@[simp] theorem State.closePort_mem (s : State) (r : CoreRef) (p : PReg) : (State.closePort s r p).mem = s.mem := by
  unfold State.closePort
  simp
@[simp] theorem State.failPcfg_mem (s : State) (p : PReg) (cause : BitVec 8) (a : Word) : (State.failPcfg s p cause a).mem = s.mem := by
  unfold State.failPcfg
  simp
@[simp] theorem State.fetchWords_mem (s : State) (a n : Nat) : (s.fetchWords a n).2.mem = s.mem := by
  induction n generalizing s a with
  | zero => rfl
  | succ n ih => exact (ih _ _).trans (State.fetchBytes_mem _ _ _ _)
@[simp] theorem State.configure_mem (s : State) (p : PReg) (a : Int) : (State.configure s p a).mem = s.mem := by
  unfold State.configure
  dsimp only
  repeat' split
  all_goals simp
@[simp] theorem State.engineStore_mem (s : State) (r : CoreRef) (bytes : List (Nat × Byte)) : (State.engineStore s r bytes).mem = s.mem := by
  unfold State.engineStore
  simp
@[simp] theorem State.portDrain_mem (s : State) (r : CoreRef) (p : PReg) : (State.portDrain s r p).mem = s.mem := by
  unfold State.portDrain
  dsimp only
  (repeat' split) <;> simp
theorem foldl_racing_mem (l : List Nat) (x : List Nat × State) :
    (l.foldl (fun (x : List Nat × State) g => let (b, s) := x.2.takeBool; (if b then g :: x.1 else x.1, s)) x).2.mem = x.2.mem := by
  induction l generalizing x with
  | nil => rfl
  | cons a r ih => exact (ih _).trans rfl
@[simp] theorem State.readRacing_mem (s : State) (r : CoreRef) (addrs : List Nat) : (s.readRacing r addrs).2.mem = s.mem :=
  foldl_racing_mem _ ([], s)
@[simp] theorem State.portRead_mem (s : State) (r : CoreRef) (p : PReg) : (State.portRead s r p).mem = s.mem := by
  unfold State.portRead
  dsimp only
  (repeat' split) <;> simp
@[simp] theorem State.loadLanes_mem (s : State) (t : Reg) (mask : Word) (fmt : BitVec 4) (raw : Nat → Nat) : (State.loadLanes s t mask fmt raw).mem = s.mem := by
  unfold State.loadLanes
  simp
@[simp] theorem State.gather_mem (s : State) (i : Instr) (t : Reg) (m : Word) (a : Int) (els : Nat → List (Fin 64 × Int)) :
    (s.gather i t m a els).mem = s.mem := by
  unfold State.gather
  split
  · simp
  · dsimp only; split
    · simp
    · rw [State.withRead_mem _ _ _ _ _ (fun _ s => State.loadLanes_mem s _ _ _ _)]
@[simp] theorem State.readLine_mem (s : State) (f n line : Nat) : (State.readLine s f n line).mem = s.mem := by
  unfold State.readLine
  simp
@[simp] theorem State.readWeightLine_mem (s : State) (f n line : Nat) : (State.readWeightLine s f n line).mem = s.mem := by
  unfold State.readWeightLine
  simp
@[simp] theorem State.pushPipe_mem (s : State) (f c : Nat) (k : PipeKind) (fmt : FFmt) (a : Word) (n : Nat) : (State.pushPipe s f c k fmt a n).mem = s.mem := by
  unfold State.pushPipe
  simp
@[simp] theorem State.setPipe_mem (s : State) (f c : Nat) (o : Option PipeOp) : (State.setPipe s f c o).mem = s.mem := by
  unfold State.setPipe
  simp
@[simp] theorem State.pipeAbsent_mem (s : State) (r : CoreRef) (f c line : Nat) : (State.pipeAbsent s r f c line).mem = s.mem := by
  unfold State.pipeAbsent
  (repeat' split) <;> simp
@[simp] theorem State.pipeStop_mem (s : State) (f c : Nat) (cause : BitVec 8) (a : Word) : (State.pipeStop s f c cause a).mem = s.mem := by
  unfold State.pipeStop
  simp
@[simp] theorem State.redLine_mem (s : State) (f c : Nat) (o : PipeOp) (op : FredOp) (d : Reg) (elems : List Num) : (State.redLine s f c o op d elems).mem = s.mem := by
  unfold State.redLine
  simp
@[simp] theorem State.updLine_mem (s : State) (f c : Nat) (o : PipeOp) (k : Nat) (outs : List (Nat × BitVec 7)) : (State.updLine s f c o k outs).mem = s.mem := by
  unfold State.updLine
  simp
@[simp] theorem State.updAt_mem (s : State) (f c : Nat) (o : PipeOp) (k sk : Nat) (op : FupdOp) (sa : Word) (c32 vc : BitVec 32) (elems : List Num) : (State.updAt s f c o k sk op sa c32 vc elems).mem = s.mem := by
  unfold State.updAt
  split <;> simp
@[simp] theorem State.pipeAt_mem (s : State) (f c : Nat) (o : PipeOp) (k line : Nat) : (State.pipeAt s f c o k line).mem = s.mem := by
  unfold State.pipeAt
  (repeat' split) <;> simp
@[simp] theorem State.pipeLine_mem (s : State) (f c : Nat) : (State.pipeLine s f c).mem = s.mem := by
  unfold State.pipeLine
  (repeat' split) <;> simp
@[simp] theorem State.pipeCycle_mem (s : State) (f c : Nat) : (State.pipeCycle s f c).mem = s.mem := by
  unfold State.pipeCycle
  simp
theorem State.tableRead_mem {s t : State} {r : CoreRef} {w : BitVec 4} {off n : Nat} {b : List Byte}
    (h : s.tableRead r w off n = .ok (b, t)) : t.mem = s.mem := by
  unfold State.tableRead at h
  dsimp only at h
  repeat' split at h
  all_goals first | (cases h; done) | skip
  cases h; exact State.fetchBytes_mem _ _ _ _
theorem State.tableHeader_mem {s t : State} {r : CoreRef} {w : BitVec 4} {b : TabHdr}
    (h : s.tableHeader r w = .ok (b, t)) : t.mem = s.mem := by
  unfold State.tableHeader at h
  split at h
  · cases h
  · rename_i hr
    split at h
    · cases h
    · cases h; exact State.tableRead_mem hr
@[simp] theorem State.autoLater_mem (s : State) (a : Auto) : (State.autoLater s a).mem = s.mem := by
  unfold State.autoLater
  simp
@[simp] theorem State.autoRead_mem (s : State) (r : CoreRef) (a : Auto) : (State.autoRead s r a).mem = s.mem := by
  unfold State.autoRead
  dsimp only
  split
  · simp
  · rename_i h
    have hm := State.tableRead_mem h
    repeat' split
    all_goals simp [hm]
@[simp] theorem State.autoReads_mem (s : State) (r : CoreRef) : (State.autoReads s r).mem = s.mem := by
  unfold State.autoReads
  simp
@[simp] theorem State.bindArm_mem (s : State) (id : Nat) (a : Arm) (block n : Nat) : (State.bindArm s id a block n).mem = s.mem := by
  unfold State.bindArm
  simp
@[simp] theorem State.fireArm_mem (s : State) (id : Nat) (a : Arm) (block n : Nat) : (State.fireArm s id a block n).mem = s.mem := by
  unfold State.fireArm
  simp
@[simp] theorem State.clearPoison_mem (s : State) (key n : Nat) : (State.clearPoison s key n).mem = s.mem := by
  unfold State.clearPoison
  simp
@[simp] theorem State.startProduct_mem (s : State) (id : Nat) (kg : KGroup) (z : Bool) (pa : PReg) (pb : Option PReg) (loc : Option BlockLoc) (fa fb : BitVec 4) (g : Nat) : (State.startProduct s id kg z pa pb loc fa fb g).mem = s.mem := by
  unfold State.startProduct
  simp
theorem State.intakePort_mem {s t : State} {r : CoreRef} {q : Nat} {p : PReg} {n : Nat} {b : List Byte}
    (h : s.intakePort r q p n = .ok (b, t)) : t.mem = s.mem := by
  unfold State.intakePort at h
  dsimp only at h
  repeat' split at h
  all_goals first | (cases h; done) | (cases h; simp; done)
@[simp] theorem State.blockGranule_mem (s : State) (id key : Nat) : (State.blockGranule s id key).2.mem = s.mem := by
  unfold State.blockGranule
  split <;> simp
@[simp] theorem State.blockBytes_mem (s : State) (id k n : Nat) : (s.blockBytes id k n).2.mem = s.mem := by
  induction n generalizing s k with
  | zero => rfl
  | succ n ih => exact (ih _ _).trans (State.blockGranule_mem _ _ _)
theorem State.intakeBlock_mem {s t : State} {id : Nat} {b : BlockLoc} {o n : Nat} {x : List Byte}
    (h : s.intakeBlock id b o n = .ok (x, t)) : t.mem = s.mem := by
  unfold State.intakeBlock at h
  split at h
  · cases h
  · have := congrArg Prod.snd (Except.ok.inj h); simp only at this; rw [← this]; exact State.blockBytes_mem _ _ _ _
@[simp] theorem State.intake_mem (s : State) (id : Nat) (m : MatOp) : (State.intake s id m).mem = s.mem := by
  unfold State.intake
  dsimp only
  split
  · rfl
  · split
    · simp
    · rename_i h
      split
      · simp
      · rename_i hb
        simp only [State.modTile_mem]
        split at hb
        · exact (State.intakeBlock_mem hb).trans (State.intakePort_mem h)
        · exact (State.intakePort_mem hb).trans (State.intakePort_mem h)
        · cases hb; exact State.intakePort_mem h
@[simp] theorem State.stepProduct_mem (s : State) (id seq : Nat) : (State.stepProduct s id seq).mem = s.mem := by
  unfold State.stepProduct
  dsimp only
  (repeat' split) <;> simp
@[simp] theorem State.startDrain_mem (s : State) (id : Nat) (z : Bool) (cfg : Word) (dest : DrainDest) (fmt : BitVec 4) (wcount srkw : BitVec 32) (span : List Nat) : (State.startDrain s id z cfg dest fmt wcount srkw span).mem = s.mem := by
  unfold State.startDrain
  simp
@[simp] theorem State.drainRead_mem (s : State) (id : Nat) (d : Drain) : (State.drainRead s id d).mem = s.mem := by
  unfold State.drainRead
  simp
@[simp] theorem State.drainConvert_mem (s : State) (id : Nat) (d : Drain) : (State.drainConvert s id d).mem = s.mem := by
  unfold State.drainConvert
  dsimp only
  (repeat' split) <;> simp
@[simp] theorem State.drainLine_mem (s : State) (id seq : Nat) (l : Nat × List Byte × Nat) : (State.drainLine s id seq l).mem = s.mem := by
  unfold State.drainLine
  split <;> simp
@[simp] theorem State.drainWrites_mem (s : State) (id : Nat) : (State.drainWrites s id).mem = s.mem := by
  unfold State.drainWrites
  simp
@[simp] theorem State.stepDrain_mem (s : State) (id seq : Nat) : (State.stepDrain s id seq).mem = s.mem := by
  unfold State.stepDrain
  split <;> simp
@[simp] theorem State.drainCycle_mem (s : State) (id : Nat) : (State.drainCycle s id).mem = s.mem := by
  unfold State.drainCycle
  simp
@[simp] theorem State.arrayCycle_mem (s : State) (id : Nat) : (State.arrayCycle s id).mem = s.mem := by
  unfold State.arrayCycle
  simp
@[simp] theorem State.dueAt_mem (s : State) (n : Nat) : (State.dueAt s n).2.mem = s.mem := by
  unfold State.dueAt
  simp
@[simp] theorem State.goLive_mem (s : State) (n : Nat) : (State.goLive s n).mem = s.mem := by
  unfold State.goLive
  simp
@[simp] theorem State.crewGo_mem (s : State) (n : Nat) : (State.crewGo s n).mem = s.mem := by
  unfold State.crewGo
  dsimp only
  (repeat' split) <;> simp
@[simp] theorem State.announceAt_mem (s : State) (n : Nat) (a : BitVec 48) (m : HoldMsg) : (State.announceAt s n a m).mem = s.mem := by
  unfold State.announceAt
  simp
@[simp] theorem State.announceHold_mem (s : State) (n len : Nat) (why : HoldWhy) : (State.announceHold s n len why).mem = s.mem := by
  unfold State.announceHold
  simp
@[simp] theorem State.lockHold_mem (s : State) (n : Nat) (why : HoldWhy) : (State.lockHold s n why).mem = s.mem := by
  unfold State.lockHold
  simp
@[simp] theorem State.sendRelease_mem (s : State) (n : Nat) (h : BitVec 48) (m : Nat) : (State.sendRelease s n h m).mem = s.mem := by
  unfold State.sendRelease
  simp
@[simp] theorem State.releaseHold_mem (s : State) (n : Nat) (h : BitVec 48) : (State.releaseHold s n h).mem = s.mem := by
  unfold State.releaseHold
  simp
@[simp] theorem State.lockRelease_mem (s : State) (n : Nat) (why : HoldWhy) (h : BitVec 48) : (State.lockRelease s n why h).mem = s.mem := by
  unfold State.lockRelease
  simp
@[simp] theorem State.limitOne_mem (s : State) (n : Nat) : (State.limitOne s n).mem = s.mem := by
  unfold State.limitOne
  simp
@[simp] theorem State.stopCores_mem (s : State) (rs : List CoreRef) : (State.stopCores s rs).mem = s.mem := by
  unfold State.stopCores
  simp
@[simp] theorem State.dropInject_mem (s : State) (f id : Nat) : (State.dropInject s f id).mem = s.mem := by
  unfold State.dropInject
  simp
@[simp] theorem State.invalidInject_mem (s : State) (f : Nat) (b : Inject) : (State.invalidInject s f b).mem = s.mem := by
  unfold State.invalidInject
  simp
@[simp] theorem State.lightLost_mem (s : State) (f slot : Nat) : (State.lightLost s f slot).mem = s.mem := by
  unfold State.lightLost
  simp
@[simp] theorem State.startDelivery_mem (s : State) (tile i : Nat) (lams : BitVec 16) (f : Nat) (tm : BitVec 48) (data : List (List Byte)) (errs : List (Nat × Nat × StoreErr)) : (State.startDelivery s tile i lams f tm data errs).mem = s.mem := by
  unfold State.startDelivery
  dsimp only
  (repeat' split) <;> simp
@[simp] theorem State.strayStart_mem (s : State) (tile : Nat) (lane : BitVec 2) (lams : BitVec 16) (tag : BitVec 8) (errs : List (Nat × Nat × StoreErr)) : (State.strayStart s tile lane lams tag errs).mem = s.mem := by
  unfold State.strayStart
  simp
@[simp] theorem State.tapRecords_mem (s : State) (tile : Nat) : (State.tapRecords s tile).mem = s.mem := by
  unfold State.tapRecords
  simp
@[simp] theorem State.dimFeeder_mem (s : State) (f : Nat) : (State.dimFeeder s f).mem = s.mem := by
  unfold State.dimFeeder
  split <;> simp
@[simp] theorem State.lightCycle_mem (s : State) (f : Nat) : (State.lightCycle s f).mem = s.mem := by
  unfold State.lightCycle
  simp
@[simp] theorem State.answerIn_mem (s : State) (d : Nat) (q : Req) (a : Ans) : (State.answerIn s d q a).mem = s.mem := by
  unfold State.answerIn
  simp
@[simp] theorem State.enqueue_mem (s : State) (site : Site) (goal : Nat) (p : Packet) : (State.enqueue s site goal p).mem = s.mem := by
  unfold State.enqueue
  split <;> simp
@[simp] theorem State.sendPlain_mem (s : State) (site : Site) (p : Packet) : (State.sendPlain s site p).mem = s.mem := by
  unfold State.sendPlain
  split <;> simp
@[simp] theorem State.noWay_mem (s : State) (site : Site) (p : Packet) : (State.noWay s site p).mem = s.mem := by
  unfold State.noWay
  split <;> simp
@[simp] theorem State.launchPacket_mem (s : State) (site : Site) (p : Packet) : (State.launchPacket s site p).mem = s.mem := by
  unfold State.launchPacket
  (repeat' split) <;> simp
@[simp] theorem State.answer_mem (s : State) (site : Site) (q : Req) (a : Ans) : (State.answer s site q a).mem = s.mem := by
  unfold State.answer
  simp
@[simp] theorem State.dispatchRequest_mem (s : State) (r : CoreRef) (q : Req) : (State.dispatchRequest s r q).mem = s.mem := by
  unfold State.dispatchRequest
  (repeat' split) <;> simp
@[simp] theorem State.sendRequest_mem (s : State) (r : CoreRef) (g : Word) (kind : ReqKind) (dst : Option Reg) : (State.sendRequest s r g kind dst).mem = s.mem := by
  unfold State.sendRequest
  simp
@[simp] theorem State.sendOffer_mem (s : State) (site : Site) (reg taker : Word) (view : Bool) : (State.sendOffer s site reg taker view).mem = s.mem := by
  unfold State.sendOffer
  split <;> simp
@[simp] theorem State.tellTaker_mem (s : State) (taker reg : Word) (view : Bool) : (State.tellTaker s taker reg view).mem = s.mem := by
  unfold State.tellTaker
  split <;> simp
@[simp] theorem State.dropView_mem (s : State) (id : Nat) (w : BitVec 4) (v : View) : (State.dropView s id w v).mem = s.mem := by
  unfold State.dropView
  simp
@[simp] theorem State.offerWindow_mem (s : State) (id : Nat) (w : BitVec 4) (h : Holder) (taker : Word) (view : Bool) : (State.offerWindow s id w h taker view).mem = s.mem := by
  unfold State.offerWindow
  simp
@[simp] theorem State.tickPassage_mem (s : State) (id : Nat) (w : BitVec 4) : (State.tickPassage s id w).mem = s.mem := by
  unfold State.tickPassage
  dsimp only
  (repeat' split) <;> simp
@[simp] theorem State.tickView_mem (s : State) (id : Nat) (w : BitVec 4) (v : View) : (State.tickView s id w v).mem = s.mem := by
  unfold State.tickView
  simp
@[simp] theorem State.endBerths_mem (s : State) (id : Nat) : (State.endBerths s id).mem = s.mem := by
  unfold State.endBerths
  simp
@[simp] theorem State.giveWindow_mem (s : State) (id : Nat) (w : BitVec 4) (h : Holder) : (State.giveWindow s id w h).mem = s.mem := by
  unfold State.giveWindow
  simp
@[simp] theorem State.takeWindow_mem (s : State) (id : Nat) (w : BitVec 4) (h : Holder) (view : Bool) : (State.takeWindow s id w h view).2.mem = s.mem := by
  unfold State.takeWindow
  dsimp only
  (repeat' split) <;> simp
@[simp] theorem State.offerPage_mem (s : State) (p : PageMap) (h : Holder) (gaddr taker : Word) (view : Bool) : (State.offerPage s p h gaddr taker view).2.mem = s.mem := by
  unfold State.offerPage
  (repeat' split) <;> simp
@[simp] theorem State.takePage_mem (s : State) (p : PageMap) (h : Holder) (view told : Bool) : (State.takePage s p h view told).2.mem = s.mem := by
  unfold State.takePage
  dsimp only
  (repeat' split) <;> simp
@[simp] theorem State.offerArrived_mem (s : State) (r : CoreRef) (reg : Word) (view : Bool) : (State.offerArrived s r reg view).mem = s.mem := by
  unfold State.offerArrived
  (repeat' split) <;> simp
@[simp] theorem State.release_mem (s : State) (r : CoreRef) (x : Release) : (State.release s r x).mem = s.mem := by
  unfold State.release
  split <;> simp
@[simp] theorem State.releaseSoon_mem (s : State) (region : Region) (taker : Word) (view : Bool) : (State.releaseSoon s region taker view).mem = s.mem := by
  unfold State.releaseSoon
  simp
@[simp] theorem State.handWindow_mem (s : State) (w : BitVec 4) (taker : Word) (view : Bool) : (State.handWindow s w taker view).mem = s.mem := by
  unfold State.handWindow
  split <;> simp
@[simp] theorem State.handPage_mem (s : State) (i : Instr) (g taker : Word) (view : Bool) : (State.handPage s i g taker view).mem = s.mem := by
  unfold State.handPage
  simp
@[simp] theorem State.sleepTake_mem (s : State) (reg : Region) (view : Bool) : (State.sleepTake s reg view).mem = s.mem := by
  unfold State.sleepTake
  simp
@[simp] theorem State.btakeWindow_mem (s : State) (w : BitVec 4) (view : Bool) : (State.btakeWindow s w view).mem = s.mem := by
  unfold State.btakeWindow
  split
  · rfl
  · dsimp only
    split
    · simp
    · split <;> rename_i h <;> have hm := congrArg (fun p => (Prod.snd p).mem) h <;> simp at hm
      · exact hm.symm
      · simp [← hm]
      · split <;> simp [← hm]
@[simp] theorem State.btakePage_mem (s : State) (i : Instr) (g : Word) (view : Bool) : (State.btakePage s i g view).mem = s.mem := by
  unfold State.btakePage
  simp
@[simp] theorem State.raiseWaiting_mem (s : State) (r : CoreRef) (cause : BitVec 8) (addr : Word) : (State.raiseWaiting s r cause addr).mem = s.mem := by
  unfold State.raiseWaiting
  simp
@[simp] theorem State.setIface_mem (s : State) (x : IfaceState) : (State.setIface s x).mem = s.mem := by
  unfold State.setIface
  simp
@[simp] theorem State.dropEntries_mem (s : State) (asid : BitVec 16) (page : Nat) : (State.dropEntries s asid page).mem = s.mem := by
  unfold State.dropEntries
  simp
@[simp] theorem State.refuse_mem (s : State) (site : Site) (q : Req) (a : Ans) : (State.refuse s site q a).mem = s.mem := by
  unfold State.refuse
  simp
@[simp] theorem State.sendCopy_mem (s : State) (u : CopyWrite) (m : BitVec 13) : (State.sendCopy s u m).mem = s.mem := by
  unfold State.sendCopy
  simp
@[simp] theorem State.storeDone_mem (s : State) (keeper : CoreRef) (p : PageMap) (q : Req) : (State.storeDone s keeper p q).mem = s.mem := by
  unfold State.storeDone
  dsimp only
  (repeat' split) <;> simp
@[simp] theorem State.copyHeard_mem (s : State) (keeper : CoreRef) (num : BitVec 16) (ok : Bool) : (State.copyHeard s keeper num ok).mem = s.mem := by
  unfold State.copyHeard
  dsimp only
  (repeat' split) <;> simp
@[simp] theorem State.takeAsked_mem (s : State) (id : Nat) (w : BitVec 4) (h : Holder) (view told : Bool) : (State.takeAsked s id w h view told).2.mem = s.mem := by
  unfold State.takeAsked
  repeat' (first | with_reducible rfl | (simp; done) | split | simp | (refine (foldl_mem _ _ _ ?_); intro _ _) | (rename_i heq; have hm := congrArg (fun p => (Prod.snd p).mem) heq; simp at hm; simp [← hm]; done))
@[simp] theorem State.performTile_mem (s : State) (id : Nat) (w : BitVec 4) (p : PageMap) (q : Req) : (State.performTile s id w p q).mem = s.mem := by
  unfold State.performTile
  dsimp only
  repeat' (first | with_reducible rfl | (simp; done) | split | simp | (refine (foldl_mem _ _ _ ?_); intro _ _) | (rename_i heq; have hm := congrArg (fun p => (Prod.snd p).mem) heq; simp at hm; simp [← hm]; done))
@[simp] theorem State.requestAtTile_mem (s : State) (id : Nat) (q : Req) : (State.requestAtTile s id q).mem = s.mem := by
  unfold State.requestAtTile
  (repeat' split) <;> simp
@[simp] theorem State.setMigration_mem (s : State) (m : Migration) : (State.setMigration s m).mem = s.mem := by
  unfold State.setMigration
  simp
@[simp] theorem State.movePage_mem (s : State) (p : PageMap) (m : Migration) : (State.movePage s p m).mem = s.mem := by
  unfold State.movePage
  split <;> simp
@[simp] theorem State.freePage_mem (s : State) (f : Nat) : (State.freePage s f).2.mem = s.mem := by
  unfold State.freePage
  simp
@[simp] theorem State.tellServing_mem (s : State) (r : CoreRef) (n : Nat) (k : BitVec 32) : (State.tellServing s r n k).mem = s.mem := by
  unfold State.tellServing
  simp
@[simp] theorem State.ticketWord_mem (s : State) (i : Instr) (k : ReqKind) (dst : Option Reg) (f : State → State)
    (hf : ∀ s, (f s).mem = s.mem) : (s.ticketWord i k dst f).mem = s.mem := by
  unfold State.ticketWord
  split <;> simp [hf]
@[simp] theorem State.remoteWord_mem (s : State) (i : Instr) (a : Word) (n : Nat) (k : ReqKind) (dst : Option Reg) : (State.remoteWord s i a n k dst).mem = s.mem := by
  unfold State.remoteWord
  simp
@[simp] theorem State.releaseDue_mem (s : State) (r : CoreRef) : (State.releaseDue s r).mem = s.mem := by
  unfold State.releaseDue
  dsimp only
  (repeat' split) <;> simp
@[simp] theorem State.boardFerry_mem (s : State) (r : CoreRef) : (State.boardFerry s r).mem = s.mem := by
  unfold State.boardFerry
  (repeat' split) <;> simp
@[simp] theorem State.leaveFerry_mem (s : State) (r : CoreRef) (trap : Bool) : (State.leaveFerry s r trap).mem = s.mem := by
  unfold State.leaveFerry
  simp
@[simp] theorem State.noteVote_mem (s : State) (id : Nat) (ports : List Nat) (fs : List FlitBits) (out : FlitBits) : (State.noteVote s id ports fs out).mem = s.mem := by
  unfold State.noteVote
  dsimp only
  (repeat' split) <;> simp
@[simp] theorem State.ejectFlit_mem (s : State) (id : Nat) (red : Option (BitVec 3)) (ejd : BitVec 4) (rfx : BitVec 3) (t : Nat) (f : FlitBits) : (State.ejectFlit s id red ejd rfx t f).mem = s.mem := by
  unfold State.ejectFlit
  simp
@[simp] theorem State.ejectNothing_mem (s : State) (id : Nat) (except_ : Option (BitVec 4)) : (State.ejectNothing s id except_).mem = s.mem := by
  unfold State.ejectNothing
  simp
@[simp] theorem State.sendStatic_mem (s : State) (id n k : Nat) (f : Option Flit) : (State.sendStatic s id n k f).mem = s.mem := by
  unfold State.sendStatic
  (repeat' split) <;> simp
@[simp] theorem State.feederFlits_mem (s : State) (id : Nat) (row : BitVec 40) : (State.feederFlits s id row).mem = s.mem := by
  unfold State.feederFlits
  dsimp only
  refine foldl_mem _ _ _ fun s a => ?_
  split <;> simp
@[simp] theorem State.sendLinks_mem (s : State) (tile n : Nat) (row : BitVec 40) (resultOn : Nat → Bool) (result : Flit) (input : Nat → Option Flit) : (State.sendLinks s tile n row resultOn result input).mem = s.mem := by
  unfold State.sendLinks
  simp
@[simp] theorem State.ejectRow_mem (s : State) (tile : Nat) (row : BitVec 40) (get : Nat → Flit) : (State.ejectRow s tile row get).mem = s.mem := by
  unfold State.ejectRow
  simp
@[simp] theorem State.present_mem (s : State) (k : PresentKind) : (State.present s k).mem = s.mem := by
  unfold State.present
  split <;> simp
@[simp] theorem State.setRecv_mem (s : State) (site : Site) (l : List Packet) : (State.setRecv s site l).mem = s.mem := by
  unfold State.setRecv
  split <;> simp
@[simp] theorem State.routerNack_mem (s : State) (id : Nat) (q : Req) : (State.routerNack s id q).mem = s.mem := by
  unfold State.routerNack
  simp
@[simp] theorem State.stopPacket_mem (s : State) (id : Nat) (d : DynBuf) (why : Stop) : (State.stopPacket s id d why).mem = s.mem := by
  unfold State.stopPacket
  dsimp only
  (repeat' split) <;> simp
@[simp] theorem State.moveFlit_mem (s : State) (id : Nat) (out : BitVec 3) (d : DynBuf) : (State.moveFlit s id out d).mem = s.mem := by
  unfold State.moveFlit
  repeat' (first | split | simp)
@[simp] theorem State.deliverMessage_mem (s : State) (site : Site) (asid : BitVec 16) (cores : List CoreRef) (p : Packet) :
    (s.deliverMessage site asid cores p).mem = s.mem := by
  unfold State.deliverMessage
  split
  · exact State.mcheck_mem ..
  · rw [State.wakeAll_mem]; exact (foldl_mem (fun s r => s.soon (.tdrecvWake r)) _ _ fun _ _ => rfl).trans (State.setRecv_mem ..)
@[simp] theorem State.takePacket_mem (s : State) (a : Nat) (p : Packet) (late : Nat) : (State.takePacket s a p late).mem = s.mem := by
  unfold State.takePacket
  simp
@[simp] theorem State.pendWord_mem (s : State) (d : Reg) (v : Word) (due : Nat) : (State.pendWord s d v due).mem = s.mem := by
  unfold State.pendWord
  simp
@[simp] theorem State.lockPins_mem (s : State) (asid : BitVec 16) (pages : List Nat) : (State.lockPins s asid pages).mem = s.mem := by
  unfold State.lockPins
  simp
@[simp] theorem State.bind_mem (s : State) (img : Img) (q : BindAsk) (n : Nat) (crew : BitVec 16) (old : Option Slot) : (State.bind s img q n crew old).mem = s.mem := by
  unfold State.bind
  simp
@[simp] theorem State.unbind_mem (s : State) (n : Nat) : (State.unbind s n).mem = s.mem := by
  unfold State.unbind
  simp
@[simp] theorem State.setHorizon_mem (s : State) (n : Nat) (h : BitVec 16) : (State.setHorizon s n h).mem = s.mem := by
  unfold State.setHorizon
  simp
@[simp] theorem State.takeSaved_mem (s : State) (crew : BitVec 16) : (State.takeSaved s crew).mem = s.mem := by
  unfold State.takeSaved
  simp
@[simp] theorem State.setAllow_mem (s : State) (n a : Nat) : (State.setAllow s n a).mem = s.mem := by
  unfold State.setAllow
  simp
@[simp] theorem State.placeSlot_mem (s : State) (n : Nat) (o : Nat × Nat) : (State.placeSlot s n o).mem = s.mem := by
  unfold State.placeSlot
  repeat' (first | with_reducible rfl | (simp; done) | split | simp | (refine (foldl_mem _ _ _ ?_); intro _ _) | (rename_i heq; have hm := congrArg (fun p => (Prod.snd p).mem) heq; simp at hm; simp [← hm]; done))
@[simp] theorem State.dealGroups_mem (s : State) (fs : List Nat) (gs : List (BitVec 8 × BitVec 84 × List Receiver)) : (State.dealGroups s fs gs).mem = s.mem := by
  unfold State.dealGroups
  simp
@[simp] theorem State.unspillTile_mem (s : State) (id : Nat) : (State.unspillTile s id).mem = s.mem := by
  unfold State.unspillTile
  dsimp only
  repeat' (first | with_reducible rfl | (simp; done) | split | simp | (refine (foldl_mem _ _ _ ?_); intro _ _) | (rename_i heq; have hm := congrArg (fun p => (Prod.snd p).mem) heq; simp at hm; simp [← hm]; done))
@[simp] theorem State.offersHere_mem (s : State) (n : Nat) : (State.offersHere s n).mem = s.mem := by
  unfold State.offersHere
  simp
@[simp] theorem State.askAgain_mem (s : State) (r : CoreRef) : (State.askAgain s r).mem = s.mem := by
  unfold State.askAgain
  repeat' (first | with_reducible rfl | (simp; done) | split | simp | (refine (foldl_mem _ _ _ ?_); intro _ _) | (rename_i heq; have hm := congrArg (fun p => (Prod.snd p).mem) heq; simp at hm; simp [← hm]; done))
@[simp] theorem State.startAt_mem (s : State) (n : Nat) (t0 : Word) : (State.startAt s n t0).mem = s.mem := by
  unfold State.startAt
  simp
@[simp] theorem State.nameStart_mem (s : State) (n : Nat) : (State.nameStart s n).mem = s.mem := by
  unfold State.nameStart
  simp
@[simp] theorem State.readyHeard_mem (s : State) (n modIdx : Nat) (members : List Nat) : (State.readyHeard s n modIdx members).mem = s.mem := by
  unfold State.readyHeard
  simp
@[simp] theorem State.reportReady_mem (s : State) (n : Nat) : (State.reportReady s n).mem = s.mem := by
  unfold State.reportReady
  simp
@[simp] theorem State.setTickets_mem (s : State) (n : Nat) (l : List (Nat × BitVec 32 × BitVec 32)) : (State.setTickets s n l).mem = s.mem := by
  unfold State.setTickets
  simp
@[simp] theorem State.spillTile_mem (s : State) (id : Nat) : (State.spillTile s id).mem = s.mem := by
  unfold State.spillTile
  dsimp only
  repeat' (first | with_reducible rfl | (simp; done) | split | simp | (refine (foldl_mem _ _ _ ?_); intro _ _) | (rename_i heq; have hm := congrArg (fun p => (Prod.snd p).mem) heq; simp at hm; simp [← hm]; done))
@[simp] theorem State.vacate_mem (s : State) (n : Nat) : (State.vacate s n).mem = s.mem := by
  unfold State.vacate
  simp
@[simp] theorem State.withSave_mem (s : State) (n : Nat) : (State.withSave s n).mem = s.mem := by
  unfold State.withSave
  simp
@[simp] theorem State.takeSelection_mem (s : State) (n : Nat) (e : BitVec 48) (q : Selection) : (State.takeSelection s n e q).mem = s.mem := by
  unfold State.takeSelection
  simp
@[simp] theorem State.without_mem (s : State) (vs : List Nat) : (State.without s vs).mem = s.mem := by
  unfold State.without
  simp
@[simp] theorem State.passFlight_mem (s : State) (n : Nat) : (State.passFlight s n).mem = s.mem := by
  unfold State.passFlight
  simp
@[simp] theorem State.passSlot_mem (s : State) (n : Nat) : (State.passSlot s n).mem = s.mem := by
  unfold State.passSlot
  dsimp only
  (repeat' split) <;> simp
@[simp] theorem State.raiseAllows_mem (s : State) : (State.raiseAllows s).mem = s.mem := by
  unfold State.raiseAllows
  simp
@[simp] theorem State.planHold_mem (s : State) (n : Nat) : (State.planHold s n).mem = s.mem := by
  unfold State.planHold
  simp
@[simp] theorem State.powerWarn_mem (s : State) : (State.powerWarn s).mem = s.mem := by
  unfold State.powerWarn
  repeat' (first | with_reducible rfl | (simp; done) | split | simp | (refine (foldl_mem _ _ _ ?_); intro _ _) | (rename_i heq; have hm := congrArg (fun p => (Prod.snd p).mem) heq; simp at hm; simp [← hm]; done))
@[simp] theorem State.limitHold_mem (s : State) : (State.limitHold s).mem = s.mem := by
  unfold State.limitHold
  simp
@[simp] theorem State.sensorRecord_mem (s : State) (x : Sensor) : (State.sensorRecord s x).mem = s.mem := by
  unfold State.sensorRecord
  simp
@[simp] theorem State.regradeDraw_mem (s : State) (n : Nat) : (State.regradeDraw s n).mem = s.mem := by
  unfold State.regradeDraw
  simp
@[simp] theorem State.planVoltage_mem (s : State) (rx ry : Nat) : (State.planVoltage s rx ry).mem = s.mem := by
  unfold State.planVoltage
  simp
@[simp] theorem State.loadTime_mem (s : State) (t : Word) : (State.loadTime s t).mem = s.mem := by
  unfold State.loadTime
  simp
@[simp] theorem State.bootStep_mem (s : State) : (State.bootStep s).mem = s.mem := by
  unfold State.bootStep
  split <;> simp
@[simp] theorem State.railStep_mem (s : State) : (State.railStep s).mem = s.mem := by
  unfold State.railStep
  simp
@[simp] theorem State.trainStep_mem (s : State) : (State.trainStep s).mem = s.mem := by
  unfold State.trainStep
  simp
@[simp] theorem State.railFault_mem (s : State) (n : Nat) (rx ry : Nat) : (State.railFault s n rx ry).mem = s.mem := by
  unfold State.railFault
  simp
@[simp] theorem State.reroute_mem (s : State) (ids : List Nat) : (State.reroute s ids).mem = s.mem := by
  unfold State.reroute
  simp
@[simp] theorem State.loseTransit_mem (s : State) (rx ry : Nat) : (State.loseTransit s rx ry).mem = s.mem := by
  unfold State.loseTransit
  repeat' (first | with_reducible rfl | (simp; done) | split | simp | (refine (foldl_mem _ _ _ ?_); intro _ _) | (rename_i heq; have hm := congrArg (fun p => (Prod.snd p).mem) heq; simp at hm; simp [← hm]; done))
@[simp] theorem State.spread_mem (s : State) (i : Instr) : (State.spread s i).mem = s.mem := by
  unfold State.spread
  simp
@[simp] theorem State.holdFor_mem (s : State) (n modIdx : Nat) (why : HoldWhy) : (State.holdFor s n modIdx why).mem = s.mem := by
  unfold State.holdFor
  simp
@[simp] theorem State.dropFor_mem (s : State) (n modIdx : Nat) (why : HoldWhy) : (State.dropFor s n modIdx why).mem = s.mem := by
  unfold State.dropFor
  split <;> simp
@[simp] theorem State.drawFor_mem (s : State) (n : Nat) (why : DrawWhy) : (State.drawFor s n why).mem = s.mem := by
  unfold State.drawFor
  simp
@[simp] theorem State.warnFor_mem (s : State) (n modIdx : Nat) (why : HoldWhy) : (State.warnFor s n modIdx why).mem = s.mem := by
  unfold State.warnFor
  simp
@[simp] theorem State.drawHeard_mem (s : State) (tl n : Nat) (v : BitVec 48) (why : DrawWhy) (fault : Option (BitVec 8 × Word)) : (State.drawHeard s tl n v why fault).mem = s.mem := by
  unfold State.drawHeard
  simp
@[simp] theorem State.discardSaved_mem (s : State) (v : SavedCrew) : (State.discardSaved s v).mem = s.mem := by
  unfold State.discardSaved
  simp
@[simp] theorem State.stepAfter_mem (s : State) (tl : Nat) (out : Bool) (d : Nat) : (State.stepAfter s tl out d).mem = s.mem := by
  unfold State.stepAfter
  simp
@[simp] theorem State.laneRecord_mem (s : State) (tl lane : Nat) : (State.laneRecord s tl lane).mem = s.mem := by
  unfold State.laneRecord
  simp
@[simp] theorem State.park_mem (s : State) (tl : Nat) (out : Bool) (lane : Nat) : (State.park s tl out lane).mem = s.mem := by
  unfold State.park
  simp
@[simp] theorem State.findWeak_mem (s : State) (tl : Nat) (out : Bool) (lane : Nat) : (State.findWeak s tl out lane).mem = s.mem := by
  unfold State.findWeak
  simp
@[simp] theorem State.walkStep_mem (s : State) (tl : Nat) (out : Bool) (lane : Nat) : (State.walkStep s tl out lane).mem = s.mem := by
  unfold State.walkStep
  simp
@[simp] theorem State.portFault_mem (s : State) (tl n : Nat) (cause : BitVec 8) : (State.portFault s tl n cause).mem = s.mem := by
  unfold State.portFault
  simp
@[simp] theorem State.retimeFlit_mem (s : State) (tl n : Nat) (f : Frame) (port : BitVec 2) (offs : BitVec 4) (flit : Flit) : (State.retimeFlit s tl n f port offs flit).mem = s.mem := by
  unfold State.retimeFlit
  simp
@[simp] theorem State.packetArrives_mem (s : State) (tl : Nat) (p : Packet) : (State.packetArrives s tl p).mem = s.mem := by
  unfold State.packetArrives
  (repeat' split) <;> simp
@[simp] theorem State.takeStatics_mem (s : State) (tl : Nat) (f : Frame) : (State.takeStatics s tl f).mem = s.mem := by
  unfold State.takeStatics
  split <;> simp
@[simp] theorem State.portRecord_mem (s : State) (port off : Nat) : (State.portRecord s port off).mem = s.mem := by
  unfold State.portRecord
  simp
@[simp] theorem State.dropEntry_mem (s : State) (q : Queue) : (State.dropEntry s q).mem = s.mem := by
  unfold State.dropEntry
  simp
@[simp] theorem State.writeLhctl_mem (s : State) (port : Nat) (val : Word) : (State.writeLhctl s port val).mem = s.mem := by
  unfold State.writeLhctl
  simp
@[simp] theorem State.haltHolds_mem (s : State) : (State.haltHolds s).mem = s.mem := by
  unfold State.haltHolds
  simp
@[simp] theorem State.reissueWalks_mem (s : State) : (State.reissueWalks s).mem = s.mem := by
  unfold State.reissueWalks
  repeat' (first | with_reducible rfl | (simp; done) | split | simp | (refine (foldl_mem _ _ _ ?_); intro _ _) | (rename_i heq; have hm := congrArg (fun p => (Prod.snd p).mem) heq; simp at hm; simp [← hm]; done))
@[simp] theorem State.voteFail_mem (s : State) (n addr : Nat) : (State.voteFail s n addr).mem = s.mem := by
  unfold State.voteFail
  simp
@[simp] theorem State.restPage_mem (s : State) (p : PageMap) : (State.restPage s p).mem = s.mem := by
  unfold State.restPage
  simp
@[simp] theorem State.startLanes_mem (s : State) (t : Nat) : (State.startLanes s t).mem = s.mem := by
  unfold State.startLanes
  simp
@[simp] theorem State.setPound_mem (s : State) (p : Pound) : (State.setPound s p).mem = s.mem := by
  unfold State.setPound
  simp
@[simp] theorem State.markPounds_mem (s : State) : (State.markPounds s).mem = s.mem := by
  unfold State.markPounds
  simp
@[simp] theorem State.afterWords_mem (s : State) (r : CoreRef) (ws : List BWord) (i : Nat) : (State.afterWords s r ws i).mem = s.mem := by
  unfold State.afterWords
  simp
@[simp] theorem State.failBundle_mem (s : State) (r : CoreRef) (cause : BitVec 8) (addr : Word) : (State.failBundle s r cause addr).mem = s.mem := by
  unfold State.failBundle
  simp
@[simp] theorem State.prepared_mem (s : State) (r : CoreRef) (o : Op) : (State.prepared s r o).mem = s.mem := by
  unfold State.prepared
  simp
@[simp] theorem State.settled_mem (s : State) : (State.settled s).mem = s.mem := by
  unfold State.settled
  simp
@[simp] theorem State.undone_mem (before : State) (r : CoreRef) (after : Core) (cause : BitVec 8) (addr : Word) : (State.undone before r after cause addr).mem = before.mem := by
  unfold State.undone
  split <;> simp
@[simp] theorem State.stoodAt_mem (before : State) (r : CoreRef) (after : Core) : (State.stoodAt before r after).mem = before.mem := by
  unfold State.stoodAt
  simp
@[simp] theorem State.applyWr_mem (s : State) (r : CoreRef) (w : Wr) : (State.applyWr s r w).mem = s.mem := by
  unfold State.applyWr
  (repeat' split) <;> simp
@[simp] theorem State.writeDue_mem (s : State) (r : CoreRef) (kind : PendWr → Bool) : (State.writeDue s r kind).mem = s.mem := by
  unfold State.writeDue
  simp
@[simp] theorem State.coreBegin_mem (s : State) (r : CoreRef) : (State.coreBegin s r).mem = s.mem := by
  unfold State.coreBegin
  dsimp only
  (repeat' split) <;> simp
theorem State.enterDone_mem (a b : State) (r : CoreRef) : (State.enterDone a b r).mem = a.mem ∨ (State.enterDone a b r).mem = b.mem := by
  unfold State.enterDone
  split <;> simp
@[simp] theorem State.takeTrap_mem (s : State) (r : CoreRef) (cause : BitVec 8) (addr : Word) : (State.takeTrap s r cause addr).mem = s.mem := by
  unfold State.takeTrap
  dsimp only
  (repeat' split) <;> simp
@[simp] theorem State.settle_mem (s : State) (r : CoreRef) : (State.settle s r).mem = s.mem := by
  unfold State.settle
  simp
@[simp] theorem State.beginCycle_mem (s : State) : (State.beginCycle s).mem = s.mem := by
  unfold State.beginCycle
  simp
@[simp] theorem State.sluiceOver_mem (s : State) (cores : List CoreRef) (upd : List SlUpd) (sl : BitVec 4) : (State.sluiceOver s cores upd sl).mem = s.mem := by
  unfold State.sluiceOver
  repeat' (first | with_reducible rfl | (simp; done) | split | simp | (refine (foldl_mem _ _ _ ?_); intro _ _) | (rename_i heq; have hm := congrArg (fun p => (Prod.snd p).mem) heq; simp at hm; simp [← hm]; done))
@[simp] theorem State.feederEnd_mem (s : State) (f : Nat) : (State.feederEnd s f).mem = s.mem := by
  unfold State.feederEnd
  simp
@[simp] theorem State.readyFor_mem (s : State) (r : CoreRef) (timed : Bool) : (State.readyFor s r timed).mem = s.mem := by
  unfold State.readyFor
  split <;> simp
theorem State.nextOut_mem {s t : State} {site : Site} {p : Packet} (h : s.nextOut site = some (p, t)) : t.mem = s.mem := by
  unfold State.nextOut at h
  dsimp only at h
  repeat' split at h
  all_goals first | (cases h; done) | (cases h; simp; done)
@[simp] theorem State.inject_mem (s : State) (site : Site) : (s.inject site).mem = s.mem := by
  unfold State.inject
  dsimp only
  split
  · rfl
  · split
    · rfl
    · rename_i h
      split
      · exact (State.noWay_mem _ _ _).trans (State.nextOut_mem h)
      · exact (State.modTile_mem _ _ _).trans (State.nextOut_mem h)
@[simp] theorem State.listUnits_mem (s : State) : s.listUnits.mem = s.mem := by
  unfold State.listUnits
  simp
@[simp] theorem State.clearDirty_mem (s : State) (x : Slot) : (s.clearDirty x).mem = s.mem := by
  unfold State.clearDirty
  exact (foldl_mem (fun s f => s.modFeeder f _) x.feeders _ fun _ _ => rfl).trans (foldl_mem (fun s t => s.modTile t _) x.tiles s fun _ _ => rfl)
end Sys2Proof.Machine
end

