-- ==== Sys2Proof/Laws/MeaningMem.lean ====
section
/-! SUPPORT. The meanings that store nothing: a next state has the bytes it had. -/

set_option linter.unusedTactic false
set_option linter.unreachableTactic false

namespace Sys2Proof.Machine
/-- An answer that, if it is a next state, has the memory of `s`. -/
def MemSame (s : State) (x : Result) : Prop := ∀ t, x = .next t → t.mem = s.mem
theorem memSame_done {s t : State} (h : t.mem = s.mem) : MemSame s (done t) := fun _ e => by cases e; exact h
theorem memSame_onUnit {s t : State} {ok : Bool} (h : t.mem = s.mem) : MemSame s (onUnit ok t) := fun _ e => by
  unfold onUnit at e
  split at e <;> cases e
  exact h
theorem memSame_guarded {i : Instr} {s : State} {f : State → State} (h : ∀ s, (f s).mem = s.mem) : MemSame s (guarded i s f) := fun t e => by
  unfold guarded done at e
  split at e
  · cases e; exact h s
  · split at e <;> cases e
    · exact State.raise_mem ..
    · exact h s
theorem execBra_mem (tgt : BitVec 16) (s : State) : MemSame s (execBra tgt s) := by
  refine memSame_guarded fun s => ?_
  simp
theorem execBcc_mem (c : BccCond) (a b : Reg) (tgt : BitVec 16) (s : State) : MemSame s (execBcc c a b tgt s) := by
  refine memSame_guarded fun s => ?_
  simp
theorem execBpr_mem (c : BprCond) (k : KReg) (tgt : BitVec 16) (s : State) : MemSame s (execBpr c k tgt s) := by
  refine memSame_guarded fun s => ?_
  simp
theorem execJmp_mem (a : Reg) (s : State) : MemSame s (execJmp a s) := by
  refine memSame_guarded fun s => ?_
  simp
theorem execJmpLink_mem (d a : Reg) (s : State) : MemSame s (execJmpLink d a s) := by
  refine memSame_guarded fun s => ?_
  simp
theorem execCall_mem (a : Reg) (tgt : BitVec 16) (s : State) : MemSame s (execCall a tgt s) := by
  refine memSame_guarded fun s => ?_
  simp
theorem execRet_mem (a : Reg) (s : State) : MemSame s (execRet a s) := by
  refine memSame_guarded fun s => ?_
  simp
theorem execLoop_mem (a : Reg) (tgt : BitVec 16) (s : State) : MemSame s (execLoop a tgt s) := by
  refine memSame_guarded fun s => ?_
  simp
theorem execLoops_mem (p : PReg) (dim : BitVec 4) (tgt : BitVec 16) (s : State) : MemSame s (execLoops p dim tgt s) := by
  refine memSame_guarded fun s => ?_
  simp
theorem execTrap_mem (imm : BitVec 32) (s : State) : MemSame s (execTrap imm s) := by
  refine memSame_guarded fun s => ?_
  simp
theorem execBreakTrap_mem (imm : BitVec 32) (s : State) : MemSame s (execBreakTrap imm s) := by
  refine memSame_guarded fun s => ?_
  simp
theorem execEret_mem (s : State) : MemSame s (execEret s) := by
  refine memSame_guarded fun s => ?_
  simp
theorem execWaiti_mem (s : State) : MemSame s (execWaiti s) := by
  refine memSame_guarded fun s => ?_
  simp
theorem execWaitv_mem (a : Reg) (imm : BitVec 16) (s : State) : MemSame s (execWaitv a imm s) := by
  refine memSame_guarded fun s => ?_
  simp
theorem execPhase_mem (level : BitVec 2) (s : State) : MemSame s (execPhase level s) := by
  refine memSame_guarded fun s => ?_
  simp
theorem execSize_mem (a : Reg) (cls : BitVec 3) (s : State) : MemSame s (execSize a cls s) := by
  refine memSame_guarded fun s => ?_
  split <;> simp
theorem execMarkp_mem (s : State) : MemSame s (execMarkp s) := by
  refine memSame_guarded fun s => ?_
  split <;> simp
theorem execSlpost_mem (sl : BitVec 4) (n : BitVec 15) (s : State) : MemSame s (execSlpost sl n s) := by
  refine memSame_guarded fun s => ?_
  simp
theorem execSlwait_mem (sl : BitVec 4) (n : BitVec 15) (s : State) : MemSame s (execSlwait sl n s) := by
  refine memSame_guarded fun s => ?_
  simp
theorem execSlwaitProceed_mem (core : CoreRef) (s : State) : MemSame s (execSlwaitProceed core s) := by
  refine memSame_onUnit ?_
  split <;> simp
theorem execSlset_mem (sl : BitVec 4) (a : Reg) (imm : BitVec 16) (s : State) : MemSame s (execSlset sl a imm s) := by
  refine memSame_guarded fun s => ?_
  split <;> simp
theorem execSlget_mem (d : Reg) (sl : BitVec 4) (s : State) : MemSame s (execSlget d sl s) := by
  refine memSame_guarded fun s => ?_
  simp
theorem execWaitvExpire_mem (core : CoreRef) (s : State) : MemSame s (execWaitvExpire core s) := by
  refine memSame_onUnit ?_
  simp
theorem execPhaseWake_mem (core : CoreRef) (s : State) : MemSame s (execPhaseWake core s) := by
  refine memSame_onUnit ?_
  simp
theorem execWaitiWake_mem (core : CoreRef) (s : State) : MemSame s (execWaitiWake core s) := by
  refine memSame_onUnit ?_
  simp
theorem execPhaseCheckTimeout_mem (crew : BitVec 16) (level : BitVec 2) (count : BitVec 48) (s : State) : MemSame s (execPhaseCheckTimeout crew level count s) := by
  refine memSame_done ?_
  dsimp only
  (repeat' split) <;> simp
theorem execNop_mem (s : State) : MemSame s (execNop s) := by
  refine memSame_guarded fun s => ?_
  simp
theorem execSysrd_mem (d : Reg) (n : BitVec 12) (s : State) : MemSame s (execSysrd d n s) := by
  refine memSame_guarded fun s => ?_
  simp
theorem execSyswr_mem (n : BitVec 12) (a : Reg) (s : State) : MemSame s (execSyswr n a s) := by
  refine memSame_guarded fun s => ?_
  simp
theorem execFflagsWrite_mem (a : Reg) (s : State) : MemSame s (execFflagsWrite a s) := by
  refine memSame_guarded fun s => ?_
  simp
theorem execCvmodeWrite_mem (a : Reg) (s : State) : MemSame s (execCvmodeWrite a s) := by
  refine memSame_guarded fun s => ?_
  simp
theorem execVotelogClear_mem (a : Reg) (s : State) : MemSame s (execVotelogClear a s) := by
  refine memSame_guarded fun s => ?_
  simp
theorem execEjflagsClear_mem (a : Reg) (s : State) : MemSame s (execEjflagsClear a s) := by
  refine memSame_guarded fun s => ?_
  simp
theorem execWindescWrite_mem (half : BitVec 5) (a : Reg) (s : State) : MemSame s (execWindescWrite half a s) := by
  refine memSame_guarded fun s => ?_
  simp
theorem execTapcfgWrite_mem (i : BitVec 3) (a : Reg) (s : State) : MemSame s (execTapcfgWrite i a s) := by
  refine memSame_guarded fun s => ?_
  simp
theorem execArrmapWrite_mem (i : BitVec 3) (a : Reg) (s : State) : MemSame s (execArrmapWrite i a s) := by
  refine memSame_guarded fun s => ?_
  simp
theorem execRfmtWrite_mem (i : BitVec 3) (a : Reg) (s : State) : MemSame s (execRfmtWrite i a s) := by
  refine memSame_guarded fun s => ?_
  simp
theorem execEjdescWrite_mem (i : BitVec 4) (a : Reg) (s : State) : MemSame s (execEjdescWrite i a s) := by
  refine memSame_guarded fun s => ?_
  simp
theorem execTej_mem (j : BitVec 4) (a : Reg) (s : State) : MemSame s (execTej j a s) := by
  refine memSame_guarded fun s => ?_
  simp
theorem execRtabWrite_mem (half : BitVec 9) (a : Reg) (s : State) : MemSame s (execRtabWrite half a s) := by
  refine memSame_guarded fun s => ?_
  simp
theorem execTrtab_mem (e : BitVec 8) (a b : Reg) (s : State) : MemSame s (execTrtab e a b s) := by
  refine memSame_guarded fun s => ?_
  simp
theorem arith2_mem (i : Instr) (s : State) (ty : VTy) (sat : Bool) (f : BitVec 2) (vd va : Reg) (b : VSrc) (k : KReg) (fp : BitVec 3 → Num → Num → Num × BitVec 7) (int : Int → Int → Int) : MemSame s (arith2 i s ty sat f vd va b k fp int) := by
  refine memSame_guarded fun s => ?_
  simp
theorem arith3_mem (i : Instr) (s : State) (ty : VTy) (sat : Bool) (f : BitVec 2) (vd va vb vc : Reg) (k : KReg) (minus : Bool) : MemSame s (arith3 i s ty sat f vd va vb vc k minus) := by
  refine memSame_guarded fun s => ?_
  simp
theorem execVadd_mem (ty : VTy) (sat : Bool) (fold : BitVec 2) (vd va : Reg) (b : VSrc) (k : KReg) (s : State) : MemSame s (execVadd ty sat fold vd va b k s) :=
  arith2_mem _ _ _ _ _ _ _ _ _ _ _
theorem execVsub_mem (ty : VTy) (sat : Bool) (fold : BitVec 2) (vd va : Reg) (b : VSrc) (k : KReg) (s : State) : MemSame s (execVsub ty sat fold vd va b k s) :=
  arith2_mem _ _ _ _ _ _ _ _ _ _ _
theorem execVmul_mem (ty : VTy) (sat : Bool) (fold : BitVec 2) (vd va : Reg) (b : VSrc) (k : KReg) (s : State) : MemSame s (execVmul ty sat fold vd va b k s) :=
  arith2_mem _ _ _ _ _ _ _ _ _ _ _
theorem execVfma_mem (ty : VTy) (sat : Bool) (fold : BitVec 2) (vd va vb vc : Reg) (k : KReg) (s : State) : MemSame s (execVfma ty sat fold vd va vb vc k s) :=
  arith3_mem _ _ _ _ _ _ _ _ _ _ _
theorem execVfms_mem (ty : VTy) (sat : Bool) (fold : BitVec 2) (vd va vb vc : Reg) (k : KReg) (s : State) : MemSame s (execVfms ty sat fold vd va vb vc k s) :=
  arith3_mem _ _ _ _ _ _ _ _ _ _ _
theorem execVmin_mem (ty : VTy) (fold : BitVec 2) (vd va : Reg) (b : VSrc) (k : KReg) (s : State) : MemSame s (execVmin ty fold vd va b k s) :=
  arith2_mem _ _ _ _ _ _ _ _ _ _ _
theorem execVmax_mem (ty : VTy) (fold : BitVec 2) (vd va : Reg) (b : VSrc) (k : KReg) (s : State) : MemSame s (execVmax ty fold vd va b k s) :=
  arith2_mem _ _ _ _ _ _ _ _ _ _ _
theorem execVabs_mem (ty : VTy) (sat : Bool) (fold : BitVec 2) (vd va : Reg) (k : KReg) (s : State) : MemSame s (execVabs ty sat fold vd va k s) := by
  refine memSame_guarded fun s => ?_
  simp
theorem execVneg_mem (ty : VTy) (sat : Bool) (fold : BitVec 2) (vd va : Reg) (k : KReg) (s : State) : MemSame s (execVneg ty sat fold vd va k s) := by
  refine memSame_guarded fun s => ?_
  simp
theorem logic2_mem (i : Instr) (s : State) (f : BitVec 2) (vd va : Reg) (b : VSrc) (k : KReg) (g : BitVec 32 → BitVec 32 → BitVec 32) : MemSame s (logic2 i s f vd va b k g) := by
  refine memSame_guarded fun s => ?_
  simp
theorem execVand_mem (fold : BitVec 2) (vd va : Reg) (b : VSrc) (k : KReg) (s : State) : MemSame s (execVand fold vd va b k s) :=
  logic2_mem _ _ _ _ _ _ _ _
theorem execVor_mem (fold : BitVec 2) (vd va : Reg) (b : VSrc) (k : KReg) (s : State) : MemSame s (execVor fold vd va b k s) :=
  logic2_mem _ _ _ _ _ _ _ _
theorem execVxor_mem (fold : BitVec 2) (vd va : Reg) (b : VSrc) (k : KReg) (s : State) : MemSame s (execVxor fold vd va b k s) :=
  logic2_mem _ _ _ _ _ _ _ _
theorem execVshl_mem (fold : BitVec 2) (vd va : Reg) (b : VSrc) (k : KReg) (s : State) : MemSame s (execVshl fold vd va b k s) :=
  logic2_mem _ _ _ _ _ _ _ _
theorem execVshr_mem (fold : BitVec 2) (vd va : Reg) (b : VSrc) (k : KReg) (s : State) : MemSame s (execVshr fold vd va b k s) :=
  logic2_mem _ _ _ _ _ _ _ _
theorem execVsha_mem (fold : BitVec 2) (vd va : Reg) (b : VSrc) (k : KReg) (s : State) : MemSame s (execVsha fold vd va b k s) :=
  logic2_mem _ _ _ _ _ _ _ _
theorem execVcmp_mem (c : VCond) (ty : VTy) (fold : BitVec 2) (kd : KReg) (va : Reg) (b : VSrc) (k : KReg) (s : State) : MemSame s (execVcmp c ty fold kd va b k s) := by
  refine memSame_guarded fun s => ?_
  simp
theorem execVsel_mem (fold : BitVec 2) (vd va vb : Reg) (k : KReg) (s : State) : MemSame s (execVsel fold vd va vb k s) := by
  refine memSame_guarded fun s => ?_
  simp
theorem execVcvt_mem (dst src : CvtTy) (fold : BitVec 2) (vd va : Reg) (k : KReg) (s : State) : MemSame s (execVcvt dst src fold vd va k s) := by
  refine memSame_guarded fun s => ?_
  simp
theorem special_mem (i : Instr) (s : State) (f : BitVec 2) (vd va : Reg) (k : KReg) (g : Num → Num × BitVec 7) : MemSame s (special i s f vd va k g) := by
  refine memSame_guarded fun s => ?_
  simp
theorem execVrcp_mem (fold : BitVec 2) (vd va : Reg) (k : KReg) (s : State) : MemSame s (execVrcp fold vd va k s) :=
  special_mem _ _ _ _ _ _ _
theorem execVrsq_mem (fold : BitVec 2) (vd va : Reg) (k : KReg) (s : State) : MemSame s (execVrsq fold vd va k s) :=
  special_mem _ _ _ _ _ _ _
theorem execVsqrt_mem (fold : BitVec 2) (vd va : Reg) (k : KReg) (s : State) : MemSame s (execVsqrt fold vd va k s) :=
  special_mem _ _ _ _ _ _ _
theorem execVexp2_mem (fold : BitVec 2) (vd va : Reg) (k : KReg) (s : State) : MemSame s (execVexp2 fold vd va k s) :=
  special_mem _ _ _ _ _ _ _
theorem execVlog2_mem (fold : BitVec 2) (vd va : Reg) (k : KReg) (s : State) : MemSame s (execVlog2 fold vd va k s) :=
  special_mem _ _ _ _ _ _ _
theorem execVtanh_mem (fold : BitVec 2) (vd va : Reg) (k : KReg) (s : State) : MemSame s (execVtanh fold vd va k s) :=
  special_mem _ _ _ _ _ _ _
theorem execVsigm_mem (fold : BitVec 2) (vd va : Reg) (k : KReg) (s : State) : MemSame s (execVsigm fold vd va k s) :=
  special_mem _ _ _ _ _ _ _
theorem reduction_mem (i : Instr) (s : State) (op : ScanOp) (ty : VTy) (sat : Bool) (f : BitVec 2) (vd va : Reg) (k : KReg) : MemSame s (reduction i s op ty sat f vd va k) := by
  refine memSame_guarded fun s => ?_
  simp
theorem execVredadd_mem (ty : VTy) (sat : Bool) (fold : BitVec 2) (vd va : Reg) (k : KReg) (s : State) : MemSame s (execVredadd ty sat fold vd va k s) :=
  reduction_mem _ _ _ _ _ _ _ _ _
theorem execVredmax_mem (ty : VTy) (fold : BitVec 2) (vd va : Reg) (k : KReg) (s : State) : MemSame s (execVredmax ty fold vd va k s) :=
  reduction_mem _ _ _ _ _ _ _ _ _
theorem execVredmin_mem (ty : VTy) (fold : BitVec 2) (vd va : Reg) (k : KReg) (s : State) : MemSame s (execVredmin ty fold vd va k s) :=
  reduction_mem _ _ _ _ _ _ _ _ _
theorem execVscan_mem (op : ScanOp) (ty : VTy) (sat : Bool) (fold : BitVec 2) (vd va : Reg) (k : KReg) (s : State) : MemSame s (execVscan op ty sat fold vd va k s) := by
  refine memSame_guarded fun s => ?_
  simp
theorem execVargmax_mem (ty : VTy) (fold : BitVec 2) (vd va : Reg) (k : KReg) (s : State) : MemSame s (execVargmax ty fold vd va k s) := by
  refine memSame_guarded fun s => ?_
  simp
theorem move_mem (i : Instr) (s : State) (f : BitVec 2) (vd : Reg) (k : KReg) (g : State → Fin 64 → BitVec 32) : MemSame s (move i s f vd k g) := by
  refine memSame_guarded fun s => ?_
  simp
theorem execVperm_mem (fold : BitVec 2) (vd va vb : Reg) (k : KReg) (s : State) : MemSame s (execVperm fold vd va vb k s) :=
  move_mem _ _ _ _ _ _
theorem execVbcast_mem (fold : BitVec 2) (vd va : Reg) (e : BitVec 6) (k : KReg) (s : State) : MemSame s (execVbcast fold vd va e k s) :=
  move_mem _ _ _ _ _ _
theorem execVsplatG_mem (fold : BitVec 2) (vd ga : Reg) (k : KReg) (s : State) : MemSame s (execVsplatG fold vd ga k s) :=
  move_mem _ _ _ _ _ _
theorem execVsplatImm_mem (fold : BitVec 2) (vd : Reg) (imm : BitVec 13) (k : KReg) (s : State) : MemSame s (execVsplatImm fold vd imm k s) :=
  move_mem _ _ _ _ _ _
theorem execViota_mem (fold : BitVec 2) (vd : Reg) (imm : BitVec 13) (k : KReg) (s : State) : MemSame s (execViota fold vd imm k s) :=
  move_mem _ _ _ _ _ _
theorem execVmov_mem (fold : BitVec 2) (vd va : Reg) (k : KReg) (s : State) : MemSame s (execVmov fold vd va k s) :=
  move_mem _ _ _ _ _ _
theorem execVmovG_mem (gd va : Reg) (e : BitVec 6) (s : State) : MemSame s (execVmovG gd va e s) := by
  refine memSame_guarded fun s => ?_
  simp
theorem execVmovE_mem (vd ga : Reg) (e : BitVec 6) (s : State) : MemSame s (execVmovE vd ga e s) := by
  refine memSame_guarded fun s => ?_
  simp
theorem execVcomp_mem (fold : BitVec 2) (vd : Reg) (kd : KReg) (va : Reg) (k : KReg) (s : State) : MemSame s (execVcomp fold vd kd va k s) := by
  refine memSame_guarded fun s => ?_
  simp
theorem execVlut_mem (fold : BitVec 2) (vd va : Reg) (k : KReg) (s : State) : MemSame s (execVlut fold vd va k s) :=
  move_mem _ _ _ _ _ _
theorem execVhash_mem (fold : BitVec 2) (vd va vb : Reg) (seed : BitVec 13) (k : KReg) (s : State) : MemSame s (execVhash fold vd va vb seed k s) := by
  refine memSame_guarded fun s => ?_
  simp
theorem execVsample_mem (fold : BitVec 2) (vd va vb vc : Reg) (topk : BitVec 13) (k : KReg) (s : State) : MemSame s (execVsample fold vd va vb vc topk k s) := by
  refine memSame_guarded fun s => ?_
  split <;> simp
theorem execPcfg_mem (p : PReg) (base idx : Reg) (off : BitVec 19) (s : State) : MemSame s (execPcfg p base idx off s) := by
  refine memSame_guarded fun s => ?_
  simp
theorem execPclose_mem (p : PReg) (s : State) : MemSame s (execPclose p s) := by
  refine memSame_guarded fun s => ?_
  simp
theorem execPstat_mem (d : Reg) (p : PReg) (s : State) : MemSame s (execPstat d p s) := by
  refine memSame_guarded fun s => ?_
  simp
theorem execPseek_mem (p : PReg) (b : Reg) (s : State) : MemSame s (execPseek p b s) := by
  refine memSame_guarded fun s => ?_
  simp
theorem execPortFetch_mem (core : CoreRef) (p : PReg) (s : State) : MemSame s (execPortFetch core p s) := by
  refine memSame_onUnit ?_
  simp
theorem execFence_mem (s : State) : MemSame s (execFence s) := by
  refine memSame_guarded fun s => ?_
  simp
theorem execFenceRelease_mem (core : CoreRef) (s : State) : MemSame s (execFenceRelease core s) := by
  refine memSame_onUnit ?_
  simp
theorem execVld_mem (fold : BitVec 2) (t : Reg) (m : MemOp) (k : KReg) (s : State) : MemSame s (execVld fold t m k s) := by
  refine memSame_guarded ?_
  intro s
  repeat' (first | with_reducible rfl | (simp; done) | split | (refine State.withRead_mem _ _ _ _ _ ?_; intro _ _) | (refine State.withAccess_mem _ _ _ _ _ ?_; intro _) | (refine State.takeStep_mem _ _ _ _ ?_; intro _ _) | (refine State.writeStep_mem _ _ _ _ _ ?_; intro _) | (refine State.ticketWord_mem _ _ _ _ _ ?_; intro _) | simp | (refine (foldl_mem _ _ _ ?_); intro _ _) | (rename_i heq; have hm := congrArg (fun p => (Prod.snd p).mem) heq; simp at hm; simp [← hm]; done))
theorem execVst_mem (fold : BitVec 2) (t : Reg) (m : MemOp) (k : KReg) (s : State) : MemSame s (execVst fold t m k s) := by
  refine memSame_guarded fun s => ?_
  dsimp only
  (repeat' split) <;> simp
theorem execVlds_mem (fold : BitVec 2) (t base : Reg) (off : BitVec 19) (st : Reg) (k : KReg) (s : State) : MemSame s (execVlds fold t base off st k s) := by
  refine memSame_guarded fun s => ?_
  simp
theorem execVgath_mem (fold : BitVec 2) (t base : Reg) (off : BitVec 19) (vi : Reg) (k : KReg) (s : State) : MemSame s (execVgath fold t base off vi k s) := by
  refine memSame_guarded fun s => ?_
  simp
theorem execVscat_mem (fold : BitVec 2) (t base : Reg) (off : BitVec 19) (vi : Reg) (k : KReg) (s : State) : MemSame s (execVscat fold t base off vi k s) := by
  refine memSame_guarded fun s => ?_
  dsimp only
  (repeat' split) <;> simp
theorem execFgrp_mem (a : Reg) (g : BitVec 8) (s : State) : MemSame s (execFgrp a g s) := by
  refine memSame_guarded fun s => ?_
  dsimp only
  (repeat' split) <;> simp
theorem execFinj_mem (a t : Reg) (g : BitVec 8) (s : State) : MemSame s (execFinj a t g s) := by
  refine memSame_guarded fun s => ?_
  split <;> simp
theorem execFpref_mem (a l : Reg) (s : State) : MemSame s (execFpref a l s) := by
  refine memSame_guarded fun s => ?_
  dsimp only
  (repeat' split) <;> simp
theorem execFupd_mem (op : FupdOp) (fmt : FFmt) (w sr c : Reg) (nM1 : BitVec 16) (s : State) : MemSame s (execFupd op fmt w sr c nM1 s) := by
  refine memSame_guarded fun s => ?_
  dsimp only
  (repeat' split) <;> simp
theorem execFred_mem (op : FredOp) (fmt : FFmt) (d a : Reg) (nM1 : BitVec 16) (s : State) : MemSame s (execFred op fmt d a nM1 s) := by
  refine memSame_guarded fun s => ?_
  dsimp only
  (repeat' split) <;> simp
theorem execVpda_mem (vd va vb : Reg) (w : BitVec 4) (s : State) : MemSame s (execVpda vd va vb w s) := by
  refine memSame_guarded fun s => ?_
  dsimp only
  split
  · simp
  · split
    · simp
    · rename_i h
      split <;> simp [State.tableHeader_mem h]
theorem execVtmask_mem (fold : BitVec 2) (kd : KReg) (va vb : Reg) (w : BitVec 4) (s : State) : MemSame s (execVtmask fold kd va vb w s) := by
  refine memSame_guarded fun s => ?_
  dsimp only
  split
  · simp
  · split
    · simp
    · rename_i h
      split <;> simp [State.tableHeader_mem h]
theorem execMarm_mem (ch : BitVec 4) (s : State) : MemSame s (execMarm ch s) := by
  refine memSame_guarded fun s => ?_
  dsimp only
  (repeat' split) <;> simp
theorem execMdisarm_mem (ch : BitVec 4) (s : State) : MemSame s (execMdisarm ch s) := by
  refine memSame_guarded fun s => ?_
  simp
theorem execMrel_mem (ch : BitVec 4) (s : State) : MemSame s (execMrel ch s) := by
  refine memSame_guarded fun s => ?_
  dsimp only
  (repeat' split) <;> simp
theorem execMmul_mem (kg : KGroup) (z : Bool) (ch : BitVec 4) (pa : PReg) (gm1 : BitVec 8) (s : State) : MemSame s (execMmul kg z ch pa gm1 s) := by
  refine memSame_guarded fun s => ?_
  dsimp only
  (repeat' split) <;> simp
theorem execMmulw_mem (kg : KGroup) (z : Bool) (ch : BitVec 4) (pa pb : PReg) (gm1 : BitVec 8) (s : State) : MemSame s (execMmulw kg z ch pa pb gm1 s) := by
  refine memSame_guarded fun s => ?_
  split <;> simp
theorem execMzero_mem (z : Bool) (s : State) : MemSame s (execMzero z s) := by
  refine memSame_guarded fun s => ?_
  simp
theorem execMldz_mem (z : Bool) (vs : Reg) (s : State) : MemSame s (execMldz z vs s) := by
  refine memSame_guarded fun s => ?_
  simp
theorem execMstz_mem (vd : Reg) (z : Bool) (s : State) : MemSame s (execMstz vd z s) := by
  refine memSame_guarded fun s => ?_
  simp
theorem execMsums_mem (acc : Bool) (vd : Reg) (s : State) : MemSame s (execMsums acc vd s) := by
  refine memSame_guarded fun s => ?_
  simp
theorem execMdrain_mem (z : Bool) (o : Reg) (s : State) : MemSame s (execMdrain z o s) := by
  refine memSame_guarded fun s => ?_
  split
  · rfl
  · extract_lets
    repeat' split
    all_goals simp +zetaDelta
theorem execMdrainV_mem (z : Bool) (vd : Reg) (s : State) : MemSame s (execMdrainV z vd s) := by
  refine memSame_guarded fun s => ?_
  split <;> simp
theorem execMdcfgSet_mem (c : BitVec 2) (s : State) : MemSame s (execMdcfgSet c s) := by
  refine memSame_guarded fun s => ?_
  simp
theorem execMdcfgClr_mem (s : State) : MemSame s (execMdcfgClr s) := by
  refine memSame_guarded fun s => ?_
  simp
theorem execMdcfgTok_mem (c : BitVec 2) (s : State) : MemSame s (execMdcfgTok c s) := by
  refine memSame_guarded fun s => ?_
  simp
theorem execHoldAnnounce_mem (crew : BitVec 16) (_a : BitVec 48) (m : HoldMsg) (via : Option Nat) (s : State) : MemSame s (execHoldAnnounce crew _a m via s) := by
  refine memSame_done ?_
  split <;> simp
theorem execHoldRelease_mem (crew : BitVec 16) (y : HoldSpan) (via : Option Nat) (s : State) : MemSame s (execHoldRelease crew y via s) := by
  refine memSame_done ?_
  split <;> simp
theorem execHoldStart_mem (crew : BitVec 16) (s : State) : MemSame s (execHoldStart crew s) := by
  refine memSame_done ?_
  split <;> simp
theorem execHoldEnd_mem (crew : BitVec 16) (s : State) : MemSame s (execHoldEnd crew s) := by
  refine memSame_done ?_
  split <;> simp
theorem execHoldrq_mem (l : BitVec 16) (s : State) : MemSame s (execHoldrq l s) := by
  refine memSame_guarded fun s => ?_
  split <;> simp
theorem execDrift_mem (s : State) : MemSame s (execDrift s) := by
  refine memSame_guarded fun s => ?_
  split <;> simp
theorem execDriftPause_mem (crew : BitVec 16) (s : State) : MemSame s (execDriftPause crew s) := by
  refine memSame_done ?_
  split <;> simp
theorem execTimeCheckPulse_mem (s : State) : MemSame s (execTimeCheckPulse s) := by
  refine memSame_done ?_
  simp
theorem execVcycBroadcast_mem (crew : BitVec 16) (s : State) : MemSame s (execVcycBroadcast crew s) := by
  refine memSame_done ?_
  split <;> simp
theorem execReferenceLoss_mem (s : State) : MemSame s (execReferenceLoss s) := by
  refine memSame_done ?_
  simp
theorem execTimeT_mem (d : Reg) (s : State) : MemSame s (execTimeT d s) := by
  refine memSame_guarded fun s => ?_
  simp
theorem execTimeV_mem (d : Reg) (s : State) : MemSame s (execTimeV d s) := by
  refine memSame_guarded fun s => ?_
  simp
theorem execTimeOff_mem (d : Reg) (s : State) : MemSame s (execTimeOff d s) := by
  refine memSame_guarded fun s => ?_
  simp
@[simp] theorem State.copyBytes_mem (s : State) (f k n : Nat) : (s.copyBytes f k n).2.mem = s.mem := by
  induction n generalizing s k with
  | zero => rfl
  | succ n ih =>
    unfold State.copyBytes
    dsimp only
    split
    · exact ih _ _
    · exact (ih _ _).trans rfl
theorem execFinjCopy_mem (f id : Nat) (s : State) : MemSame s (execFinjCopy f id s) := by
  refine memSame_onUnit ?_
  split
  · rfl
  · extract_lets
    split
    · simp +zetaDelta
    · split
      · simp +zetaDelta
      · extract_lets
        repeat' split
        all_goals first | (simp +zetaDelta; done) | (rename_i h; have hm := congrArg (fun p => (Prod.snd p).mem) h; simp at hm; simp [← hm]; done)
theorem execInjectionModulate_mem (f id : Nat) (s : State) : MemSame s (execInjectionModulate f id s) := by
  refine memSame_onUnit ?_
  split
  · rfl
  · dsimp only
    split
    · rfl
    · split
      · rfl
      · split
        · simp
        · split
          · simp
          · refine (foldl_mem _ _ _ fun s r => ?_).trans ?_
            · split <;> simp
            · simp
theorem execDrawOffInjectStop_mem (crew : BitVec 16) (s : State) : MemSame s (execDrawOffInjectStop crew s) := by
  refine memSame_done ?_
  split <;> simp
theorem execWeightReadRetry_mem (f line : Nat) (s : State) : MemSame s (execWeightReadRetry f line s) := by
  refine memSame_onUnit ?_
  split <;> simp
theorem execWeightReadData_mem (f line : Nat) (s : State) : MemSame s (execWeightReadData f line s) := by
  refine memSame_onUnit ?_
  split <;> simp
theorem execDeliveryStart_mem (tile : Nat) (lane : BitVec 2) (lams : BitVec 16) (tag : BitVec 8) (f : Nat) (t : BitVec 48) (light : Light) (only : Option (BitVec 3)) (s : State) : MemSame s (execDeliveryStart tile lane lams tag f t light only s) := by
  refine memSame_onUnit ?_
  simp
theorem execDeliveryComplete_mem (tile block : Nat) (s : State) : MemSame s (execDeliveryComplete tile block s) := by
  refine memSame_onUnit ?_
  dsimp only
  (repeat' split) <;> simp
theorem execLaserFailover_mem (laser : Nat) (s : State) : MemSame s (execLaserFailover laser s) := by
  refine memSame_onUnit ?_
  simp
theorem execScrubRead_mem (tile addr : Nat) (found : StoreErr) (s : State) : MemSame s (execScrubRead tile addr found s) := by
  refine memSame_onUnit ?_
  split <;> simp
theorem execDirtyLineEvict_mem (f line : Nat) (badSectors : BitVec 8) (s : State) : MemSame s (execDirtyLineEvict f line badSectors s) := by
  refine memSame_onUnit ?_
  dsimp only
  (repeat' split) <;> simp
theorem execLd_mem (sz : BitVec 2) (uns : Bool) (t : Reg) (m : MemOp) (s : State) : MemSame s (execLd sz uns t m s) := by
  refine memSame_guarded fun s => ?_
  split <;> simp
theorem execSt_mem (sz : BitVec 2) (t : Reg) (m : MemOp) (s : State) : MemSame s (execSt sz t m s) := by
  refine memSame_guarded fun s => ?_
  split <;> simp
theorem execAmo_mem (op : AmoOp) (uns dword : Bool) (t base : Reg) (off : BitVec 19) (i : Reg) (s : State) : MemSame s (execAmo op uns dword t base off i s) := by
  refine memSame_guarded ?_
  intro s
  repeat' (first | with_reducible rfl | (simp; done) | split | (refine State.withRead_mem _ _ _ _ _ ?_; intro _ _) | (refine State.withAccess_mem _ _ _ _ _ ?_; intro _) | (refine State.takeStep_mem _ _ _ _ ?_; intro _ _) | (refine State.writeStep_mem _ _ _ _ _ ?_; intro _) | (refine State.ticketWord_mem _ _ _ _ _ ?_; intro _) | simp | (refine (foldl_mem _ _ _ ?_); intro _ _) | (rename_i heq; have hm := congrArg (fun p => (Prod.snd p).mem) heq; simp at hm; simp [← hm]; done))
theorem execWinqAddr_mem (d a : Reg) (s : State) : MemSame s (execWinqAddr d a s) := by
  refine memSame_guarded fun s => ?_
  simp
theorem execWinqNum_mem (d : Reg) (w : BitVec 4) (s : State) : MemSame s (execWinqNum d w s) := by
  refine memSame_guarded fun s => ?_
  simp
theorem execLutld_mem (base idx : Reg) (off : BitVec 19) (s : State) : MemSame s (execLutld base idx off s) := by
  refine memSame_guarded fun s => ?_
  simp
theorem execBerthW_mem (w : BitVec 4) (b : Reg) (s : State) : MemSame s (execBerthW w b s) := by
  refine memSame_guarded fun s => ?_
  simp
theorem execBerthG_mem (a b : Reg) (s : State) : MemSame s (execBerthG a b s) := by
  refine memSame_guarded fun s => ?_
  simp
theorem execBviewW_mem (w : BitVec 4) (b : Reg) (s : State) : MemSame s (execBviewW w b s) := by
  refine memSame_guarded fun s => ?_
  simp
theorem execBviewG_mem (a b : Reg) (s : State) : MemSame s (execBviewG a b s) := by
  refine memSame_guarded fun s => ?_
  simp
theorem execBtakeW_mem (w : BitVec 4) (s : State) : MemSame s (execBtakeW w s) := by
  refine memSame_guarded fun s => ?_
  simp
theorem execBtakeG_mem (a : Reg) (s : State) : MemSame s (execBtakeG a s) := by
  refine memSame_guarded fun s => ?_
  simp
theorem execBtakeViewW_mem (w : BitVec 4) (s : State) : MemSame s (execBtakeViewW w s) := by
  refine memSame_guarded fun s => ?_
  simp
theorem execBtakeViewG_mem (a : Reg) (s : State) : MemSame s (execBtakeViewG a s) := by
  refine memSame_guarded fun s => ?_
  simp
theorem execBerthOfferArrive_mem (core : CoreRef) (region : Word) (view : Bool) (s : State) : MemSame s (execBerthOfferArrive core region view s) := by
  refine memSame_onUnit ?_
  repeat' (first | with_reducible rfl | (simp; done) | split | (refine State.withRead_mem _ _ _ _ _ ?_; intro _ _) | (refine State.withAccess_mem _ _ _ _ _ ?_; intro _) | (refine State.takeStep_mem _ _ _ _ ?_; intro _ _) | (refine State.writeStep_mem _ _ _ _ _ ?_; intro _) | (refine State.ticketWord_mem _ _ _ _ _ ?_; intro _) | simp | (refine (foldl_mem _ _ _ ?_); intro _ _) | (rename_i heq; have hm := congrArg (fun p => (Prod.snd p).mem) heq; simp at hm; simp [← hm]; done))
theorem execBtakeTimeout_mem (core : CoreRef) (s : State) : MemSame s (execBtakeTimeout core s) := by
  refine memSame_onUnit ?_
  dsimp only
  (repeat' split) <;> simp
theorem execTicketRequest_mem (rx ry : Nat) (q : Req) (s : State) : MemSame s (execTicketRequest rx ry q s) := by
  refine memSame_onUnit ?_
  (repeat' split) <;> simp
theorem execTserveWake_mem (w : TicketWait) (s : State) : MemSame s (execTserveWake w s) := by
  refine memSame_onUnit ?_
  simp
theorem execTkt_mem (d : Reg) (n : BitVec 6) (s : State) : MemSame s (execTkt d n s) := by
  refine memSame_guarded fun s => ?_
  simp
theorem execTserve_mem (a : Reg) (n : BitVec 6) (s : State) : MemSame s (execTserve a n s) := by
  refine memSame_guarded fun s => ?_
  simp
theorem execTadv_mem (n : BitVec 6) (s : State) : MemSame s (execTadv n s) := by
  refine memSame_guarded fun s => ?_
  simp
theorem execRld_mem (sz : BitVec 2) (uns : Bool) (d a : Reg) (imm : BitVec 16) (s : State) : MemSame s (execRld sz uns d a imm s) := by
  refine memSame_guarded fun s => ?_
  simp
theorem execRst_mem (sz : BitVec 2) (a b : Reg) (imm : BitVec 16) (s : State) : MemSame s (execRst sz a b imm s) := by
  refine memSame_guarded fun s => ?_
  simp
theorem execRamo_mem (op : AmoOp) (uns dword : Bool) (d a b c : Reg) (imm : BitVec 16) (s : State) : MemSame s (execRamo op uns dword d a b c imm s) := by
  refine memSame_guarded fun s => ?_
  simp
theorem execRfence_mem (s : State) : MemSame s (execRfence s) := by
  refine memSame_guarded fun s => ?_
  simp
theorem execRemoteTimeout_mem (core : CoreRef) (tag : BitVec 16) (s : State) : MemSame s (execRemoteTimeout core tag s) := by
  refine memSame_onUnit ?_
  simp
theorem execRfenceRelease_mem (core : CoreRef) (s : State) : MemSame s (execRfenceRelease core s) := by
  refine memSame_onUnit ?_
  simp
theorem execFerryOffer_mem (core : CoreRef) (tag : BitVec 16) (f : Nat) (s : State) : MemSame s (execFerryOffer core tag f s) := by
  refine memSame_onUnit ?_
  simp
theorem execFerryReturn_mem (core : CoreRef) (s : State) : MemSame s (execFerryReturn core s) := by
  refine memSame_onUnit ?_
  (repeat' split) <;> simp
theorem execTokenEject_mem (tile : Nat) (ejd : BitVec 4) (rfx : BitVec 3) (flits : List FlitBits) (s : State) : MemSame s (execTokenEject tile ejd rfx flits s) := by
  refine memSame_onUnit ?_
  simp
@[simp] theorem State.noteVoted_mem (s : State) (tile : Nat) (ports : List Nat) (ins : List Flit) (v : Option FlitBits) :
    (s.noteVoted tile ports ins v).mem = s.mem := by cases v <;> simp [State.noteVoted]
@[simp] theorem State.ejectResult_mem (s : State) (tile : Nat) (x : Flit) (r : Option Reduction) : (s.ejectResult tile x r).mem = s.mem := by
  unfold State.ejectResult
  repeat' split
  all_goals simp
theorem execStaticFlitHop_mem (tile : Nat) (s : State) : MemSame s (execStaticFlitHop tile s) := by
  refine memSame_onUnit ?_
  split
  · rfl
  · split
    · rfl
    · split
      · exact State.modTile_mem ..
      · extract_lets
        split
        extract_lets
        split
        extract_lets
        refine (foldl_mem _ _ _ fun s r => State.coreFault_mem ..).trans ?_
        simp +zetaDelta only [State.ejectRow_mem, State.ejectResult_mem, State.sendLinks_mem, State.noteVoted_mem, State.modTile_mem,
          State.feederFlits_mem]
theorem execStaticFlitHandoff_mem (tl : Nat) (s : State) : MemSame s (execStaticFlitHandoff tl s) := by
  refine memSame_onUnit ?_
  repeat' (first | with_reducible rfl | (simp; done) | split | (refine State.withRead_mem _ _ _ _ _ ?_; intro _ _) | (refine State.withAccess_mem _ _ _ _ _ ?_; intro _) | (refine State.takeStep_mem _ _ _ _ ?_; intro _ _) | (refine State.writeStep_mem _ _ _ _ _ ?_; intro _) | (refine State.ticketWord_mem _ _ _ _ _ ?_; intro _) | simp | (refine (foldl_mem _ _ _ ?_); intro _ _) | (rename_i heq; have hm := congrArg (fun p => (Prod.snd p).mem) heq; simp at hm; simp [← hm]; done))
theorem execTsend_mem (a : Reg) (imm : BitVec 16) (s : State) : MemSame s (execTsend a imm s) := by
  refine memSame_guarded fun s => ?_
  simp
theorem execTsendP_mem (p : PReg) (s : State) : MemSame s (execTsendP p s) := by
  refine memSame_guarded fun s => ?_
  simp
theorem execTsendV_mem (va : Reg) (q : BitVec 2) (s : State) : MemSame s (execTsendV va q s) := by
  refine memSame_guarded fun s => ?_
  simp
theorem execTredV_mem (isInt : Bool) (va : Reg) (s : State) : MemSame s (execTredV isInt va s) := by
  refine memSame_guarded fun s => ?_
  simp
theorem execTredMem_mem (isInt : Bool) (a : Reg) (imm : BitVec 16) (s : State) : MemSame s (execTredMem isInt a imm s) := by
  refine memSame_guarded fun s => ?_
  simp
theorem execDynPacketHop_mem (tile : Nat) (s : State) : MemSame s (execDynPacketHop tile s) := by
  refine memSame_onUnit ?_
  split
  · rfl
  · dsimp only
    refine (foldl_mem _ _ _ fun s k => ?_).trans (foldl_mem _ _ _ fun s x => ?_)
    · split
      · rfl
      · split <;> simp
    · split
      · rfl
      · split
        · split <;> simp
        · split <;> simp
theorem execTdsend_mem (d a b c : Reg) (len : BitVec 7) (s : State) : MemSame s (execTdsend d a b c len s) := by
  refine memSame_guarded fun s => ?_
  dsimp only
  split
  · simp
  · refine State.withRead_mem _ _ _ _ _ fun bs s => ?_
    split
    · simp
    · rw [State.laterG_mem]; split <;> simp
theorem execTdrecv_mem (d a : Reg) (s : State) : MemSame s (execTdrecv d a s) := by
  refine memSame_guarded fun s => ?_
  (repeat' split) <;> simp
theorem execTdrecvNb_mem (d a : Reg) (s : State) : MemSame s (execTdrecvNb d a s) := by
  refine memSame_guarded fun s => ?_
  (repeat' split) <;> simp
theorem execTdrecvWake_mem (core : CoreRef) (s : State) : MemSame s (execTdrecvWake core s) := by
  refine memSame_onUnit ?_
  dsimp only
  (repeat' split) <;> simp
theorem execHello_mem (tile : Nat) (edge : EdgeWire) (code : BitVec 3) (s : State) : MemSame s (execHello tile edge code s) := by
  refine memSame_onUnit ?_
  simp
theorem execBindRequest_mem (b : BindReq) (s : State) : MemSame s (execBindRequest b s) := by
  refine memSame_done ?_
  dsimp only
  (repeat' split) <;> simp
theorem execDrawOff_mem (crew : BitVec 16) (s : State) : MemSame s (execDrawOff crew s) := by
  refine memSame_done ?_
  split <;> simp
theorem execMarkComplete_mem (crew : BitVec 16) (s : State) : MemSame s (execMarkComplete crew s) := by
  refine memSame_done ?_
  dsimp only
  (repeat' split) <;> simp
theorem execSelectionDecide_mem (crew : BitVec 16) (cls : BitVec 3) (e : BitVec 48) (s : State) : MemSame s (execSelectionDecide crew cls e s) := by
  refine memSame_done ?_
  dsimp only
  (repeat' split) <;> simp
theorem execSelectionSwitch_mem (crew : BitVec 16) (s : State) : MemSame s (execSelectionSwitch crew s) := by
  refine memSame_done ?_
  split <;> simp
theorem execAllowChange_mem (crew : BitVec 16) (modIdx : Nat) (allow : BitVec 16) (s : State) : MemSame s (execAllowChange crew modIdx allow s) := by
  refine memSame_done ?_
  dsimp only
  (repeat' split) <;> simp
theorem execSchedulerPass_mem (s : State) : MemSame s (execSchedulerPass s) := by
  refine memSame_done ?_
  simp
theorem execAgeTick_mem (s : State) : MemSame s (execAgeTick s) := by
  refine memSame_done ?_
  simp
theorem execPowerLimitRelease_mem (mean : Nat) (s : State) : MemSame s (execPowerLimitRelease mean s) := by
  refine memSame_done ?_
  simp
theorem execCoreRailLoss_mem (rx ry : Nat) (s : State) : MemSame s (execCoreRailLoss rx ry s) := by
  refine memSame_onUnit ?_
  simp
theorem execCoreRailReturn_mem (rx ry : Nat) (s : State) : MemSame s (execCoreRailReturn rx ry s) := by
  refine memSame_onUnit ?_
  dsimp only
  (repeat' split) <;> simp
theorem execTransitRailLoss_mem (rx ry : Nat) (s : State) : MemSame s (execTransitRailLoss rx ry s) := by
  refine memSame_onUnit ?_
  simp
theorem execTransitConverterLoss_mem (rx ry : Nat) (second : Bool) (s : State) : MemSame s (execTransitConverterLoss rx ry second s) := by
  refine memSame_onUnit ?_
  dsimp only
  (repeat' split) <;> simp
theorem execLaneRotationStep_mem (d : TowDir) (differ : Bool) (s : State) : MemSame s (execLaneRotationStep d differ s) := by
  refine memSame_onUnit ?_
  dsimp only
  (repeat' split) <;> simp
theorem execWeakLane_mem (d : TowDir) (lane : Nat) (s : State) : MemSame s (execWeakLane d lane s) := by
  refine memSame_onUnit ?_
  simp
theorem execLaneSignalLoss_mem (d : TowDir) (lane : Nat) (s : State) : MemSame s (execLaneSignalLoss d lane s) := by
  refine memSame_onUnit ?_
  simp
theorem execLhctlRestart_mem (port : Nat) (val : Word) (s : State) : MemSame s (execLhctlRestart port val s) := by
  refine memSame_onUnit ?_
  simp
theorem scalar_mem (i : Instr) (s : State) (n : Nat) (d : Reg) (f : State → Word) : MemSame s (scalar i s n d f) := by
  refine memSame_guarded fun s => ?_
  simp
theorem division_mem (i : Instr) (s : State) (d b : Reg) (f : State → Word) : MemSame s (division i s d b f) := by
  refine memSame_guarded fun s => ?_
  simp
theorem execAdd_mem (d a b : Reg) (s : State) : MemSame s (execAdd d a b s) :=
  scalar_mem _ _ _ _ _
theorem execSub_mem (d a b : Reg) (s : State) : MemSame s (execSub d a b s) :=
  scalar_mem _ _ _ _ _
theorem execAddi_mem (d a : Reg) (imm : BitVec 32) (s : State) : MemSame s (execAddi d a imm s) :=
  scalar_mem _ _ _ _ _
theorem execMul_mem (d a b : Reg) (s : State) : MemSame s (execMul d a b s) :=
  scalar_mem _ _ _ _ _
theorem execMulh_mem (d a b : Reg) (s : State) : MemSame s (execMulh d a b s) :=
  scalar_mem _ _ _ _ _
theorem execMulhsu_mem (d a b : Reg) (s : State) : MemSame s (execMulhsu d a b s) :=
  scalar_mem _ _ _ _ _
theorem execDiv_mem (d a b : Reg) (s : State) : MemSame s (execDiv d a b s) :=
  division_mem _ _ _ _ _
theorem execDivu_mem (d a b : Reg) (s : State) : MemSame s (execDivu d a b s) :=
  division_mem _ _ _ _ _
theorem execRem_mem (d a b : Reg) (s : State) : MemSame s (execRem d a b s) :=
  division_mem _ _ _ _ _
theorem execRemu_mem (d a b : Reg) (s : State) : MemSame s (execRemu d a b s) :=
  division_mem _ _ _ _ _
theorem execAnd_mem (d a b : Reg) (s : State) : MemSame s (execAnd d a b s) :=
  scalar_mem _ _ _ _ _
theorem execOr_mem (d a b : Reg) (s : State) : MemSame s (execOr d a b s) :=
  scalar_mem _ _ _ _ _
theorem execXor_mem (d a b : Reg) (s : State) : MemSame s (execXor d a b s) :=
  scalar_mem _ _ _ _ _
theorem execAndn_mem (d a b : Reg) (s : State) : MemSame s (execAndn d a b s) :=
  scalar_mem _ _ _ _ _
theorem execAndi_mem (d a : Reg) (imm : BitVec 32) (s : State) : MemSame s (execAndi d a imm s) :=
  scalar_mem _ _ _ _ _
theorem execOri_mem (d a : Reg) (imm : BitVec 32) (s : State) : MemSame s (execOri d a imm s) :=
  scalar_mem _ _ _ _ _
theorem execXori_mem (d a : Reg) (imm : BitVec 32) (s : State) : MemSame s (execXori d a imm s) :=
  scalar_mem _ _ _ _ _
theorem execShl_mem (d a b : Reg) (s : State) : MemSame s (execShl d a b s) :=
  scalar_mem _ _ _ _ _
theorem execShr_mem (d a b : Reg) (s : State) : MemSame s (execShr d a b s) :=
  scalar_mem _ _ _ _ _
theorem execSha_mem (d a b : Reg) (s : State) : MemSame s (execSha d a b s) :=
  scalar_mem _ _ _ _ _
theorem execShli_mem (d a : Reg) (n : BitVec 6) (s : State) : MemSame s (execShli d a n s) :=
  scalar_mem _ _ _ _ _
theorem execShri_mem (d a : Reg) (n : BitVec 6) (s : State) : MemSame s (execShri d a n s) :=
  scalar_mem _ _ _ _ _
theorem execShai_mem (d a : Reg) (n : BitVec 6) (s : State) : MemSame s (execShai d a n s) :=
  scalar_mem _ _ _ _ _
theorem execRot_mem (d a b : Reg) (s : State) : MemSame s (execRot d a b s) :=
  scalar_mem _ _ _ _ _
theorem execMin_mem (d a b : Reg) (s : State) : MemSame s (execMin d a b s) :=
  scalar_mem _ _ _ _ _
theorem execMax_mem (d a b : Reg) (s : State) : MemSame s (execMax d a b s) :=
  scalar_mem _ _ _ _ _
theorem execMinu_mem (d a b : Reg) (s : State) : MemSame s (execMinu d a b s) :=
  scalar_mem _ _ _ _ _
theorem execMaxu_mem (d a b : Reg) (s : State) : MemSame s (execMaxu d a b s) :=
  scalar_mem _ _ _ _ _
theorem execSlt_mem (d a b : Reg) (s : State) : MemSame s (execSlt d a b s) :=
  scalar_mem _ _ _ _ _
theorem execSltu_mem (d a b : Reg) (s : State) : MemSame s (execSltu d a b s) :=
  scalar_mem _ _ _ _ _
theorem execSeq_mem (d a b : Reg) (s : State) : MemSame s (execSeq d a b s) :=
  scalar_mem _ _ _ _ _
theorem execSel_mem (d a b c : Reg) (s : State) : MemSame s (execSel d a b c s) :=
  scalar_mem _ _ _ _ _
theorem execClz_mem (d a : Reg) (s : State) : MemSame s (execClz d a s) :=
  scalar_mem _ _ _ _ _
theorem execCtz_mem (d a : Reg) (s : State) : MemSame s (execCtz d a s) :=
  scalar_mem _ _ _ _ _
theorem execPopc_mem (d a : Reg) (s : State) : MemSame s (execPopc d a s) :=
  scalar_mem _ _ _ _ _
theorem execLi_mem (d : Reg) (imm : BitVec 42) (s : State) : MemSame s (execLi d imm s) :=
  scalar_mem _ _ _ _ _
theorem execLih_mem (d : Reg) (imm : BitVec 22) (s : State) : MemSame s (execLih d imm s) :=
  scalar_mem _ _ _ _ _
theorem execAddx_mem (d a b : Reg) (n : BitVec 3) (s : State) : MemSame s (execAddx d a b n s) :=
  scalar_mem _ _ _ _ _
theorem execExtb_mem (sgn : Bool) (d a : Reg) (pos lenM1 : BitVec 6) (s : State) : MemSame s (execExtb sgn d a pos lenM1 s) :=
  scalar_mem _ _ _ _ _
theorem execInsb_mem (d a : Reg) (pos lenM1 : BitVec 6) (s : State) : MemSame s (execInsb d a pos lenM1 s) :=
  scalar_mem _ _ _ _ _
theorem execKmovToK_mem (d : KReg) (a : Reg) (s : State) : MemSame s (execKmovToK d a s) := by
  refine memSame_guarded fun s => ?_
  simp
theorem execKmovToG_mem (d : Reg) (a : KReg) (s : State) : MemSame s (execKmovToG d a s) :=
  scalar_mem _ _ _ _ _
theorem execKop_mem (op : KopOp) (d a b : KReg) (s : State) : MemSame s (execKop op d a b s) := by
  refine memSame_guarded fun s => ?_
  simp
end Sys2Proof.Machine
end

