-- ==== Sys2Proof/Laws/MemWf.lean ====
section
/-! SUPPORT. Every operation and every meaning keeps the canonical form of memory. -/

set_option linter.unusedTactic false
set_option linter.unreachableTactic false

namespace Sys2Proof.Machine
@[simp] theorem foldl_wf {α : Type} (f : State → α → State) (l : List α) (s : State) (h : ∀ s a, Memory.wf s.mem = true → Memory.wf (f s a).mem = true)
    (w : Memory.wf s.mem = true) : Memory.wf (l.foldl f s).mem = true := by
  induction l generalizing s with
  | nil => exact w
  | cons a r ih => exact ih _ (h s a w)
/-- An answer that, if it is a next state, has its memory in canonical form. -/
def MemWf (x : Result) : Prop := ∀ t, x = .next t → Memory.wf t.mem = true
theorem memWf_done {t : State} (h : Memory.wf t.mem = true) : MemWf (done t) := fun _ e => by cases e; exact h
theorem memWf_onUnit {t : State} {ok : Bool} (h : Memory.wf t.mem = true) : MemWf (onUnit ok t) := fun _ e => by
  unfold onUnit at e
  split at e <;> cases e
  exact h
theorem memWf_guarded {i : Instr} {s : State} {f : State → State} (w : Memory.wf s.mem = true)
    (h : ∀ s, Memory.wf s.mem = true → Memory.wf (f s).mem = true) : MemWf (guarded i s f) := fun t e => by
  unfold guarded done at e
  split at e
  · cases e; exact h s w
  · split at e <;> cases e
    · rw [State.raise_mem]; exact w
    · exact h s w
theorem MemSame.wf {s : State} {x : Result} (h : MemSame s x) (w : Memory.wf s.mem = true) : MemWf x := fun t e => by rw [h t e]; exact w
@[simp] theorem State.writeEntry_wf (s : State) (q : Queue) (base size : Nat) (c : Completion) (w : Memory.wf s.mem = true) : Memory.wf (State.writeEntry s q base size c).mem = true := by
  unfold State.writeEntry
  extract_lets a phase put m q'
  have hput : ∀ m o x, Memory.wf m = true → Memory.wf (put m o x) = true := fun m o x h => wf_writeCells _ h
  have hm : Memory.wf m = true := hput _ _ _ (hput _ _ _ (hput _ _ _ (hput _ _ _ w)))
  clear_value m
  rw [State.emit_mem, State.setQueue_mem]
  exact hm
theorem State.nextWaiting_mem {s t : State} {q : Queue} {c : Completion} (h : s.nextWaiting q = some (c, t)) : t.mem = s.mem := by
  unfold State.nextWaiting at h
  dsimp only at h
  split at h
  · cases h
  · cases h; simp
  · cases h; rfl
  · split at h <;> cases h <;> simp
@[simp] theorem State.flushOne_wf (s : State) (qid : Nat) (w : Memory.wf s.mem = true) : Memory.wf (State.flushOne s qid).mem = true := by
  unfold State.flushOne
  split
  · exact w
  · split
    · exact w
    · split
      · split
        · exact w
        · rename_i h
          have hm := State.nextWaiting_mem h
          split
          · rw [hm]; exact w
          · exact State.writeEntry_wf _ _ _ _ _ (by rw [hm]; exact w)
      · exact w
@[simp] theorem State.flush_wf (s : State) (qid n : Nat) (w : Memory.wf s.mem = true) : Memory.wf (s.flush qid n).mem = true := by
  induction n generalizing s with
  | zero => exact w
  | succ n ih => exact ih _ (State.flushOne_wf s qid w)
@[simp] theorem State.complete_wf (s : State) (c : HostCmd) (status : BitVec 8) (result log : Word) (w : Memory.wf s.mem = true) : Memory.wf (State.complete s c status result log).mem = true := by
  unfold State.complete
  split <;> simp [*]
@[simp] theorem State.completeOk_wf (s : State) (c : HostCmd) (result : Word) (w : Memory.wf s.mem = true) : Memory.wf (State.completeOk s c result).mem = true := by
  unfold State.completeOk
  simp [*]
@[simp] theorem State.finish_wf (s : State) (qid : Nat) (cid : BitVec 16) (status : BitVec 8) (result log : Word) (w : Memory.wf s.mem = true) : Memory.wf (State.finish s qid cid status result log).mem = true := by
  unfold State.finish
  split <;> simp [*]
@[simp] theorem State.finishCrew_wf (s : State) (crew : BitVec 16) (w : Memory.wf s.mem = true) : Memory.wf (State.finishCrew s crew).mem = true := by
  unfold State.finishCrew
  repeat' (first | with_reducible assumption | (simp [*]; done) | split | (refine foldl_wf _ _ _ ?_ ?_) | intro _ | (rename_i heq; have hm := congrArg (fun p => (Prod.snd p).mem) heq; simp at hm; simp [← hm, *]; done) | simp [*])
@[simp] theorem State.postEvent_wf (s : State) (status : BitVec 8) (result log : Word) (w : Memory.wf s.mem = true) : Memory.wf (State.postEvent s status result log).mem = true := by
  unfold State.postEvent
  dsimp only
  (repeat' split) <;> simp [*]
@[simp] theorem State.endCrew_wf (s : State) (n : Nat) (cause : BitVec 8) (addr : Word) (w : Memory.wf s.mem = true) : Memory.wf (State.endCrew s n cause addr).mem = true := by
  unfold State.endCrew
  simp [*]
@[simp] theorem State.checkEnd_wf (s : State) (n : Nat) (w : Memory.wf s.mem = true) : Memory.wf (State.checkEnd s n).mem = true := by
  unfold State.checkEnd
  dsimp only
  (repeat' split) <;> simp [*]
@[simp] theorem State.commitBytes_wf (s : State) (key : Nat → Nat) (bytes : List (Nat × Byte)) (w : Memory.wf s.mem = true) : Memory.wf (State.commitBytes s key bytes).mem = true := by
  unfold State.commitBytes
  simp [*]
theorem wf_foldl_lines (l : List LineWrite) {m : List Host.Cell} (w : Memory.wf m = true) :
    Memory.wf (l.foldl (fun m w => writeCells m w.bytes) m) = true := by
  induction l generalizing m with
  | nil => exact w
  | cons a r ih => exact ih (wf_writeCells _ w)
@[simp] theorem State.tickLines_wf (s : State) (f : Nat) (w : Memory.wf s.mem = true) : Memory.wf (State.tickLines s f).mem = true := by
  unfold State.tickLines
  dsimp only
  split
  · exact w
  · exact wf_foldl_lines _ w
@[simp] theorem State.haltCore_wf (s : State) (r : CoreRef) (w : Memory.wf s.mem = true) : Memory.wf (State.haltCore s r).mem = true := by
  unfold State.haltCore
  dsimp only
  (repeat' split) <;> simp [*]
theorem execHalt_wf (s : State) (w : Memory.wf s.mem = true) : MemWf (execHalt s) := by
  refine memWf_guarded w ?_
  intro s w
  split <;> simp [*]
@[simp] theorem State.landBeat_wf (s : State) (tile : Nat) (b : Block) (w : Memory.wf s.mem = true) : Memory.wf (State.landBeat s tile b).mem = true := by
  unfold State.landBeat
  repeat' (first | with_reducible assumption | (simp [*]; done) | split | (refine foldl_wf _ _ _ ?_ ?_) | intro _ | (rename_i heq; have hm := congrArg (fun p => (Prod.snd p).mem) heq; simp at hm; simp [← hm, *]; done) | simp [*])
@[simp] theorem State.landBeats_wf (s : State) (tile : Nat) (w : Memory.wf s.mem = true) : Memory.wf (State.landBeats s tile).mem = true := by
  unfold State.landBeats
  repeat' (first | with_reducible assumption | (simp [*]; done) | split | (refine foldl_wf _ _ _ ?_ ?_) | intro _ | (rename_i heq; have hm := congrArg (fun p => (Prod.snd p).mem) heq; simp at hm; simp [← hm, *]; done) | simp [*])
@[simp] theorem State.writeHome_wf (s : State) (f : Nat) (bytes : List (Nat × Byte)) (w : Memory.wf s.mem = true) : Memory.wf (State.writeHome s f bytes).mem = true := by
  unfold State.writeHome
  simp [*]
@[simp] theorem State.performWeight_wf (s : State) (f : Nat) (p b : PageMap) (q : Req) (w : Memory.wf s.mem = true) : Memory.wf (State.performWeight s f p b q).mem = true := by
  unfold State.performWeight
  extract_lets site k h bad
  clear_value k
  cases q.kind <;> dsimp only <;> repeat' split
  all_goals simp only [State.refuse_mem, State.answer_mem, State.storeDone_mem]
  all_goals first
    | exact w
    | (apply State.writeHome_wf; simp only [State.undoNote_mem]; exact w)
    | (split
       · apply State.writeHome_wf; simp only [State.undoNote_mem]; exact w
       · exact w)
    | (rename_i h
       have hm := congrArg (fun p => (Prod.snd p).mem) h
       simp only [State.takePage_mem, State.offerPage_mem] at hm
       rw [← hm]; exact w)
    | (rename_i h _
       have hm := congrArg (fun p => (Prod.snd p).mem) h
       simp only [State.takePage_mem, State.offerPage_mem] at hm
       rw [← hm]; exact w)
@[simp] theorem State.requestAtHome_wf (s : State) (f : Nat) (from_ : Option Nat) (q : Req) (w : Memory.wf s.mem = true) : Memory.wf (State.requestAtHome s f from_ q).mem = true := by
  unfold State.requestAtHome
  (repeat' split) <;> simp [*]
@[simp] theorem State.copyLine_wf (s : State) (p : PageMap) (m : Migration) (w : Memory.wf s.mem = true) : Memory.wf (State.copyLine s p m).mem = true := by
  unfold State.copyLine
  simp [*]
theorem execPageMigration_wf (asid : BitVec 16) (gaddr : Word) (home : Nat) (s : State) (w : Memory.wf s.mem = true) : MemWf (execPageMigration asid gaddr home s) := by
  refine memWf_onUnit ?_
  split
  · exact w
  · split
    · split
      · exact w
      · dsimp only
        split <;> simp only [State.afterTime_mem, State.movePage_mem, State.setMigration_mem] <;> exact State.copyLine_wf _ _ _ w
    · split
      · exact w
      · split <;> rename_i h <;> have hm := congrArg (fun p => (Prod.snd p).mem) h <;> simp only [State.freePage_mem] at hm
        · rw [← hm]; exact w
        · simp only [State.afterTime_mem]; rw [← hm]; exact w
@[simp] theorem State.closeMove_wf (s : State) (page : Nat) (w : Memory.wf s.mem = true) : Memory.wf (State.closeMove s page).mem = true := by
  unfold State.closeMove
  repeat' (first | with_reducible assumption | (simp [*]; done) | split | (refine foldl_wf _ _ _ ?_ ?_) | intro _ | (rename_i heq; have hm := congrArg (fun p => (Prod.snd p).mem) heq; simp at hm; simp [← hm, *]; done) | simp [*])
@[simp] theorem State.arriveAtHome_wf (s : State) (f : Nat) (from_ : Option Nat) (q : Req) (w : Memory.wf s.mem = true) : Memory.wf (State.arriveAtHome s f from_ q).mem = true := by
  unfold State.arriveAtHome
  split <;> simp [*]
theorem execMigrationClose_wf (page : Nat) (s : State) (w : Memory.wf s.mem = true) : MemWf (execMigrationClose page s) := by
  refine memWf_done ?_
  repeat' (first | with_reducible assumption | (simp [*]; done) | split | (refine foldl_wf _ _ _ ?_ ?_) | intro _ | (rename_i heq; have hm := congrArg (fun p => (Prod.snd p).mem) heq; simp at hm; simp [← hm, *]; done) | simp [*])
@[simp] theorem State.serve_wf (s : State) (i : Iface) (q : Req) (w : Memory.wf s.mem = true) : Memory.wf (State.serve s i q).mem = true := by
  unfold State.serve
  (repeat' split) <;> simp [*]
@[simp] theorem State.letGo_wf (s : State) (x : IfaceState) (w : Memory.wf s.mem = true) : Memory.wf (State.letGo s x).mem = true := by
  unfold State.letGo
  repeat' (first | with_reducible assumption | (simp [*]; done) | split | (refine foldl_wf _ _ _ ?_ ?_) | intro _ | (rename_i heq; have hm := congrArg (fun p => (Prod.snd p).mem) heq; simp at hm; simp [← hm, *]; done) | simp [*])
theorem execRemoteRequestReceive_wf (i : Iface) (q : Req) (s : State) (w : Memory.wf s.mem = true) : MemWf (execRemoteRequestReceive i q s) := by
  refine memWf_onUnit ?_
  dsimp only
  (repeat' split) <;> simp [*]
theorem execPageWalkDone_wf (i : Iface) (asid : BitVec 16) (gaddr : Word) (s : State) (w : Memory.wf s.mem = true) : MemWf (execPageWalkDone i asid gaddr s) := by
  refine memWf_onUnit ?_
  repeat' (first | with_reducible assumption | (simp [*]; done) | split | (refine foldl_wf _ _ _ ?_ ?_) | intro _ | (rename_i heq; have hm := congrArg (fun p => (Prod.snd p).mem) heq; simp at hm; simp [← hm, *]; done) | simp [*])
@[simp] theorem State.takeAnswer_wf (s : State) (core : CoreRef) (tag : BitVec 16) (a : Ans) (o : Outstanding) (w : Memory.wf s.mem = true) : Memory.wf (s.takeAnswer core tag a o).mem = true := by
  unfold State.takeAnswer
  dsimp only
  (repeat' split) <;> simp [*]
@[simp] theorem State.afterAnswer_wf (s : State) (core : CoreRef) (w : Memory.wf s.mem = true) : Memory.wf (s.afterAnswer core).mem = true := by
  unfold State.afterAnswer
  dsimp only
  (repeat' split) <;> simp [*]
theorem execRemoteAnswer_wf (core : CoreRef) (tag : BitVec 16) (a : Ans) (s : State) (w : Memory.wf s.mem = true) : MemWf (execRemoteAnswer core tag a s) := by
  refine memWf_onUnit ?_
  (repeat' split) <;> simp [*]
theorem execDynPacketDeliver_wf (tile : Nat) (p : Packet) (s : State) (w : Memory.wf s.mem = true) : MemWf (execDynPacketDeliver tile p s) := by
  refine memWf_onUnit ?_
  dsimp only
  (repeat' split) <;> simp [*]
@[simp] theorem State.startBind_wf (s : State) (c : HostCmd) (q : BindAsk) (old : Option Slot) (w : Memory.wf s.mem = true) : Memory.wf (State.startBind s c q old).mem = true := by
  unfold State.startBind
  repeat' (first | with_reducible assumption | (simp [*]; done) | split | (refine foldl_wf _ _ _ ?_ ?_) | intro _ | (rename_i heq; have hm := congrArg (fun p => (Prod.snd p).mem) heq; simp at hm; simp [← hm, *]; done) | simp [*])
theorem execBindResponse_wf (crew : BitVec 16) (modIdx : Nat) (status : BitVec 8) (result addr : Word) (s : State) (w : Memory.wf s.mem = true) : MemWf (execBindResponse crew modIdx status result addr s) := by
  refine memWf_done ?_
  dsimp only
  (repeat' split) <;> simp [*]
@[simp] theorem State.wipe_wf (s : State) (ranges : List (Nat × Nat)) (w : Memory.wf s.mem = true) : Memory.wf (State.wipe s ranges).mem = true := by
  unfold State.wipe
  simp [*]
@[simp] theorem State.clearTiles_wf (s : State) (ids : List Nat) (w : Memory.wf s.mem = true) : Memory.wf (State.clearTiles s ids).mem = true := by
  unfold State.clearTiles
  repeat' (first | with_reducible assumption | (simp [*]; done) | split | (refine foldl_wf _ _ _ ?_ ?_) | intro _ | (rename_i heq; have hm := congrArg (fun p => (Prod.snd p).mem) heq; simp at hm; simp [← hm, *]; done) | simp [*])
@[simp] theorem State.clearFeeders_wf (s : State) (fs : List Nat) (w : Memory.wf s.mem = true) : Memory.wf (State.clearFeeders s fs).mem = true := by
  unfold State.clearFeeders
  repeat' (first | with_reducible assumption | (simp [*]; done) | split | (refine foldl_wf _ _ _ ?_ ?_) | intro _ | (rename_i heq; have hm := congrArg (fun p => (Prod.snd p).mem) heq; simp at hm; simp [← hm, *]; done) | simp [*])
@[simp] theorem State.loadImage_wf (s : State) (n : Nat) (w : Memory.wf s.mem = true) : Memory.wf (State.loadImage s n).mem = true := by
  unfold State.loadImage
  repeat' (first | with_reducible assumption | (simp [*]; done) | split | (refine foldl_wf _ _ _ ?_ ?_) | intro _ | (rename_i heq; have hm := congrArg (fun p => (Prod.snd p).mem) heq; simp at hm; simp [← hm, *]; done) | simp [*])
@[simp] theorem State.restore_wf (s : State) (n : Nat) (v : Saved) (w : Memory.wf s.mem = true) : Memory.wf (State.restore s n v).mem = true := by
  unfold State.restore
  extract_lets x tile feeder moved m groups s1 s2 s3 s4 s5 s6 s7 s8 s9 s10 seen
  have h3 : s3.mem = s.mem := by
    simp only [s3, s2, s1, State.dealGroups_mem]
    iterate 2 (rw [foldl_mem _ _ _ (fun _ _ => by simp)])
  have w4 : Memory.wf s4.mem = true := wf_writeCells _ (h3 ▸ w)
  have h10 : s10.mem = s9.mem := foldl_mem _ _ _ fun s f => foldl_mem _ _ _ fun _ _ => rfl
  have h9 : s9.mem = s8.mem := foldl_mem _ _ _ fun _ _ => rfl
  have h8 : s8.mem = s7.mem := foldl_mem _ _ _ fun _ _ => State.unspillTile_mem ..
  have h7 : s7.mem = s6.mem := State.offersHere_mem s6 n
  have h6 : s6.mem = s5.mem := foldl_mem _ _ _ fun _ _ => rfl
  have h5 : s5.mem = s4.mem := foldl_mem _ _ _ fun _ _ => rfl
  rw [State.modSlot_mem, h10, h9, h8, h7, h6, h5]
  exact w4
theorem execDispatchReady_wf (crew : BitVec 16) (s : State) (w : Memory.wf s.mem = true) : MemWf (execDispatchReady crew s) := by
  refine memWf_done ?_
  split
  · exact w
  · rename_i n _
    dsimp only
    have w1 : Memory.wf ((s.clearTiles (s.slot n).tiles).clearFeeders (s.slot n).feeders).mem = true := by simp [*]
    generalize (s.clearTiles (s.slot n).tiles).clearFeeders (s.slot n).feeders = s1 at w1
    split
    · exact w
    · rw [State.reportReady_mem, State.modSlot_mem]
      split
      · rw [foldl_mem _ _ _ (fun _ _ => by simp), State.setTickets_mem]
        exact State.restore_wf _ _ _ w1
      · rw [State.setTickets_mem]
        exact State.loadImage_wf _ _ (by rw [State.modSlot_mem]; exact w1)
theorem execInjectionModulate_next_mem (f : Nat) (id : Nat) (s t : State) (h : execInjectionModulate f id s = .next t) : t.mem = s.mem :=
  execInjectionModulate_mem f id s t h
theorem execCrewStart_wf (crew : BitVec 16) (s : State) (w : Memory.wf s.mem = true) : MemWf (execCrewStart crew s) := by
  refine memWf_done ?_
  split
  · exact w
  · dsimp only
    split
    · exact w
    · refine foldl_wf _ _ _ (fun s a w => ?_) ?_
      · split
        · rename_i h; rw [execInjectionModulate_next_mem _ _ _ _ h]; exact w
        · exact w
      · split <;> split <;> simp [*]
@[simp] theorem State.drawnByHost_wf (s : State) (n : Nat) (x : Slot) (w : Memory.wf s.mem = true) : Memory.wf (State.drawnByHost s n x).mem = true := by
  unfold State.drawnByHost
  dsimp only
  (repeat' split) <;> simp [*]
@[simp] theorem State.drawEnds_wf (s : State) (n : Nat) (w : Memory.wf s.mem = true) : Memory.wf (State.drawEnds s n).mem = true := by
  unfold State.drawEnds
  dsimp only
  (repeat' split) <;> simp [*]
@[simp] theorem State.drawnHeard_wf (s : State) (n modIdx : Nat) (w : Memory.wf s.mem = true) : Memory.wf (State.drawnHeard s n modIdx).mem = true := by
  unfold State.drawnHeard
  dsimp only
  (repeat' split) <;> simp [*]
theorem execDrawOffComplete_wf (crew : BitVec 16) (s : State) (w : Memory.wf s.mem = true) : MemWf (execDrawOffComplete crew s) := by
  refine memWf_done ?_
  dsimp only
  (repeat' split) <;> simp [*]
@[simp] theorem State.abortDraw_wf (s : State) (x : Slot) (w : Memory.wf s.mem = true) : Memory.wf (State.abortDraw s x).mem = true := by
  unfold State.abortDraw
  (repeat' split) <;> simp [*]
theorem execCrewFaultReport_wf (crew : BitVec 16) (cause : BitVec 8) (addr : Word) (member : Nat) (s : State) (w : Memory.wf s.mem = true) : MemWf (execCrewFaultReport crew cause addr member s) := by
  refine memWf_done ?_
  dsimp only
  (repeat' split) <;> simp [*]
theorem execCrewFaultStop_wf (crew : BitVec 16) (s : State) (w : Memory.wf s.mem = true) : MemWf (execCrewFaultStop crew s) := by
  refine memWf_done ?_
  dsimp only
  (repeat' split) <;> simp [*]
@[simp] theorem State.playBack_wf (s : State) (u : Nat × List Byte × List Nat) (w : Memory.wf s.mem = true) : Memory.wf (State.playBack s u).mem = true := by
  unfold State.playBack
  simp [*]
theorem execRewind_wf (crew : BitVec 16) (s : State) (w : Memory.wf s.mem = true) : MemWf (execRewind crew s) := by
  refine memWf_done ?_
  repeat' (first | with_reducible assumption | (simp [*]; done) | split | (refine foldl_wf _ _ _ ?_ ?_) | intro _ | (rename_i heq; have hm := congrArg (fun p => (Prod.snd p).mem) heq; simp at hm; simp [← hm, *]; done) | simp [*])
theorem State.unlessHalted_wf (s : State) (f : State → State) (hf : ∀ s, Memory.wf s.mem = true → Memory.wf (f s).mem = true)
    (w : Memory.wf s.mem = true) : Memory.wf (s.unlessHalted f).mem = true := by
  unfold State.unlessHalted
  split
  · exact w
  · exact hf s w
theorem execPowerWarning_wf (mean : Nat) (s : State) (w : Memory.wf s.mem = true) : MemWf (execPowerWarning mean s) := by
  refine memWf_done ?_
  split
  · exact w
  · refine State.unlessHalted_wf _ _ (fun s w => ?_) (by simp [*])
    rw [State.powerWarn_mem]; exact w
theorem execPowerLimit_wf (mean : Nat) (s : State) (w : Memory.wf s.mem = true) : MemWf (execPowerLimit mean s) := by
  refine memWf_done ?_
  split
  · exact w
  · refine State.unlessHalted_wf _ _ (fun s w => ?_) (by simp [*])
    rw [State.limitHold_mem]; exact w
theorem execThermalWarning_wf (x : Sensor) (s : State) (w : Memory.wf s.mem = true) : MemWf (execThermalWarning x s) := by
  refine memWf_onUnit (State.unlessHalted_wf _ _ (fun s w => ?_) (by simp [*]))
  dsimp only
  rw [foldl_mem _ _ _ (fun _ _ => by simp), State.powerWarn_mem]
  exact State.postEvent_wf _ _ _ _ w
theorem execThermalLimit_wf (x : Sensor) (s : State) (w : Memory.wf s.mem = true) : MemWf (execThermalLimit x s) := by
  refine memWf_onUnit (State.unlessHalted_wf _ _ (fun s w => ?_) (by simp [*]))
  rw [State.limitHold_mem]; exact w
@[simp] theorem State.startRegrade_wf (s : State) (rx ry : Nat) (w : Memory.wf s.mem = true) : Memory.wf (State.startRegrade s rx ry).mem = true := by
  unfold State.startRegrade
  split <;> simp [*]
theorem execVoltageReplan_wf (rx ry : Nat) (slackPs : Nat) (s : State) (w : Memory.wf s.mem = true) : MemWf (execVoltageReplan rx ry slackPs s) := by
  refine memWf_onUnit ?_
  dsimp only
  (repeat' split) <;> simp [*]
theorem feederAfter_lt {col f g a b : Nat} (h : f < g) (hf : feederAfter col f = some a) (hg : feederAfter col g = some b) : a < b := by
  unfold feederAfter at hf hg
  by_cases hc : col = 0
  · rw [if_pos hc] at hf hg
    split at hf <;> split at hg <;> simp only [reduceCtorEq, Option.some.injEq] at hf hg
    omega
  · rw [if_neg hc] at hf hg
    split at hf <;> split at hg <;> simp only [reduceCtorEq, Option.some.injEq] at hf hg
    omega
theorem feederAfter_le {col f a : Nat} (hf : feederAfter col f = some a) : a ≤ f := by
  unfold feederAfter at hf
  split at hf <;> split at hf <;> simp_all <;> omega
theorem feederAfter_mono {col f g a b : Nat} (h : f ≤ g) (hf : feederAfter col f = some a) (hg : feederAfter col g = some b) :
    (f = g ∧ a = b) ∨ (f < g ∧ a < b) := by
  rcases Nat.lt_or_eq_of_le h with h | h
  · exact .inr ⟨h, feederAfter_lt h hf hg⟩
  · subst h; rw [hf] at hg; exact .inl ⟨rfl, Option.some.inj hg⟩
/-- Keys keep their order when feeders are numbered anew. -/
theorem keyAfter_lt {col k l a b : Nat} (h : k < l) (hk : keyAfter col k = some a) (hl : keyAfter col l = some b) : a < b := by
  unfold keyAfter at hk hl
  split at hk
  · obtain ⟨f, hf, rfl⟩ := Option.map_eq_some_iff.mp hk
    have := feederAfter_le hf
    split at hl
    · obtain ⟨g, hg, rfl⟩ := Option.map_eq_some_iff.mp hl
      rcases feederAfter_mono (Nat.div_le_div_right (Nat.le_of_lt h)) hf hg with ⟨e, rfl⟩ | ⟨_, hlt⟩ <;> omega
    · split at hl
      · obtain ⟨g, hg, rfl⟩ := Option.map_eq_some_iff.mp hl; omega
      · cases hl; omega
  · split at hk
    · obtain ⟨f, hf, rfl⟩ := Option.map_eq_some_iff.mp hk
      have := feederAfter_le hf
      split at hl
      · omega
      · split at hl
        · obtain ⟨g, hg, rfl⟩ := Option.map_eq_some_iff.mp hl
          have hd : (k - 2 ^ 44) / 2 ^ 21 ≤ (l - 2 ^ 44) / 2 ^ 21 := Nat.div_le_div_right (by omega)
          simp only [Bool.and_eq_true, decide_eq_true_eq] at *
          rcases feederAfter_mono hd hf hg with ⟨e, rfl⟩ | ⟨_, hlt⟩ <;> omega
        · cases hl; simp only [Bool.and_eq_true, decide_eq_true_eq] at *; omega
    · cases hk
      split at hl
      · omega
      · split at hl
        · obtain ⟨g, hg, rfl⟩ := Option.map_eq_some_iff.mp hl
          simp only [Bool.and_eq_true, decide_eq_true_eq] at *; omega
        · cases hl; exact h
/-- Moving keys in their order keeps the canonical form. -/
theorem cellsFrom_filterMap {g : Nat → Option Nat} (mono : ∀ k l a b, k < l → g k = some a → g l = some b → a < b) {lo lo' : Nat} {m : List Host.Cell}
    (hlo : ∀ k a, lo ≤ k → g k = some a → lo' ≤ a) (w : cellsFrom lo m = true) :
    cellsFrom lo' (m.filterMap fun c => (g c.1).map fun k => (k, c.2)) = true := by
  induction m generalizing lo lo' with
  | nil => rfl
  | cons c r ih =>
    simp only [cellsFrom, Bool.and_eq_true, decide_eq_true_eq] at w
    obtain ⟨⟨hl, hb⟩, hr⟩ := w
    cases hg : g c.1 with
    | none =>
      simp only [List.filterMap_cons, hg, Option.map_none]
      exact ih (fun k a hk => hlo k a (by omega)) hr
    | some a =>
      simp only [List.filterMap_cons, hg, Option.map_some, cellsFrom, Bool.and_eq_true, decide_eq_true_eq]
      exact ⟨⟨hlo _ _ hl hg, hb⟩, ih (fun k b hk h => mono _ _ _ _ (by omega) hg h) hr⟩
@[simp] theorem State.renumber_wf (s : State) (col : Nat) (w : Memory.wf s.mem = true) : Memory.wf (State.renumber s col).mem = true := by
  unfold State.renumber
  exact cellsFrom_filterMap (fun _ _ _ _ => keyAfter_lt) (fun _ _ _ _ => Nat.zero_le _) w
@[simp] theorem State.graded_wf (s : State) (w : Memory.wf s.mem = true) : Memory.wf (State.graded s).mem = true := by
  unfold State.graded
  dsimp only
  (repeat' split) <;> simp [*]
theorem execRegradeDone_wf (s : State) (w : Memory.wf s.mem = true) : MemWf (execRegradeDone s) := by
  refine memWf_done ?_
  dsimp only
  (repeat' split) <;> simp [*]
@[simp] theorem State.readyStep_wf (s : State) (w : Memory.wf s.mem = true) : Memory.wf (State.readyStep s).mem = true := by
  unfold State.readyStep
  simp [*]
theorem execPowerEnable_wf (s : State) (w : Memory.wf s.mem = true) : MemWf (execPowerEnable s) := by
  refine memWf_done ?_
  split <;> simp [*]
theorem execPowerSequenceStep_wf (s : State) (w : Memory.wf s.mem = true) : MemWf (execPowerSequenceStep s) := by
  refine memWf_done ?_
  (repeat' split) <;> simp [*]
theorem execGreetingPhase_wf (s : State) (w : Memory.wf s.mem = true) : MemWf (execGreetingPhase s) := by
  refine memWf_done ?_
  (repeat' split) <;> simp [*]
@[simp] theorem State.loseTiles_wf (s : State) (w : Memory.wf s.mem = true) : Memory.wf (State.loseTiles s).mem = true := by
  unfold State.loseTiles
  simp [*]
theorem execResetPulse_wf (cycles : Nat) (s : State) (w : Memory.wf s.mem = true) : MemWf (execResetPulse cycles s) := by
  refine memWf_done ?_
  split <;> simp [*]
theorem execPowerDisable_wf (s : State) (w : Memory.wf s.mem = true) : MemWf (execPowerDisable s) := by
  refine memWf_done ?_
  simp [*]
@[simp] theorem State.railsOff_wf (s : State) (w : Memory.wf s.mem = true) : Memory.wf (State.railsOff s).mem = true := by
  unfold State.railsOff
  simp [*]
theorem execThermalTrip_wf (x : Sensor) (s : State) (w : Memory.wf s.mem = true) : MemWf (execThermalTrip x s) := by
  refine memWf_onUnit ?_
  simp [*]
theorem State.forCrew_wf (s : State) (crew : BitVec 16) (f : State → Nat → State) (hf : ∀ s n, Memory.wf s.mem = true → Memory.wf (f s n).mem = true)
    (w : Memory.wf s.mem = true) : Memory.wf (s.forCrew crew f).mem = true := by
  unfold State.forCrew
  split
  · exact hf _ _ w
  · exact w
@[simp] theorem State.heed_wf (s : State) (tl : Nat) (m : Notice) (w : Memory.wf s.mem = true) : Memory.wf (s.heed tl m).mem = true := by
  unfold State.heed
  split <;> first | (simp [*]; done) | (refine State.forCrew_wf _ _ _ (fun s n w => ?_) w; simp [*]; done) | (split <;> simp [*]; done)
@[simp] theorem State.takeNotice_wf (s : State) (tl : Nat) (m : Notice) (w : Memory.wf s.mem = true) : Memory.wf (State.takeNotice s tl m).mem = true := by
  unfold State.takeNotice
  split <;> simp [*]
@[simp] theorem State.lanesOn_wf (s : State) (tl : Nat) (out : Bool) (after : BitVec 5) (w : Memory.wf s.mem = true) : Memory.wf (State.lanesOn s tl out after).mem = true := by
  unfold State.lanesOn
  simp [*]
@[simp] theorem State.leaves_wf (s : State) (tl : Nat) (f : Frame) (w : Memory.wf s.mem = true) : Memory.wf (State.leaves s tl f).mem = true := by
  unfold State.leaves
  simp [*]
theorem execFrameSend_wf (tl : Nat) (s : State) (w : Memory.wf s.mem = true) : MemWf (execFrameSend tl s) := by
  refine memWf_onUnit ?_
  dsimp only
  (repeat' split) <;> simp [*]
@[simp] theorem State.towlineDown_wf (s : State) (tl : Nat) (named : BitVec 12) (w : Memory.wf s.mem = true) : Memory.wf (State.towlineDown s tl named).mem = true := by
  unfold State.towlineDown
  repeat' (first | with_reducible assumption | (simp [*]; done) | split | (refine foldl_wf _ _ _ ?_ ?_) | intro _ | (rename_i heq; have hm := congrArg (fun p => (Prod.snd p).mem) heq; simp at hm; simp [← hm, *]; done) | simp [*])
theorem execFrameReplay_wf (tl : Nat) (seq : BitVec 12) (s : State) (w : Memory.wf s.mem = true) : MemWf (execFrameReplay tl seq s) := by
  refine memWf_onUnit ?_
  dsimp only
  (repeat' split) <;> simp [*]
@[simp] theorem State.lostTwice_wf (s : State) (tl : Nat) (fr : Frame) (w : Memory.wf s.mem = true) : Memory.wf (State.lostTwice s tl fr).mem = true := by
  unfold State.lostTwice
  dsimp only
  refine foldl_wf _ _ _ (fun s a w => State.forCrew_wf _ _ _ (fun s n w => by simp [*]) w) ?_
  repeat' split
  all_goals simp [*]
@[simp] theorem State.takeSlot_wf (s : State) (tl : Nat) (y : FrameSlot) (w : Memory.wf s.mem = true) : Memory.wf (s.takeSlot tl y).mem = true := by
  unfold State.takeSlot
  split <;> simp [*]
theorem execFrameReceive_wf (tl : Nat) (fr : Frame) (bad : Bool) (s : State) (w : Memory.wf s.mem = true) : MemWf (execFrameReceive tl fr bad s) := by
  refine memWf_onUnit ?_
  dsimp only
  split
  · exact w
  · split
    · split <;> simp [*]
    · refine foldl_wf _ _ _ (fun s a w => State.takeSlot_wf _ _ _ w) ?_
      rw [State.takeStatics_mem]
      exact State.lanesOn_wf _ _ _ _ w
@[simp] theorem State.acceptEntry_wf (s : State) (q : Queue) (c : HostCmd) (w : Memory.wf s.mem = true) : Memory.wf (State.acceptEntry s q c).mem = true := by
  unfold State.acceptEntry
  dsimp only
  (repeat' split) <;> simp [*]
theorem execSubmit_wf (port off : Nat) (data : List Byte) (s : State) (w : Memory.wf s.mem = true) : MemWf (execSubmit port off data s) := by
  refine memWf_onUnit ?_
  (repeat' split) <;> simp [*]
theorem execCqheadWrite_wf (port off : Nat) (val : Word) (s : State) (w : Memory.wf s.mem = true) : MemWf (execCqheadWrite port off val s) := by
  refine memWf_onUnit ?_
  dsimp only
  (repeat' split) <;> simp [*]
theorem execCompletionWrite_wf (qid : Nat) (s : State) (w : Memory.wf s.mem = true) : MemWf (execCompletionWrite qid s) := by
  refine memWf_done ?_
  simp [*]
@[simp] theorem State.ringChanged_wf (s : State) (port : Nat) (w : Memory.wf s.mem = true) : Memory.wf (State.ringChanged s port).mem = true := by
  unfold State.ringChanged
  simp [*]
theorem execBar0Write_wf (port off : Nat) (val : Word) (s : State) (w : Memory.wf s.mem = true) : MemWf (execBar0Write port off val s) := by
  refine memWf_onUnit ?_
  dsimp only
  (repeat' split) <;> simp [*]
@[simp] theorem State.copyOut_wf (s : State) (i addr : Nat) (w : Memory.wf s.mem = true) : Memory.wf (State.copyOut s i addr).mem = true := by
  unfold State.copyOut
  simp [*]
@[simp] theorem State.haltTold_wf (s : State) (addr : Nat) (live : List Nat) (w : Memory.wf s.mem = true) : Memory.wf (State.haltTold s addr live).mem = true := by
  unfold State.haltTold
  dsimp only
  rw [State.mcheck_mem]
  exact State.postEvent_wf _ _ _ _ (foldl_wf _ _ _ (fun s a w => State.complete_wf _ _ _ _ _ w) w)
@[simp] theorem State.voteHalt_wf (s : State) (addr : Nat) (w : Memory.wf s.mem = true) : Memory.wf (State.voteHalt s addr).mem = true := by
  unfold State.voteHalt
  simp [*]
@[simp] theorem State.vote_wf (s : State) (addr : Nat) (f : Nat → Option Word) (w : Memory.wf s.mem = true) : Memory.wf (s.vote addr f).mem = true := by
  unfold State.vote
  dsimp only
  repeat' split
  · exact w
  · exact State.voteHalt_wf _ _ w
  · exact State.copyOut_wf _ _ _ w
  · exact w
theorem execVoteCommit_wf (m : Voted) (addr : Nat) (c0 c1 c2 : Option Word) (s : State) (w : Memory.wf s.mem = true) : MemWf (execVoteCommit m addr c0 c1 c2 s) := by
  refine memWf_onUnit ?_
  dsimp only
  split
  · exact State.vote_wf _ _ _ w
  · exact w
theorem execVoteTimeout_wf (m : Voted) (addr : Nat) (c0 c1 c2 : Option Word) (s : State) (w : Memory.wf s.mem = true) : MemWf (execVoteTimeout m addr c0 c1 c2 s) :=
  memWf_onUnit (State.vote_wf _ _ _ w)
theorem execResyncDone_wf (s : State) (w : Memory.wf s.mem = true) : MemWf (execResyncDone s) := by
  refine memWf_done ?_
  split <;> simp [*]
@[simp] theorem State.catchUp_wf (s : State) (w : Memory.wf s.mem = true) : Memory.wf (State.catchUp s).mem = true := by
  unfold State.catchUp
  repeat' (first | with_reducible assumption | (simp [*]; done) | split | (refine foldl_wf _ _ _ ?_ ?_) | intro _ | (rename_i heq; have hm := congrArg (fun p => (Prod.snd p).mem) heq; simp at hm; simp [← hm, *]; done) | simp [*])
theorem execLockhouseRestartDone_wf (agree : Bool) (s : State) (w : Memory.wf s.mem = true) : MemWf (execLockhouseRestartDone agree s) := by
  refine memWf_done ?_
  dsimp only
  (repeat' split) <;> simp [*]
@[simp] theorem State.deny_wf (s : State) (c : HostCmd) (status : BitVec 8) (log : Nat) (w : Memory.wf s.mem = true) : Memory.wf (State.deny s c status log).mem = true := by
  unfold State.deny
  simp [*]
theorem State.command_wf (s : State) (c : HostCmd) (admin : Bool) (ops : List Fields) (f : State → State) (flags : BitVec 8)
    (h : ∀ s, Memory.wf s.mem = true → Memory.wf (f s).mem = true) (w : Memory.wf s.mem = true) : MemWf (s.command c admin ops f flags) := by
  refine memWf_done ?_
  split
  · exact State.deny_wf _ _ _ _ w
  · split
    · exact State.deny_wf _ _ _ _ w
    · exact h s w
@[simp] theorem State.withBuffer_wf (s : State) (c : HostCmd) (a : Word) (n : Nat) (f : State → State)
    (h : ∀ s, Memory.wf s.mem = true → Memory.wf (f s).mem = true) (w : Memory.wf s.mem = true) : Memory.wf (s.withBuffer c a n f).mem = true := by
  unfold State.withBuffer
  repeat' split
  all_goals first | exact State.deny_wf _ _ _ _ w | exact h s w
@[simp] theorem State.hostWrite_wf (s : State) (a : Word) (bs : List Byte) (w : Memory.wf s.mem = true) : Memory.wf (State.hostWrite s a bs).mem = true := by
  unfold State.hostWrite
  simp [*]
theorem execIdentify_wf (c : HostCmd) (s : State) (w : Memory.wf s.mem = true) : MemWf (execIdentify c s) :=
  State.command_wf _ _ _ _ _ _ (fun _ w => State.withBuffer_wf _ _ _ _ _
    (fun _ w => State.completeOk_wf _ _ _ (State.hostWrite_wf _ _ _ w)) w) w
theorem execCreateQueue_wf (c : HostCmd) (s : State) (w : Memory.wf s.mem = true) : MemWf (execCreateQueue c s) := by
  refine State.command_wf _ _ _ _ _ _ ?_ w
  intro s w
  dsimp only
  (repeat' split) <;> simp [*]
@[simp] theorem State.deleteQueue_wf (s : State) (n : Nat) (w : Memory.wf s.mem = true) : Memory.wf (State.deleteQueue s n).mem = true := by
  unfold State.deleteQueue
  repeat' (first | with_reducible assumption | (simp [*]; done) | split | (refine foldl_wf _ _ _ ?_ ?_) | intro _ | (rename_i heq; have hm := congrArg (fun p => (Prod.snd p).mem) heq; simp at hm; simp [← hm, *]; done) | simp [*])
theorem execDeleteQueue_wf (c : HostCmd) (s : State) (w : Memory.wf s.mem = true) : MemWf (execDeleteQueue c s) := by
  refine State.command_wf _ _ _ _ _ _ ?_ w
  intro s w
  dsimp only
  (repeat' split) <;> simp [*]
theorem execQueryQueue_wf (c : HostCmd) (s : State) (w : Memory.wf s.mem = true) : MemWf (execQueryQueue c s) := by
  refine State.command_wf _ _ _ _ _ _ ?_ w
  intro s w
  dsimp only
  (repeat' split) <;> simp [*]
theorem execEvents_wf (c : HostCmd) (s : State) (w : Memory.wf s.mem = true) : MemWf (execEvents c s) := by
  refine State.command_wf _ _ _ _ _ _ ?_ w
  intro s w
  simp [*]
@[simp] theorem State.aspaceNew_wf (s : State) (c : HostCmd) (a : BitVec 16) (w : Memory.wf s.mem = true) : Memory.wf (State.aspaceNew s c a).mem = true := by
  unfold State.aspaceNew
  split <;> simp [*]
@[simp] theorem State.aspaceGone_wf (s : State) (c : HostCmd) (a : BitVec 16) (w : Memory.wf s.mem = true) : Memory.wf (State.aspaceGone s c a).mem = true := by
  unfold State.aspaceGone
  (repeat' split) <;> simp [*]
@[simp] theorem State.aspace_wf (s : State) (c : HostCmd) (w : Memory.wf s.mem = true) : Memory.wf (State.aspace s c).mem = true := by
  unfold State.aspace
  split <;> simp [*]
theorem execAspaceCreate_wf (c : HostCmd) (s : State) (w : Memory.wf s.mem = true) : MemWf (execAspaceCreate c s) := by
  refine State.command_wf _ _ _ _ _ _ ?_ w
  intro s w
  simp [*]
theorem execAspaceDestroy_wf (c : HostCmd) (s : State) (w : Memory.wf s.mem = true) : MemWf (execAspaceDestroy c s) := by
  refine State.command_wf _ _ _ _ _ _ ?_ w
  intro s w
  simp [*]
@[simp] theorem State.mapOne_mem (s : State) (e : PageMap) (k : Nat) : (s.mapOne e k).1.mem = s.mem := by
  unfold State.mapOne
  cases s.mapRefusal (mapEntry e k) with
  | none => exact State.restPage_mem _ _
  | some r => rfl
theorem foldl_mapOne_mem (e : PageMap) (l : List Nat) (x : State × Option (BitVec 8 × Nat × Nat)) :
    (l.foldl (fun x k => if x.2.isSome then x else x.1.mapOne e k) x).1.mem = x.1.mem := by
  induction l generalizing x with
  | nil => rfl
  | cons k r ih => exact (ih _).trans (by dsimp only; split <;> simp)
@[simp] theorem State.mapFrom_mem (s : State) (e : PageMap) (n : Nat) : (s.mapFrom e n).1.mem = s.mem := foldl_mapOne_mem e _ (s, none)
theorem execMapPages_wf (c : HostCmd) (s : State) (w : Memory.wf s.mem = true) : MemWf (execMapPages c s) := by
  refine State.command_wf _ _ _ _ _ _ (fun s w => ?_) w
  dsimp only
  split
  · exact State.deny_wf _ _ _ _ w
  · split
    · exact State.deny_wf _ _ _ _ w
    · split <;> rename_i h <;> have hm := congrArg (fun p => (Prod.fst p).mem) h <;> simp only [State.mapFrom_mem] at hm
      · exact State.completeOk_wf _ _ _ (by rw [← hm]; exact w)
      · exact State.complete_wf _ _ _ _ _ (by rw [← hm]; exact w)
@[simp] theorem State.unmapFrom_mem (s : State) (asid : BitVec 16) (n page k : Nat) : (s.unmapFrom asid n page k).1.mem = s.mem := by
  induction n generalizing s page k with
  | zero => rfl
  | succ n ih =>
    unfold State.unmapFrom
    split
    · exact ih _ _ _
    · split
      · rfl
      · exact (ih _ _ _).trans (State.dropEntries_mem _ _ _)
theorem execUnmapPages_wf (c : HostCmd) (s : State) (w : Memory.wf s.mem = true) : MemWf (execUnmapPages c s) := by
  refine State.command_wf _ _ _ _ _ _ (fun s w => ?_) w
  dsimp only
  split
  · exact State.deny_wf _ _ _ _ w
  · split <;> rename_i h <;> have hm := congrArg (fun p => (Prod.fst p).mem) h <;> simp only [State.unmapFrom_mem] at hm
    · exact State.completeOk_wf _ _ _ (by rw [← hm]; exact w)
    · exact State.complete_wf _ _ _ _ _ (by rw [← hm]; exact w)
@[simp] theorem State.copyPut_wf (s : State) (asid : BitVec 16) (a : Word) (bs : List Byte) (w : Memory.wf s.mem = true) : Memory.wf (State.copyPut s asid a bs).mem = true := by
  unfold State.copyPut
  (repeat' split) <;> simp [*]
theorem State.copyOutAll_wf (s : State) (asid : BitVec 16) (host a : Word) (l : List (Nat × Nat)) (w : Memory.wf s.mem = true) :
    Memory.wf (s.copyOutAll asid host a l).1.mem = true := by
  induction l generalizing s with
  | nil => exact w
  | cons p r ih =>
    unfold State.copyOutAll
    dsimp only
    split
    · exact State.hostWrite_wf _ _ _ w
    · exact ih _ (State.hostWrite_wf _ _ _ w)
theorem execCopyIn_wf (c : HostCmd) (s : State) (w : Memory.wf s.mem = true) : MemWf (execCopyIn c s) := by
  refine State.command_wf _ _ _ _ _ _ (fun s w => ?_) w
  dsimp only
  split
  · exact State.deny_wf _ _ _ _ w
  · refine State.withBuffer_wf _ _ _ _ _ (fun s w => ?_) w
    split
    · split
      · exact State.complete_wf _ _ _ _ _ w
      · exact State.completeOk_wf _ _ _ w
    · split
      · exact State.complete_wf _ _ _ _ _ w
      · exact State.completeOk_wf _ _ _ (foldl_wf _ _ _ (fun s p w => State.copyPut_wf _ _ _ _ w) w)

@[simp] theorem State.copyOutFar_wf (s : State) (c : HostCmd) (n : Nat) (w : Memory.wf s.mem = true) : Memory.wf (State.copyOutFar s c n).mem = true := by
  unfold State.copyOutFar
  split <;> simp [*]
theorem State.copyOutDone_wf (s : State) (c : HostCmd) (x : Option Word) (w : Memory.wf s.mem = true) : Memory.wf (s.copyOutDone c x).mem = true := by
  unfold State.copyOutDone
  split <;> simp [*]
theorem State.copyOutHere_wf (s : State) (c : HostCmd) (n : Nat) (x : Option (BitVec 8 × Word)) (w : Memory.wf s.mem = true) :
    Memory.wf (s.copyOutHere c n x).mem = true := by
  cases x
  · exact State.copyOutDone_wf _ _ _ (State.copyOutAll_wf s _ _ _ _ w)
  · exact State.complete_wf _ _ _ _ _ w
theorem execCopyOut_wf (c : HostCmd) (s : State) (w : Memory.wf s.mem = true) : MemWf (execCopyOut c s) := by
  refine State.command_wf _ _ _ _ _ _ (fun s w => ?_) w
  split
  · exact State.deny_wf _ _ _ _ w
  · refine State.withBuffer_wf _ _ _ _ _ (fun s w => ?_) w
    split
    · exact State.copyOutFar_wf _ _ _ w
    · exact State.copyOutHere_wf _ _ _ _ w
theorem execLaunch_wf (c : HostCmd) (s : State) (w : Memory.wf s.mem = true) : MemWf (execLaunch c s) := by
  refine State.command_wf _ _ _ _ _ _ ?_ w
  intro s w
  split <;> simp [*]
@[simp] theorem State.killCrew_wf (s : State) (n : Nat) (w : Memory.wf s.mem = true) : Memory.wf (State.killCrew s n).mem = true := by
  unfold State.killCrew
  dsimp only
  (repeat' split) <;> simp [*]
theorem execKill_wf (c : HostCmd) (s : State) (w : Memory.wf s.mem = true) : MemWf (execKill c s) := by
  refine State.command_wf _ _ _ _ _ _ ?_ w
  intro s w
  dsimp only
  (repeat' split) <;> simp [*]
theorem execDraw_wf (c : HostCmd) (s : State) (w : Memory.wf s.mem = true) : MemWf (execDraw c s) := by
  refine State.command_wf _ _ _ _ _ _ ?_ w
  intro s w
  dsimp only
  (repeat' split) <;> simp [*]
theorem execResume_wf (c : HostCmd) (s : State) (w : Memory.wf s.mem = true) : MemWf (execResume c s) := by
  refine State.command_wf _ _ _ _ _ _ ?_ w
  intro s w
  dsimp only
  (repeat' split) <;> simp [*]
theorem execDiscard_wf (c : HostCmd) (s : State) (w : Memory.wf s.mem = true) : MemWf (execDiscard c s) := by
  refine State.command_wf _ _ _ _ _ _ ?_ w
  intro s w
  dsimp only
  (repeat' split) <;> simp [*]
theorem execCrewStatus_wf (c : HostCmd) (s : State) (w : Memory.wf s.mem = true) : MemWf (execCrewStatus c s) := by
  refine State.command_wf _ _ _ _ _ _ (fun s w => ?_) w
  dsimp only
  split
  · exact State.deny_wf _ _ _ _ w
  · exact State.withBuffer_wf _ _ _ _ _ (fun s w => State.completeOk_wf _ _ _ (State.hostWrite_wf _ _ _ w)) w
theorem execCalibrate_wf (c : HostCmd) (s : State) (w : Memory.wf s.mem = true) : MemWf (execCalibrate c s) := by
  refine State.command_wf _ _ _ _ _ _ (fun s w => ?_) w
  dsimp only
  split
  · exact State.deny_wf _ _ _ _ w
  · refine State.withBuffer_wf _ _ _ _ _ (fun s w => ?_) w
    refine State.completeOk_wf _ _ _ ?_
    dsimp only
    rw [foldl_mem _ _ _ (fun _ _ => by simp)]
    split <;> simp [*]
theorem execRoute_wf (c : HostCmd) (s : State) (w : Memory.wf s.mem = true) : MemWf (execRoute c s) := by
  refine State.command_wf _ _ _ _ _ _ (fun s w => ?_) w
  dsimp only
  split
  · exact State.deny_wf _ _ _ _ w
  · refine State.withBuffer_wf _ _ _ _ _ (fun s w => ?_) w
    split
    · exact State.completeOk_wf _ _ _ w
    · exact State.deny_wf _ _ _ _ w
@[simp] theorem State.poundNew_wf (s : State) (c : HostCmd) (w : Memory.wf s.mem = true) : Memory.wf (State.poundNew s c).mem = true := by
  unfold State.poundNew
  dsimp only
  (repeat' split) <;> simp [*]
@[simp] theorem State.poundAct_wf (s : State) (c : HostCmd) (w : Memory.wf s.mem = true) : Memory.wf (State.poundAct s c).mem = true := by
  unfold State.poundAct
  dsimp only
  (repeat' split) <;> simp [*]
@[simp] theorem State.pound_wf (s : State) (c : HostCmd) (w : Memory.wf s.mem = true) : Memory.wf (State.pound s c).mem = true := by
  unfold State.pound
  (repeat' split) <;> simp [*]
theorem execPoundDefine_wf (c : HostCmd) (s : State) (w : Memory.wf s.mem = true) : MemWf (execPoundDefine c s) := by
  refine State.command_wf _ _ _ _ _ _ ?_ w
  intro s w
  simp [*]
theorem execPoundFence_wf (c : HostCmd) (s : State) (w : Memory.wf s.mem = true) : MemWf (execPoundFence c s) := by
  refine State.command_wf _ _ _ _ _ _ ?_ w
  intro s w
  simp [*]
theorem execPoundReset_wf (c : HostCmd) (s : State) (w : Memory.wf s.mem = true) : MemWf (execPoundReset c s) := by
  refine State.command_wf _ _ _ _ _ _ ?_ w
  intro s w
  simp [*]
theorem execPoundRelease_wf (c : HostCmd) (s : State) (w : Memory.wf s.mem = true) : MemWf (execPoundRelease c s) := by
  refine State.command_wf _ _ _ _ _ _ ?_ w
  intro s w
  simp [*]
@[simp] theorem State.poundDone_wf (s : State) (p : Pound) (w : Memory.wf s.mem = true) : Memory.wf (State.poundDone s p).mem = true := by
  unfold State.poundDone
  split <;> simp [*]
theorem execPoundFenceEffect_wf (pound : Nat) (s : State) (w : Memory.wf s.mem = true) : MemWf (execPoundFenceEffect pound s) := by
  refine memWf_done ?_
  split <;> simp [*]
theorem execPoundResetDone_wf (pound : Nat) (s : State) (w : Memory.wf s.mem = true) : MemWf (execPoundResetDone pound s) := by
  refine memWf_done ?_
  split <;> simp [*]
theorem execPower_wf (c : HostCmd) (s : State) (w : Memory.wf s.mem = true) : MemWf (execPower c s) := by
  refine State.command_wf _ _ _ _ _ _ ?_ w
  intro s w
  dsimp only
  (repeat' split) <;> simp [*]
theorem execReadLog_wf (c : HostCmd) (s : State) (w : Memory.wf s.mem = true) : MemWf (execReadLog c s) := by
  refine State.command_wf _ _ _ _ _ _ (fun s w => ?_) w
  dsimp only
  split
  · exact State.deny_wf _ _ _ _ w
  · exact State.withBuffer_wf _ _ _ _ _ (fun s w => State.completeOk_wf _ _ _ (State.hostWrite_wf s _ _ w)) w
theorem execFwStage_wf (c : HostCmd) (s : State) (w : Memory.wf s.mem = true) : MemWf (execFwStage c s) := by
  refine State.command_wf _ _ _ _ _ _ (fun s w => ?_) w
  dsimp only
  split
  · exact State.deny_wf _ _ _ _ w
  · refine State.withBuffer_wf _ _ _ _ _ (fun s w => ?_) w
    split
    · exact State.complete_wf _ _ _ _ _ w
    · exact State.completeOk_wf _ _ _ w
theorem execAttest_wf (c : HostCmd) (s : State) (w : Memory.wf s.mem = true) : MemWf (execAttest c s) := by
  refine State.command_wf _ _ _ _ _ _ (fun s w => ?_) w
  extract_lets chain n
  split
  · exact State.deny_wf _ _ _ _ w
  · exact State.withBuffer_wf _ _ _ _ _ (fun s w => State.withBuffer_wf _ _ _ _ _
      (fun s w => State.completeOk_wf _ _ _ (State.hostWrite_wf _ _ _ w)) w) w
@[simp] theorem State.unassigned_wf (s : State) (c : HostCmd) (w : Memory.wf s.mem = true) : Memory.wf (State.unassigned s c).mem = true := by
  unfold State.unassigned
  simp [*]
theorem exec_wf (i : Instr) (s : State) (w : Memory.wf s.mem = true) : MemWf (exec i s) := by
  cases i with
  | syswr => exact (execSyswr_mem _ _ _).wf w
  | windescWrite => exact (execWindescWrite_mem _ _ _).wf w
  | tapcfgWrite => exact (execTapcfgWrite_mem _ _ _).wf w
  | arrmapWrite => exact (execArrmapWrite_mem _ _ _).wf w
  | cvmodeWrite => exact (execCvmodeWrite_mem _ _).wf w
  | fflagsWrite => exact (execFflagsWrite_mem _ _).wf w
  | rfmtWrite => exact (execRfmtWrite_mem _ _ _).wf w
  | ejdescWrite => exact (execEjdescWrite_mem _ _ _).wf w
  | rtabWrite => exact (execRtabWrite_mem _ _ _).wf w
  | votelogClear => exact (execVotelogClear_mem _ _).wf w
  | ejflagsClear => exact (execEjflagsClear_mem _ _).wf w
  | sysrd => exact (execSysrd_mem _ _ _).wf w
  | bra => exact (execBra_mem _ _).wf w
  | bcc => exact (execBcc_mem _ _ _ _ _).wf w
  | bpr => exact (execBpr_mem _ _ _ _).wf w
  | jmp => exact (execJmp_mem _ _).wf w
  | jmpLink => exact (execJmpLink_mem _ _ _).wf w
  | call => exact (execCall_mem _ _ _).wf w
  | ret => exact (execRet_mem _ _).wf w
  | loop => exact (execLoop_mem _ _ _).wf w
  | loops => exact (execLoops_mem _ _ _ _).wf w
  | trap => exact (execTrap_mem _ _).wf w
  | breakTrap => exact (execBreakTrap_mem _ _).wf w
  | waitv => exact (execWaitv_mem _ _ _).wf w
  | phase => exact (execPhase_mem _ _).wf w
  | size => exact (execSize_mem _ _ _).wf w
  | slpost => exact (execSlpost_mem _ _ _).wf w
  | slwait => exact (execSlwait_mem _ _ _).wf w
  | slset => exact (execSlset_mem _ _ _ _).wf w
  | slget => exact (execSlget_mem _ _ _).wf w
  | add => exact (execAdd_mem _ _ _ _).wf w
  | sub => exact (execSub_mem _ _ _ _).wf w
  | addi => exact (execAddi_mem _ _ _ _).wf w
  | mul => exact (execMul_mem _ _ _ _).wf w
  | mulh => exact (execMulh_mem _ _ _ _).wf w
  | mulhsu => exact (execMulhsu_mem _ _ _ _).wf w
  | div => exact (execDiv_mem _ _ _ _).wf w
  | divu => exact (execDivu_mem _ _ _ _).wf w
  | rem => exact (execRem_mem _ _ _ _).wf w
  | remu => exact (execRemu_mem _ _ _ _).wf w
  | and => exact (execAnd_mem _ _ _ _).wf w
  | or => exact (execOr_mem _ _ _ _).wf w
  | xor => exact (execXor_mem _ _ _ _).wf w
  | andn => exact (execAndn_mem _ _ _ _).wf w
  | andi => exact (execAndi_mem _ _ _ _).wf w
  | ori => exact (execOri_mem _ _ _ _).wf w
  | xori => exact (execXori_mem _ _ _ _).wf w
  | shl => exact (execShl_mem _ _ _ _).wf w
  | shr => exact (execShr_mem _ _ _ _).wf w
  | sha => exact (execSha_mem _ _ _ _).wf w
  | shli => exact (execShli_mem _ _ _ _).wf w
  | shri => exact (execShri_mem _ _ _ _).wf w
  | shai => exact (execShai_mem _ _ _ _).wf w
  | rot => exact (execRot_mem _ _ _ _).wf w
  | min => exact (execMin_mem _ _ _ _).wf w
  | max => exact (execMax_mem _ _ _ _).wf w
  | minu => exact (execMinu_mem _ _ _ _).wf w
  | maxu => exact (execMaxu_mem _ _ _ _).wf w
  | slt => exact (execSlt_mem _ _ _ _).wf w
  | sltu => exact (execSltu_mem _ _ _ _).wf w
  | seq => exact (execSeq_mem _ _ _ _).wf w
  | sel => exact (execSel_mem _ _ _ _ _).wf w
  | clz => exact (execClz_mem _ _ _).wf w
  | ctz => exact (execCtz_mem _ _ _).wf w
  | popc => exact (execPopc_mem _ _ _).wf w
  | li => exact (execLi_mem _ _ _).wf w
  | lih => exact (execLih_mem _ _ _).wf w
  | addx => exact (execAddx_mem _ _ _ _ _).wf w
  | extb => exact (execExtb_mem _ _ _ _ _ _).wf w
  | insb => exact (execInsb_mem _ _ _ _ _).wf w
  | kmovToK => exact (execKmovToK_mem _ _ _).wf w
  | kmovToG => exact (execKmovToG_mem _ _ _).wf w
  | kop => exact (execKop_mem _ _ _ _ _).wf w
  | ld => exact (execLd_mem _ _ _ _ _).wf w
  | st => exact (execSt_mem _ _ _ _).wf w
  | vld => exact (execVld_mem _ _ _ _ _).wf w
  | vst => exact (execVst_mem _ _ _ _ _).wf w
  | vlds => exact (execVlds_mem _ _ _ _ _ _ _).wf w
  | vgath => exact (execVgath_mem _ _ _ _ _ _ _).wf w
  | vscat => exact (execVscat_mem _ _ _ _ _ _ _).wf w
  | pcfg => exact (execPcfg_mem _ _ _ _ _).wf w
  | pclose => exact (execPclose_mem _ _).wf w
  | pstat => exact (execPstat_mem _ _ _).wf w
  | pseek => exact (execPseek_mem _ _ _).wf w
  | amo => exact (execAmo_mem _ _ _ _ _ _ _ _).wf w
  | winqAddr => exact (execWinqAddr_mem _ _ _).wf w
  | winqNum => exact (execWinqNum_mem _ _ _).wf w
  | lutld => exact (execLutld_mem _ _ _ _).wf w
  | vadd => exact (execVadd_mem _ _ _ _ _ _ _ _).wf w
  | vsub => exact (execVsub_mem _ _ _ _ _ _ _ _).wf w
  | vmul => exact (execVmul_mem _ _ _ _ _ _ _ _).wf w
  | vfma => exact (execVfma_mem _ _ _ _ _ _ _ _ _).wf w
  | vfms => exact (execVfms_mem _ _ _ _ _ _ _ _ _).wf w
  | vmin => exact (execVmin_mem _ _ _ _ _ _ _).wf w
  | vmax => exact (execVmax_mem _ _ _ _ _ _ _).wf w
  | vabs => exact (execVabs_mem _ _ _ _ _ _ _).wf w
  | vneg => exact (execVneg_mem _ _ _ _ _ _ _).wf w
  | vand => exact (execVand_mem _ _ _ _ _ _).wf w
  | vor => exact (execVor_mem _ _ _ _ _ _).wf w
  | vxor => exact (execVxor_mem _ _ _ _ _ _).wf w
  | vshl => exact (execVshl_mem _ _ _ _ _ _).wf w
  | vshr => exact (execVshr_mem _ _ _ _ _ _).wf w
  | vsha => exact (execVsha_mem _ _ _ _ _ _).wf w
  | vcmp => exact (execVcmp_mem _ _ _ _ _ _ _ _).wf w
  | vsel => exact (execVsel_mem _ _ _ _ _ _).wf w
  | vcvt => exact (execVcvt_mem _ _ _ _ _ _ _).wf w
  | vrcp => exact (execVrcp_mem _ _ _ _ _).wf w
  | vrsq => exact (execVrsq_mem _ _ _ _ _).wf w
  | vsqrt => exact (execVsqrt_mem _ _ _ _ _).wf w
  | vexp2 => exact (execVexp2_mem _ _ _ _ _).wf w
  | vlog2 => exact (execVlog2_mem _ _ _ _ _).wf w
  | vtanh => exact (execVtanh_mem _ _ _ _ _).wf w
  | vsigm => exact (execVsigm_mem _ _ _ _ _).wf w
  | vredadd => exact (execVredadd_mem _ _ _ _ _ _ _).wf w
  | vredmax => exact (execVredmax_mem _ _ _ _ _ _).wf w
  | vredmin => exact (execVredmin_mem _ _ _ _ _ _).wf w
  | vscan => exact (execVscan_mem _ _ _ _ _ _ _ _).wf w
  | vargmax => exact (execVargmax_mem _ _ _ _ _ _).wf w
  | vperm => exact (execVperm_mem _ _ _ _ _ _).wf w
  | vbcast => exact (execVbcast_mem _ _ _ _ _ _).wf w
  | vsplatG => exact (execVsplatG_mem _ _ _ _ _).wf w
  | vsplatImm => exact (execVsplatImm_mem _ _ _ _ _).wf w
  | viota => exact (execViota_mem _ _ _ _ _).wf w
  | vmov => exact (execVmov_mem _ _ _ _ _).wf w
  | vmovG => exact (execVmovG_mem _ _ _ _).wf w
  | vmovE => exact (execVmovE_mem _ _ _ _).wf w
  | vcomp => exact (execVcomp_mem _ _ _ _ _ _).wf w
  | vlut => exact (execVlut_mem _ _ _ _ _).wf w
  | vhash => exact (execVhash_mem _ _ _ _ _ _ _).wf w
  | vpda => exact (execVpda_mem _ _ _ _ _).wf w
  | vtmask => exact (execVtmask_mem _ _ _ _ _ _).wf w
  | vsample => exact (execVsample_mem _ _ _ _ _ _ _ _).wf w
  | mzero => exact (execMzero_mem _ _).wf w
  | mmul => exact (execMmul_mem _ _ _ _ _ _).wf w
  | mmulw => exact (execMmulw_mem _ _ _ _ _ _ _).wf w
  | marm => exact (execMarm_mem _ _).wf w
  | mdisarm => exact (execMdisarm_mem _ _).wf w
  | mrel => exact (execMrel_mem _ _).wf w
  | mdrain => exact (execMdrain_mem _ _ _).wf w
  | mdrainV => exact (execMdrainV_mem _ _ _).wf w
  | mdcfgSet => exact (execMdcfgSet_mem _ _).wf w
  | mdcfgTok => exact (execMdcfgTok_mem _ _).wf w
  | msums => exact (execMsums_mem _ _ _).wf w
  | mldz => exact (execMldz_mem _ _ _).wf w
  | mstz => exact (execMstz_mem _ _ _).wf w
  | finj => exact (execFinj_mem _ _ _ _).wf w
  | fpref => exact (execFpref_mem _ _ _).wf w
  | fupd => exact (execFupd_mem _ _ _ _ _ _ _).wf w
  | fred => exact (execFred_mem _ _ _ _ _ _).wf w
  | fgrp => exact (execFgrp_mem _ _ _).wf w
  | tsend => exact (execTsend_mem _ _ _).wf w
  | tsendP => exact (execTsendP_mem _ _).wf w
  | tsendV => exact (execTsendV_mem _ _ _).wf w
  | tredV => exact (execTredV_mem _ _ _).wf w
  | tredMem => exact (execTredMem_mem _ _ _ _).wf w
  | tej => exact (execTej_mem _ _ _).wf w
  | tdsend => exact (execTdsend_mem _ _ _ _ _ _).wf w
  | tdrecv => exact (execTdrecv_mem _ _ _).wf w
  | tdrecvNb => exact (execTdrecvNb_mem _ _ _).wf w
  | trtab => exact (execTrtab_mem _ _ _ _).wf w
  | timeT => exact (execTimeT_mem _ _).wf w
  | timeV => exact (execTimeV_mem _ _).wf w
  | timeOff => exact (execTimeOff_mem _ _).wf w
  | holdrq => exact (execHoldrq_mem _ _).wf w
  | berthW => exact (execBerthW_mem _ _ _).wf w
  | berthG => exact (execBerthG_mem _ _ _).wf w
  | bviewW => exact (execBviewW_mem _ _ _).wf w
  | bviewG => exact (execBviewG_mem _ _ _).wf w
  | btakeW => exact (execBtakeW_mem _ _).wf w
  | btakeG => exact (execBtakeG_mem _ _).wf w
  | btakeViewW => exact (execBtakeViewW_mem _ _).wf w
  | btakeViewG => exact (execBtakeViewG_mem _ _).wf w
  | tkt => exact (execTkt_mem _ _ _).wf w
  | tserve => exact (execTserve_mem _ _ _).wf w
  | tadv => exact (execTadv_mem _ _).wf w
  | rld => exact (execRld_mem _ _ _ _ _ _).wf w
  | rst => exact (execRst_mem _ _ _ _ _).wf w
  | ramo => exact (execRamo_mem _ _ _ _ _ _ _ _ _).wf w
  | completionWrite => exact execCompletionWrite_wf _ _ w
  | bindRequest => exact (execBindRequest_mem _ _).wf w
  | poundFenceEffect => exact execPoundFenceEffect_wf _ _ w
  | voteCommit => exact execVoteCommit_wf _ _ _ _ _ _ w
  | voteTimeout => exact execVoteTimeout_wf _ _ _ _ _ _ w
  | pageWalkDone => exact execPageWalkDone_wf _ _ _ _ w
  | vcycBroadcast => exact (execVcycBroadcast_mem _ _).wf w
  | frameReplay => exact execFrameReplay_wf _ _ _ w
  | staticFlitHandoff => exact (execStaticFlitHandoff_mem _ _).wf w
  | remoteRequestReceive => exact execRemoteRequestReceive_wf _ _ _ w
  | remoteTimeout => exact (execRemoteTimeout_mem _ _ _).wf w
  | remoteAnswer => exact execRemoteAnswer_wf _ _ _ _ w
  | pageMigration => exact execPageMigration_wf _ _ _ _ w
  | migrationClose => exact execMigrationClose_wf _ _ w
  | ferryOffer => exact (execFerryOffer_mem _ _ _ _).wf w
  | ferryReturn => exact (execFerryReturn_mem _ _).wf w
  | dispatchReady => exact execDispatchReady_wf _ _ w
  | crewStart => exact execCrewStart_wf _ _ w
  | holdAnnounce crew a m via => exact (execHoldAnnounce_mem crew a m via _).wf w
  | holdStart => exact (execHoldStart_mem _ _).wf w
  | holdRelease => exact (execHoldRelease_mem _ _ _ _).wf w
  | holdEnd => exact (execHoldEnd_mem _ _).wf w
  | driftPause => exact (execDriftPause_mem _ _).wf w
  | weightReadRetry => exact (execWeightReadRetry_mem _ _ _).wf w
  | weightReadData => exact (execWeightReadData_mem _ _ _).wf w
  | selectionDecide => exact (execSelectionDecide_mem _ _ _ _).wf w
  | selectionSwitch => exact (execSelectionSwitch_mem _ _).wf w
  | phaseCheckTimeout => exact (execPhaseCheckTimeout_mem _ _ _ _).wf w
  | crewFaultReport => exact execCrewFaultReport_wf _ _ _ _ _ w
  | crewFaultStop => exact execCrewFaultStop_wf _ _ w
  | rewind => exact execRewind_wf _ _ w
  | drawOff => exact (execDrawOff_mem _ _).wf w
  | drawOffInjectStop => exact (execDrawOffInjectStop_mem _ _).wf w
  | drawOffComplete => exact execDrawOffComplete_wf _ _ w
  | markComplete => exact (execMarkComplete_mem _ _).wf w
  | laneRotationStep => exact (execLaneRotationStep_mem _ _ _).wf w
  | dirtyLineEvict => exact (execDirtyLineEvict_mem _ _ _ _).wf w
  | finjCopy => exact (execFinjCopy_mem _ _ _).wf w
  | injectionModulate => exact (execInjectionModulate_mem _ _ _).wf w
  | deliveryStart => exact (execDeliveryStart_mem _ _ _ _ _ _ _ _ _).wf w
  | deliveryComplete => exact (execDeliveryComplete_mem _ _ _).wf w
  | staticFlitHop => exact (execStaticFlitHop_mem _ _).wf w
  | tokenEject => exact (execTokenEject_mem _ _ _ _ _).wf w
  | dynPacketHop => exact (execDynPacketHop_mem _ _).wf w
  | dynPacketDeliver => exact execDynPacketDeliver_wf _ _ _ w
  | ticketRequest => exact (execTicketRequest_mem _ _ _ _).wf w
  | berthOfferArrive => exact (execBerthOfferArrive_mem _ _ _ _).wf w
  | btakeTimeout => exact (execBtakeTimeout_mem _ _).wf w
  | portFetch => exact (execPortFetch_mem _ _ _).wf w
  | waitvExpire => exact (execWaitvExpire_mem _ _).wf w
  | slwaitProceed => exact (execSlwaitProceed_mem _ _).wf w
  | phaseWake => exact (execPhaseWake_mem _ _).wf w
  | waitiWake => exact (execWaitiWake_mem _ _).wf w
  | tdrecvWake => exact (execTdrecvWake_mem _ _).wf w
  | tserveWake => exact (execTserveWake_mem _ _).wf w
  | fenceRelease => exact (execFenceRelease_mem _ _).wf w
  | rfenceRelease => exact (execRfenceRelease_mem _ _).wf w
  | poundResetDone => exact execPoundResetDone_wf _ _ w
  | coreRailReturn => exact (execCoreRailReturn_mem _ _ _).wf w
  | bindResponse => exact execBindResponse_wf _ _ _ _ _ _ w
  | allowChange => exact (execAllowChange_mem _ _ _ _).wf w
  | frameSend => exact execFrameSend_wf _ _ w
  | resyncDone => exact execResyncDone_wf _ w
  | powerEnable => exact execPowerEnable_wf _ w
  | powerSequenceStep => exact execPowerSequenceStep_wf _ w
  | greetingPhase => exact execGreetingPhase_wf _ w
  | powerDisable => exact execPowerDisable_wf _ w
  | regradeDone => exact execRegradeDone_wf _ w
  | timeCheckPulse => exact (execTimeCheckPulse_mem _).wf w
  | referenceLoss => exact (execReferenceLoss_mem _).wf w
  | schedulerPass => exact (execSchedulerPass_mem _).wf w
  | ageTick => exact (execAgeTick_mem _).wf w
  | nop => exact (execNop_mem _).wf w
  | halt => exact execHalt_wf _ w
  | markp => exact (execMarkp_mem _).wf w
  | eret => exact (execEret_mem _).wf w
  | waiti => exact (execWaiti_mem _).wf w
  | fence => exact (execFence_mem _).wf w
  | mdcfgClr => exact (execMdcfgClr_mem _).wf w
  | drift => exact (execDrift_mem _).wf w
  | rfence => exact (execRfence_mem _).wf w
  | submit => exact execSubmit_wf _ _ _ _ w
  | cqheadWrite => exact execCqheadWrite_wf _ _ _ _ w
  | lhctlRestart => exact (execLhctlRestart_mem _ _ _).wf w
  | lockhouseRestartDone => exact execLockhouseRestartDone_wf _ _ w
  | bar0Write => exact execBar0Write_wf _ _ _ _ w
  | identify => exact execIdentify_wf _ _ w
  | createQueue => exact execCreateQueue_wf _ _ w
  | deleteQueue => exact execDeleteQueue_wf _ _ w
  | queryQueue => exact execQueryQueue_wf _ _ w
  | aspaceCreate => exact execAspaceCreate_wf _ _ w
  | aspaceDestroy => exact execAspaceDestroy_wf _ _ w
  | mapPages => exact execMapPages_wf _ _ w
  | unmapPages => exact execUnmapPages_wf _ _ w
  | copyIn => exact execCopyIn_wf _ _ w
  | copyOut => exact execCopyOut_wf _ _ w
  | launch => exact execLaunch_wf _ _ w
  | kill => exact execKill_wf _ _ w
  | draw => exact execDraw_wf _ _ w
  | resume => exact execResume_wf _ _ w
  | discard => exact execDiscard_wf _ _ w
  | crewStatus => exact execCrewStatus_wf _ _ w
  | calibrate => exact execCalibrate_wf _ _ w
  | route => exact execRoute_wf _ _ w
  | poundDefine => exact execPoundDefine_wf _ _ w
  | poundFence => exact execPoundFence_wf _ _ w
  | poundReset => exact execPoundReset_wf _ _ w
  | poundRelease => exact execPoundRelease_wf _ _ w
  | power => exact execPower_wf _ _ w
  | readLog => exact execReadLog_wf _ _ w
  | attest => exact execAttest_wf _ _ w
  | fwStage => exact execFwStage_wf _ _ w
  | events => exact execEvents_wf _ _ w
  | hello => exact (execHello_mem _ _ _ _).wf w
  | resetPulse => exact execResetPulse_wf _ _ w
  | thermalWarning => exact execThermalWarning_wf _ _ w
  | thermalLimit => exact execThermalLimit_wf _ _ w
  | thermalTrip => exact execThermalTrip_wf _ _ w
  | powerWarning => exact execPowerWarning_wf _ _ w
  | powerLimit => exact execPowerLimit_wf _ _ w
  | powerLimitRelease => exact (execPowerLimitRelease_mem _ _).wf w
  | voltageReplan => exact execVoltageReplan_wf _ _ _ _ w
  | coreRailLoss => exact (execCoreRailLoss_mem _ _ _).wf w
  | transitRailLoss => exact (execTransitRailLoss_mem _ _ _).wf w
  | transitConverterLoss => exact (execTransitConverterLoss_mem _ _ _ _).wf w
  | laserFailover => exact (execLaserFailover_mem _ _).wf w
  | frameReceive => exact execFrameReceive_wf _ _ _ _ w
  | scrubRead => exact (execScrubRead_mem _ _ _ _).wf w
  | weakLane => exact (execWeakLane_mem _ _ _).wf w
  | laneSignalLoss => exact (execLaneSignalLoss_mem _ _ _).wf w
theorem runOps_wf (r : CoreRef) (l : List Op) (s : State) (w : Memory.wf s.mem = true) : MemWf (runOps r l s) := by
  induction l generalizing s with
  | nil => intro t e; cases e; exact w
  | cons o rest ih =>
    intro t e
    unfold runOps at e
    have h := exec_wf o.instr (s.prepared r o) ((congrArg Memory.wf (State.prepared_mem s r o)).trans w)
    split at e
    · rename_i u hu; exact ih _ ((congrArg Memory.wf (State.settled_mem u)).trans (h u hu)) t e
    · cases e
    · cases e
theorem State.partDone_wf {a b : State} {r : CoreRef} {x : Bool} {k : State → Result} (ha : Memory.wf a.mem = true) (hb : Memory.wf b.mem = true)
    (hk : ∀ s, Memory.wf s.mem = true → MemWf (k s)) : MemWf (State.partDone a b r x k) := by
  intro t e
  unfold State.partDone at e
  dsimp only at e
  split at e
  · split at e
    · exact hk b hb t e
    · cases e; rw [State.undone_mem]; exact ha
  · split at e
    · cases e; rw [State.stoodAt_mem]; exact ha
    · exact hk b hb t e
theorem State.runBundle_wf (s : State) (r : CoreRef) (ws : List BWord) (w : Memory.wf s.mem = true) : MemWf (s.runBundle r ws) := by
  unfold State.runBundle
  extract_lets ops now words control
  clear_value words control
  have h0 := runOps_wf r words (s.modCore r (·.begun ws ops)) ((congrArg Memory.wf (State.modCore_mem s r _)).trans w)
  split
  · intro t e; cases e
  · intro t e; cases e
  · rename_i a ha
    have wa := h0 a ha
    refine State.partDone_wf w wa fun a' wa' => ?_
    have h1 := runOps_wf r control a' wa'
    split
    · intro t e; cases e
    · intro t e; cases e
    · rename_i b hb
      refine State.partDone_wf w (h1 b hb) fun b' wb' => ?_
      intro v e; cases e; rw [State.modCore_mem]; exact wb' 
theorem State.fetchWord_mem {s t : State} {r : CoreRef} {a : Nat} {x : Word} (h : s.fetchWord r a = .ok (x, t)) : t.mem = s.mem := by
  unfold State.fetchWord at h
  dsimp only at h
  repeat' split at h
  all_goals first | (cases h; done) | skip
  have := congrArg Prod.snd (Except.ok.inj h)
  dsimp only at this; rw [← this]; exact State.fetchBytes_mem ..
theorem State.fetchBundle_mem {s t : State} {r : CoreRef} {a n : Nat} {x : List BWord} (h : s.fetchBundle r a n = .ok (x, t)) : t.mem = s.mem := by
  induction n generalizing s a t x with
  | zero => cases h; rfl
  | succ n ih =>
    unfold State.fetchBundle at h
    split at h
    · cases h
    · rename_i hf
      split at h
      · split at h
        · cases h
        · rename_i hr; cases h; exact (ih hr).trans (State.fetchWord_mem hf)
      · cases h; exact State.fetchWord_mem hf
theorem State.issueBundle_wf (s : State) (r : CoreRef) (w : Memory.wf s.mem = true) : MemWf (s.issueBundle r) := by
  unfold State.issueBundle
  split
  · intro t e; cases e; rw [State.failBundle_mem]; exact w
  · rename_i ws u hu
    have wu : Memory.wf u.mem = true := by rw [State.fetchBundle_mem hu]; exact w
    split
    · intro t e; cases e; rw [State.modCore_mem]; exact wu
    · extract_lets away
      clear_value away
      split
      · intro t e; cases e; rw [State.leaveFerry_mem]; exact wu
      · split
        · intro t e; cases e; rw [State.failBundle_mem]; exact wu
        · exact State.runBundle_wf u r ws wu
@[simp] theorem State.commitTile_wf (s : State) (id : Nat) (owner : Option Bool) (w : Memory.wf s.mem = true) : Memory.wf (State.commitTile s id owner).mem = true := by
  unfold State.commitTile
  repeat' (first | with_reducible assumption | (simp [*]; done) | split | (refine foldl_wf _ _ _ ?_ ?_) | intro _ | (rename_i heq; have hm := congrArg (fun p => (Prod.snd p).mem) heq; simp at hm; simp [← hm, *]; done) | simp [*])
@[simp] theorem State.commitFeeder_wf (s : State) (f c : Nat) (w : Memory.wf s.mem = true) : Memory.wf (State.commitFeeder s f c).mem = true := by
  unfold State.commitFeeder
  repeat' (first | with_reducible assumption | (simp [*]; done) | split | (refine foldl_wf _ _ _ ?_ ?_) | intro _ | (rename_i heq; have hm := congrArg (fun p => (Prod.snd p).mem) heq; simp at hm; simp [← hm, *]; done) | simp [*])
@[simp] theorem State.coreTick_wf (s : State) (r : CoreRef) (w : Memory.wf s.mem = true) : Memory.wf (s.coreTick r).mem = true := by
  unfold State.coreTick
  extract_lets stands s2 s3
  have h2 : s2.mem = s.mem := (State.writeDue_mem ..).trans (State.modCore_mem ..)
  have w2 : Memory.wf s2.mem = true := by rw [h2]; exact w
  have w3 : Memory.wf s3.mem = true := by
    cases r
    · exact State.commitTile_wf _ _ _ w2
    · exact State.commitFeeder_wf _ _ _ w2
  split
  · exact w2
  · rw [State.modCore_mem]; exact w3
theorem State.coreEnter_wf (s : State) (r : CoreRef) (w : Memory.wf s.mem = true) : MemWf (s.coreEnter r) := by
  intro t e
  unfold State.coreEnter at e
  dsimp only at e
  split at e
  · cases e; exact w
  · split at e
    · cases e; exact w
    · rename_i o ho
      split at e
      · rename_i u hu
        have ws : Memory.wf ({ s.modCore r (fun c => { c with ops := c.ops.erase o }) with
            work := .coreEnter r :: (s.modCore r (fun c => { c with ops := c.ops.erase o })).work } : State).mem = true :=
          (congrArg Memory.wf (State.modCore_mem s r _)).trans w
        have h := exec_wf o.instr _ ((congrArg Memory.wf (State.prepared_mem _ r o)).trans ws) u hu
        cases e
        rcases State.enterDone_mem _ u.settled r with hd | hd
        · rw [hd]; exact ws
        · rw [hd, State.settled_mem]; exact h
      · cases e
      · cases e
theorem State.tryIssue_wf (s : State) (r : CoreRef) (w : Memory.wf s.mem = true) : MemWf (s.tryIssue r) := by
  intro t e
  unfold State.tryIssue at e
  have w' : Memory.wf (s.settle r).mem = true := by rw [State.settle_mem]; exact w
  generalize s.settle r = s at e w'
  dsimp only at e
  repeat' split at e
  all_goals first
    | exact State.issueBundle_wf s r w' t e
    | (cases e; simp only [State.takeTrap_mem, State.leaveFerry_mem, State.boardFerry_mem]; exact w')
    | (cases e; exact w')
theorem State.coreIssue_wf (s : State) (r : CoreRef) (w : Memory.wf s.mem = true) : MemWf (s.coreIssue r) := by
  intro t e
  unfold State.coreIssue at e
  split at e
  · cases e; exact w
  · split at e
    · rename_i u hu
      have h := State.tryIssue_wf s r w u hu
      cases e
      split
      · exact h
      · rw [State.autoReads_mem]; exact h
    · cases e
    · cases e
@[simp] theorem State.listUnits_wf (s : State) (w : Memory.wf s.mem = true) : Memory.wf (State.listUnits s).mem = true := by
  unfold State.listUnits
  simp [*]
@[simp] theorem State.tileEngines_wf (s : State) (id : Nat) (w : Memory.wf s.mem = true) : Memory.wf (State.tileEngines s id).mem = true := by
  unfold State.tileEngines
  split <;> simp [*]
@[simp] theorem State.feederEngines_wf (s : State) (f : Nat) (w : Memory.wf s.mem = true) : Memory.wf (State.feederEngines s f).mem = true := by
  unfold State.feederEngines
  simp [*]
@[simp] theorem State.tileEnd_wf (s : State) (id : Nat) (w : Memory.wf s.mem = true) : Memory.wf (State.tileEnd s id).mem = true := by
  unfold State.tileEnd
  simp [*]


end Sys2Proof.Machine
end

