-- ==== Sys2Proof/Laws/Units.lean ====
section
/-! SUPPORT. Units and cores: what is read of a unit after a change of one, and what results under way leave as it was. -/

namespace Sys2Proof.Machine

@[simp] theorem tile_setTile (s : State) (n m : Nat) (t : Tile) : (s.setTile n t).tile m = if m = n then t else s.tile m := lookupD_insert ..
@[simp] theorem tile_modTile (s : State) (n m : Nat) (f : Tile → Tile) : (s.modTile n f).tile m = if m = n then f (s.tile n) else s.tile m :=
  lookupD_insert ..
@[simp] theorem feeder_setFeeder (s : State) (n m : Nat) (x : Feeder) : (s.setFeeder n x).feeder m = if m = n then x else s.feeder m :=
  lookupD_insert ..
@[simp] theorem feeder_modFeeder (s : State) (n m : Nat) (f : Feeder → Feeder) :
    (s.modFeeder n f).feeder m = if m = n then f (s.feeder n) else s.feeder m := lookupD_insert ..
@[simp] theorem tile_setFeeder (s : State) (n m : Nat) (x : Feeder) : (s.setFeeder n x).tile m = s.tile m := rfl
@[simp] theorem feeder_setTile (s : State) (n m : Nat) (x : Tile) : (s.setTile n x).feeder m = s.feeder m := rfl
@[simp] theorem tile_modFeeder (s : State) (n m : Nat) (f : Feeder → Feeder) : (s.modFeeder n f).tile m = s.tile m := rfl
@[simp] theorem feeder_modTile (s : State) (n m : Nat) (f : Tile → Tile) : (s.modTile n f).feeder m = s.feeder m := rfl

/-- A core just set reads so under each of its references. -/
theorem core_setCore_same (s : State) {q r : CoreRef} (c : Core) (h : SameCore q r) : (s.setCore r c).core q = c := by
  match q, r, h with
  | .tile i true, .tile _ _, ⟨rfl, rfl⟩ => simp [State.setCore, State.core]
  | .tile i false, .tile _ _, ⟨rfl, rfl⟩ => simp [State.setCore, State.core]
  | .feeder f n, .feeder _ m, ⟨rfl, e⟩ => simp [State.setCore, State.core, e]

/-- Every other core reads as before. -/
theorem core_setCore_other (s : State) {q r : CoreRef} (c : Core) (h : ¬ SameCore q r) : (s.setCore r c).core q = s.core q := by
  match q, r, h with
  | .tile i w, .tile j v, h =>
    by_cases e : i = j
    · subst e
      cases w <;> cases v <;> simp_all [State.setCore, State.core, SameCore]
    · cases w <;> cases v <;> simp [State.setCore, State.core, e]
  | .feeder f n, .feeder g m, h =>
    by_cases e : f = g
    · subst e
      have : (feederCore m).val ≠ (feederCore n).val := fun x => h ⟨rfl, (Fin.ext x).symm⟩
      simp [State.setCore, State.core, this]
    · simp [State.setCore, State.core, e]
  | .tile i true, .feeder _ _, _ => rfl
  | .tile i false, .feeder _ _, _ => rfl
  | .feeder _ _, .tile _ true, _ => rfl
  | .feeder _ _, .tile _ false, _ => rfl

theorem sameCore_refl (r : CoreRef) : SameCore r r := by cases r <;> exact ⟨rfl, rfl⟩

@[simp] theorem core_setCore (s : State) (r : CoreRef) (c : Core) : (s.setCore r c).core r = c := core_setCore_same s c (sameCore_refl r)
@[simp] theorem core_modCore (s : State) (r : CoreRef) (f : Core → Core) : (s.modCore r f).core r = f (s.core r) := core_setCore ..

/-- Setting one core leaves all else as it was. -/
theorem onlyCore_setCore (s : State) (r : CoreRef) (c : Core) : OnlyCore r s (s.setCore r c) := by
  refine ⟨⟨?_, ?_, ?_⟩, fun q h => core_setCore_other s c h⟩
  · rcases r with ⟨i, _ | _⟩ | ⟨f, n⟩ <;> rfl
  · intro id
    rcases r with ⟨i, _ | _⟩ | ⟨f, n⟩
    · by_cases e : id = i
      · subst e; simp [State.setCore]
      · simp [State.setCore, e]
    · by_cases e : id = i
      · subst e; simp [State.setCore]
      · simp [State.setCore, e]
    · rfl
  · intro g
    rcases r with ⟨i, _ | _⟩ | ⟨f, n⟩
    · rfl
    · rfl
    · by_cases e : g = f
      · subst e; simp [State.setCore]
      · simp [State.setCore, e]

theorem onlyCore_modCore (s : State) (r : CoreRef) (f : Core → Core) : OnlyCore r s (s.modCore r f) := onlyCore_setCore ..

@[simp] theorem actor_setCore (s : State) (r : CoreRef) (c : Core) : (s.setCore r c).actor = s.actor := by rcases r with ⟨_, _ | _⟩ | _ <;> rfl
@[simp] theorem actor_modCore (s : State) (r : CoreRef) (f : Core → Core) : (s.modCore r f).actor = s.actor := actor_setCore ..
@[simp] theorem me_modMe (s : State) (f : Core → Core) : (s.modMe f).me = f s.me := by simp [State.modMe, State.me]

end Sys2Proof.Machine
end

