-- ==== Sys2Proof/Laws/Ops.lean ====
section
/-! SUPPORT. What the shared operations can do: a word that enters, a word that is refused, results put under way, standing, exceptions. -/

namespace Sys2Proof.Machine

/-! ### Words behind their checks -/

theorem wordFault_of_enters {s : State} {i : Instr} (h : s.Enters i) : s.checked = true ∨ s.wordFault s.actor i = none := h

/-- A word that enters has its effect. -/
theorem guarded_of_enters {s : State} {i : Instr} (f : State → State) (h : s.Enters i) : guarded i s f = .next (f s) := by
  unfold guarded done
  rcases h with h | h
  · simp [h]
  · simp [h]

/-- A word that fails a check of issue takes its exception. -/
theorem guarded_of_fault {s : State} {i : Instr} (f : State → State) {cause : BitVec 8} {addr : Word} (hc : s.checked = false)
    (h : s.wordFault s.actor i = some (cause, addr)) : guarded i s f = .next (s.raise cause addr) := by
  simp [guarded, done, hc, h]

theorem runs_guarded {i : Instr} {s t : State} {f : State → State} (e : exec i s = guarded i s f) (h : f s = t) : Runs i s t := fun k => by
  rw [e, guarded_of_enters f k, h]

theorem runsTo_guarded {i : Instr} {s : State} {f : State → State} {P : State → Prop} (e : exec i s = guarded i s f) (h : P (f s)) : RunsTo i s P :=
  fun k => ⟨f s, by rw [e, guarded_of_enters f k], h⟩

theorem does_done {i : Instr} {s t : State} {P : State → Prop} (e : exec i s = done t) (h : P t) : Does i s P := ⟨t, e, h⟩

theorem does_onUnit {i : Instr} {s t : State} {P : State → Prop} {ok : Bool} (e : exec i s = onUnit ok t) (hok : ok = true) (h : P t) : Does i s P :=
  ⟨t, by rw [e, onUnit, if_pos hok], h⟩

theorem onUnit_true {ok : Bool} (s : State) (h : ok = true) : onUnit ok s = .next s := by simp [onUnit, h]
theorem onUnit_false {ok : Bool} (s : State) (h : ok = false) : onUnit ok s = .fault .noSuchUnit := by simp [onUnit, h]

/-! ### Results under way -/

theorem mem_insertWr {w x : PendWr} {l : List PendWr} : x ∈ insertWr w l ↔ x = w ∨ x ∈ l := by
  induction l with
  | nil => simp [insertWr]
  | cons y r ih =>
    unfold insertWr
    split <;> simp_all [or_left_comm]

theorem me_later (s : State) (n : Nat) (w : Wr) : (s.later n w).me = { s.me with writes := insertWr ⟨n, s.seq, w⟩ s.me.writes } := by
  simp [State.later]

theorem underWay_later (s : State) (n : Nat) (w : Wr) : (s.later n w).underWay n w := by
  simp only [State.underWay, me_later, mem_insertWr]
  exact .inl (by simp [State.later, State.modMe])

/-- A result put under way changes nothing but what its core has under way. -/
theorem onlyResults_later (s : State) (n : Nat) (w : Wr) : OnlyResults s (s.later n w) :=
  ⟨onlyCore_modCore .., by rw [← show (s.later n w).actor = s.actor from actor_modCore ..]; exact congrArg (fun c : Core => { c with writes := s.me.writes }) (me_later s n w)⟩

theorem onlyResults_refl (s : State) : OnlyResults s s := ⟨⟨⟨rfl, fun _ => rfl, fun _ => rfl⟩, fun _ _ => rfl⟩, rfl⟩

theorem onlyResults_laterFlags (s : State) (n : Nat) (f : BitVec 7) : OnlyResults s (s.laterFlags n f) := by
  unfold State.laterFlags
  split
  · exact onlyResults_refl s
  · exact onlyResults_later ..

end Sys2Proof.Machine
end

