-- ==== Sys2Proof/Laws/PerInstr.lean ====
section
/-! SUPPORT. The family RoundTrip: what is proved of each instruction as syntax (its encoding). -/

namespace Sys2Proof

set_option Elab.async false
set_option linter.unusedSimpArgs false

/-- The word that `encode` writes for a well-formed instruction decodes to that instruction, with its link bit and its defer count. -/
def Laws.RoundTrip.Statement (i : Instr) : Prop :=
  i.wf = true → ∀ (link : Bool) (defer : BitVec 3) (w : Word), encode link defer i = some w → (i.isControlWord = true → defer = 0) →
    decodeWord w = .ok { link := link, defer := defer, instr := i }
theorem roundTrip_of {i : Instr} {op : BitVec 8} {o : OperandBits} (h : encodeOperands i = some (op, o))
    (hd : i.wf = true → decodeOperands op o = .ok i) : Laws.RoundTrip.Statement i := by
  intro wf link d w e hc
  unfold encode at e
  rw [h] at e
  cases e
  rw [decodeWord_fields, hd wf]
  dsimp only
  split
  · rename_i h; simp at h; exact absurd (hc h.1) h.2
  · rfl
theorem roundTrip_event {i : Instr} (h : encodeOperands i = none) : Laws.RoundTrip.Statement i := by
  intro _ _ _ _ e
  unfold encode at e
  rw [h] at e
  cases e

theorem Laws.RoundTrip.syswr (n : BitVec 12) (a : Reg) : Laws.RoundTrip.Statement (.syswr n a) :=
  roundTrip_of rfl fun w => by
    refine (show _ = decodeC 0x19 _ from rfl).trans ?_
    unfold decodeC
    dsimp only
    have hn : (n.zeroExtend 16).toNat = n.toNat := by simp; omega
    have hl := zext_lt (n := 16) (m := 0x1000) n (by decide)
    simp only [splitG_joinG]
    rw [if_pos hl]
    have wf := w
    simp only [Instr.wf, Bool.and_eq_true, Bool.not_eq_true', ownRowSysReg, Bool.or_eq_false_iff, Bool.and_eq_false_iff, decide_eq_false_iff_not] at wf
    simp only [hn, bits_zext n (show 12 ≤ 16 by decide)]
    rw [if_neg (by omega), if_neg (by omega), if_neg (by omega), if_neg (by omega), if_neg (by simp; omega), if_neg (by simp; omega),
      if_neg (by simp; omega), if_neg (by simp; omega), if_neg (by simp; omega), if_neg (by simp; omega)]
    simp [accept, w]
theorem Laws.RoundTrip.windescWrite (half : BitVec 5) (a : Reg) : Laws.RoundTrip.Statement (.windescWrite half a) :=
  roundTrip_of rfl fun w => by
    refine (show _ = decodeC 0x19 _ from rfl).trans ?_
    unfold decodeC
    dsimp only
    have hn : (sysImm 0xc0 half.toNat).toNat = 0xc0 + half.toNat := sysImm_toNat (by omega)
    have hb : bits 16 0 5 (sysImm 0xc0 half.toNat) = half := sysImm_bits half (by decide) (by decide)
    simp only [splitG_joinG]
    rw [if_pos (by omega)]
    simp only [hn, hb]
    rw [if_neg (by omega), if_neg (by omega), if_neg (by omega), if_neg (by omega), if_pos (by simp; try omega)]
    simp [accept, Instr.wf]
theorem Laws.RoundTrip.tapcfgWrite (i : BitVec 3) (a : Reg) : Laws.RoundTrip.Statement (.tapcfgWrite i a) :=
  roundTrip_of rfl fun w => by
    refine (show _ = decodeC 0x19 _ from rfl).trans ?_
    unfold decodeC
    dsimp only
    have hn : (sysImm 0xe0 i.toNat).toNat = 0xe0 + i.toNat := sysImm_toNat (by omega)
    have hb : bits 16 0 3 (sysImm 0xe0 i.toNat) = i := sysImm_bits i (by decide) (by decide)
    simp only [splitG_joinG]
    rw [if_pos (by omega)]
    simp only [hn, hb]
    rw [if_neg (by omega), if_neg (by omega), if_neg (by omega), if_neg (by omega), if_neg (by simp; try omega), if_pos (by simp; try omega)]
    simp [accept, Instr.wf]
theorem Laws.RoundTrip.arrmapWrite (i : BitVec 3) (a : Reg) : Laws.RoundTrip.Statement (.arrmapWrite i a) :=
  roundTrip_of rfl fun w => by
    refine (show _ = decodeC 0x19 _ from rfl).trans ?_
    unfold decodeC
    dsimp only
    have hn : (sysImm 0xe8 i.toNat).toNat = 0xe8 + i.toNat := sysImm_toNat (by omega)
    have hb : bits 16 0 3 (sysImm 0xe8 i.toNat) = i := sysImm_bits i (by decide) (by decide)
    simp only [splitG_joinG]
    rw [if_pos (by omega)]
    simp only [hn, hb]
    rw [if_neg (by omega), if_neg (by omega), if_neg (by omega), if_neg (by omega), if_neg (by simp; try omega), if_neg (by simp; try omega), if_pos (by simp; try omega)]
    simp [accept, Instr.wf]
theorem Laws.RoundTrip.cvmodeWrite (a : Reg) : Laws.RoundTrip.Statement (.cvmodeWrite a) :=
  roundTrip_of rfl fun w => by
    refine (show _ = decodeC 0x19 _ from rfl).trans ?_
    unfold decodeC
    dsimp only
    simp_all [-BitVec.toNat_setWidth, accept, Instr.wf, withCode]
theorem Laws.RoundTrip.fflagsWrite (a : Reg) : Laws.RoundTrip.Statement (.fflagsWrite a) :=
  roundTrip_of rfl fun w => by
    refine (show _ = decodeC 0x19 _ from rfl).trans ?_
    unfold decodeC
    dsimp only
    simp_all [-BitVec.toNat_setWidth, accept, Instr.wf, withCode]
theorem Laws.RoundTrip.rfmtWrite (i : BitVec 3) (a : Reg) : Laws.RoundTrip.Statement (.rfmtWrite i a) :=
  roundTrip_of rfl fun w => by
    refine (show _ = decodeC 0x19 _ from rfl).trans ?_
    unfold decodeC
    dsimp only
    have hn : (sysImm 0x100 i.toNat).toNat = 0x100 + i.toNat := sysImm_toNat (by omega)
    have hb : bits 16 0 3 (sysImm 0x100 i.toNat) = i := sysImm_bits i (by decide) (by decide)
    simp only [splitG_joinG]
    rw [if_pos (by omega)]
    simp only [hn, hb]
    rw [if_neg (by omega), if_neg (by omega), if_neg (by omega), if_neg (by omega), if_neg (by simp; try omega), if_neg (by simp; try omega), if_neg (by simp; try omega), if_neg (by simp; try omega), if_pos (by simp; try omega)]
    simp [accept, Instr.wf]
theorem Laws.RoundTrip.ejdescWrite (i : BitVec 4) (a : Reg) : Laws.RoundTrip.Statement (.ejdescWrite i a) :=
  roundTrip_of rfl fun w => by
    refine (show _ = decodeC 0x19 _ from rfl).trans ?_
    unfold decodeC
    dsimp only
    have hn : (sysImm 0xf0 i.toNat).toNat = 0xf0 + i.toNat := sysImm_toNat (by omega)
    have hb : bits 16 0 4 (sysImm 0xf0 i.toNat) = i := sysImm_bits i (by decide) (by decide)
    simp only [splitG_joinG]
    rw [if_pos (by omega)]
    simp only [hn, hb]
    rw [if_neg (by omega), if_neg (by omega), if_neg (by omega), if_neg (by omega), if_neg (by simp; try omega), if_neg (by simp; try omega), if_neg (by simp; try omega), if_pos (by simp; try omega)]
    simp [accept, Instr.wf]
theorem Laws.RoundTrip.rtabWrite (half : BitVec 9) (a : Reg) : Laws.RoundTrip.Statement (.rtabWrite half a) :=
  roundTrip_of rfl fun w => by
    refine (show _ = decodeC 0x19 _ from rfl).trans ?_
    unfold decodeC
    dsimp only
    have hn : (sysImm 0x200 half.toNat).toNat = 0x200 + half.toNat := sysImm_toNat (by omega)
    have hb : bits 16 0 9 (sysImm 0x200 half.toNat) = half := sysImm_bits half (by decide) (by decide)
    simp only [splitG_joinG]
    rw [if_pos (by omega)]
    simp only [hn, hb]
    rw [if_neg (by omega), if_neg (by omega), if_neg (by omega), if_neg (by omega), if_neg (by simp; try omega), if_neg (by simp; try omega), if_neg (by simp; try omega), if_neg (by simp; try omega), if_neg (by simp; try omega), if_pos (by simp; try omega)]
    simp [accept, Instr.wf]
theorem Laws.RoundTrip.votelogClear (a : Reg) : Laws.RoundTrip.Statement (.votelogClear a) :=
  roundTrip_of rfl fun w => by
    refine (show _ = decodeC 0x19 _ from rfl).trans ?_
    unfold decodeC
    dsimp only
    simp_all [-BitVec.toNat_setWidth, accept, Instr.wf, withCode]
theorem Laws.RoundTrip.ejflagsClear (a : Reg) : Laws.RoundTrip.Statement (.ejflagsClear a) :=
  roundTrip_of rfl fun w => by
    refine (show _ = decodeC 0x19 _ from rfl).trans ?_
    unfold decodeC
    dsimp only
    simp_all [-BitVec.toNat_setWidth, accept, Instr.wf, withCode]
theorem Laws.RoundTrip.sysrd (d : Reg) (n : BitVec 12) : Laws.RoundTrip.Statement (.sysrd d n) :=
  roundTrip_of rfl fun w => by
    refine (show _ = decodeC 0x18 _ from rfl).trans ?_
    unfold decodeC
    dsimp only
    simp_all [-BitVec.toNat_setWidth, accept, Instr.wf, withCode]
theorem Laws.RoundTrip.bra (tgt : BitVec 16) : Laws.RoundTrip.Statement (.bra tgt) :=
  roundTrip_of rfl fun w => by
    refine (show _ = decodeC 0x1 _ from rfl).trans ?_
    unfold decodeC
    dsimp only
    simp_all [-BitVec.toNat_setWidth, accept, Instr.wf, withCode]
theorem Laws.RoundTrip.bcc (c : BccCond) (a b : Reg) (tgt : BitVec 16) : Laws.RoundTrip.Statement (.bcc c a b tgt) :=
  roundTrip_of rfl fun w => by
    refine (show _ = decodeC 0x2 _ from rfl).trans ?_
    unfold decodeC
    dsimp only
    simp_all [-BitVec.toNat_setWidth, accept, Instr.wf, withCode]
theorem Laws.RoundTrip.bpr (c : BprCond) (k : KReg) (tgt : BitVec 16) : Laws.RoundTrip.Statement (.bpr c k tgt) :=
  roundTrip_of rfl fun w => by
    refine (show _ = decodeC 0x3 _ from rfl).trans ?_
    unfold decodeC
    dsimp only
    simp_all [-BitVec.toNat_setWidth, accept, Instr.wf, withCode]
theorem Laws.RoundTrip.jmp (a : Reg) : Laws.RoundTrip.Statement (.jmp a) :=
  roundTrip_of rfl fun w => by
    refine (show _ = decodeC 0x4 _ from rfl).trans ?_
    unfold decodeC
    dsimp only
    simp_all [-BitVec.toNat_setWidth, accept, Instr.wf, withCode]
theorem Laws.RoundTrip.jmpLink (d a : Reg) : Laws.RoundTrip.Statement (.jmpLink d a) :=
  roundTrip_of rfl fun w => by
    refine (show _ = decodeC 0x4 _ from rfl).trans ?_
    unfold decodeC
    dsimp only
    simp_all [-BitVec.toNat_setWidth, accept, Instr.wf, withCode]
theorem Laws.RoundTrip.call (a : Reg) (tgt : BitVec 16) : Laws.RoundTrip.Statement (.call a tgt) :=
  roundTrip_of rfl fun w => by
    refine (show _ = decodeC 0x5 _ from rfl).trans ?_
    unfold decodeC
    dsimp only
    simp_all [-BitVec.toNat_setWidth, accept, Instr.wf, withCode]
theorem Laws.RoundTrip.ret (a : Reg) : Laws.RoundTrip.Statement (.ret a) :=
  roundTrip_of rfl fun w => by
    refine (show _ = decodeC 0x6 _ from rfl).trans ?_
    unfold decodeC
    dsimp only
    simp_all [-BitVec.toNat_setWidth, accept, Instr.wf, withCode]
theorem Laws.RoundTrip.loop (a : Reg) (tgt : BitVec 16) : Laws.RoundTrip.Statement (.loop a tgt) :=
  roundTrip_of rfl fun w => by
    refine (show _ = decodeC 0x7 _ from rfl).trans ?_
    unfold decodeC
    dsimp only
    simp_all [-BitVec.toNat_setWidth, accept, Instr.wf, withCode]
theorem Laws.RoundTrip.loops (p : PReg) (dim : BitVec 4) (tgt : BitVec 16) : Laws.RoundTrip.Statement (.loops p dim tgt) :=
  roundTrip_of rfl fun w => by
    refine (show _ = decodeC 0x8 _ from rfl).trans ?_
    unfold decodeC
    dsimp only
    simp_all [-BitVec.toNat_setWidth, accept, Instr.wf, withCode]
theorem Laws.RoundTrip.trap (imm : BitVec 32) : Laws.RoundTrip.Statement (.trap imm) :=
  roundTrip_of rfl fun w => by
    refine (show _ = decodeC 0xa _ from rfl).trans ?_
    unfold decodeC
    dsimp only
    simp_all [-BitVec.toNat_setWidth, accept, Instr.wf, withCode]
theorem Laws.RoundTrip.breakTrap (imm : BitVec 32) : Laws.RoundTrip.Statement (.breakTrap imm) :=
  roundTrip_of rfl fun w => by
    refine (show _ = decodeC 0xb _ from rfl).trans ?_
    unfold decodeC
    dsimp only
    simp_all [-BitVec.toNat_setWidth, accept, Instr.wf, withCode]
theorem Laws.RoundTrip.waitv (a : Reg) (imm : BitVec 16) : Laws.RoundTrip.Statement (.waitv a imm) :=
  roundTrip_of rfl fun w => by
    refine (show _ = decodeC 0xc _ from rfl).trans ?_
    unfold decodeC
    dsimp only
    simp_all [-BitVec.toNat_setWidth, accept, Instr.wf, withCode]
theorem Laws.RoundTrip.phase (level : BitVec 2) : Laws.RoundTrip.Statement (.phase level) :=
  roundTrip_of rfl fun w => by
    refine (show _ = decodeC 0xd _ from rfl).trans ?_
    unfold decodeC
    dsimp only
    simp_all [-BitVec.toNat_setWidth, accept, Instr.wf, withCode]
theorem Laws.RoundTrip.size (a : Reg) (cls : BitVec 3) : Laws.RoundTrip.Statement (.size a cls) :=
  roundTrip_of rfl fun w => by
    refine (show _ = decodeC 0xe _ from rfl).trans ?_
    unfold decodeC
    dsimp only
    simp_all [-BitVec.toNat_setWidth, accept, Instr.wf, withCode]
theorem Laws.RoundTrip.slpost (sl : BitVec 4) (n : BitVec 15) : Laws.RoundTrip.Statement (.slpost sl n) :=
  roundTrip_of rfl fun w => by
    refine (show _ = decodeC 0x10 _ from rfl).trans ?_
    unfold decodeC
    dsimp only
    simp_all [-BitVec.toNat_setWidth, accept, Instr.wf, withCode]
theorem Laws.RoundTrip.slwait (sl : BitVec 4) (n : BitVec 15) : Laws.RoundTrip.Statement (.slwait sl n) :=
  roundTrip_of rfl fun w => by
    refine (show _ = decodeC 0x11 _ from rfl).trans ?_
    unfold decodeC
    dsimp only
    simp_all [-BitVec.toNat_setWidth, accept, Instr.wf, withCode]
theorem Laws.RoundTrip.slset (sl : BitVec 4) (a : Reg) (imm : BitVec 16) : Laws.RoundTrip.Statement (.slset sl a imm) :=
  roundTrip_of rfl fun w => by
    refine (show _ = decodeC 0x12 _ from rfl).trans ?_
    unfold decodeC
    dsimp only
    simp_all [-BitVec.toNat_setWidth, accept, Instr.wf, withCode]
theorem Laws.RoundTrip.slget (d : Reg) (sl : BitVec 4) : Laws.RoundTrip.Statement (.slget d sl) :=
  roundTrip_of rfl fun w => by
    refine (show _ = decodeC 0x13 _ from rfl).trans ?_
    unfold decodeC
    dsimp only
    simp_all [-BitVec.toNat_setWidth, accept, Instr.wf, withCode]
theorem Laws.RoundTrip.add (d a b : Reg) : Laws.RoundTrip.Statement (.add d a b) :=
  roundTrip_of rfl fun w => by
    refine (show _ = decodeS 0x20 _ from rfl).trans ?_
    unfold decodeS
    dsimp only
    simp_all [-BitVec.toNat_setWidth, accept, Instr.wf, withCode, sForm, sForm1, iForm, shiftForm]
theorem Laws.RoundTrip.sub (d a b : Reg) : Laws.RoundTrip.Statement (.sub d a b) :=
  roundTrip_of rfl fun w => by
    refine (show _ = decodeS 0x21 _ from rfl).trans ?_
    unfold decodeS
    dsimp only
    simp_all [-BitVec.toNat_setWidth, accept, Instr.wf, withCode, sForm, sForm1, iForm, shiftForm]
theorem Laws.RoundTrip.addi (d a : Reg) (imm : BitVec 32) : Laws.RoundTrip.Statement (.addi d a imm) :=
  roundTrip_of rfl fun w => by
    refine (show _ = decodeS 0x22 _ from rfl).trans ?_
    unfold decodeS
    dsimp only
    simp_all [-BitVec.toNat_setWidth, accept, Instr.wf, withCode, sForm, sForm1, iForm, shiftForm]
theorem Laws.RoundTrip.mul (d a b : Reg) : Laws.RoundTrip.Statement (.mul d a b) :=
  roundTrip_of rfl fun w => by
    refine (show _ = decodeS 0x23 _ from rfl).trans ?_
    unfold decodeS
    dsimp only
    simp_all [-BitVec.toNat_setWidth, accept, Instr.wf, withCode, sForm, sForm1, iForm, shiftForm]
theorem Laws.RoundTrip.mulh (d a b : Reg) : Laws.RoundTrip.Statement (.mulh d a b) :=
  roundTrip_of rfl fun w => by
    refine (show _ = decodeS 0x24 _ from rfl).trans ?_
    unfold decodeS
    dsimp only
    simp_all [-BitVec.toNat_setWidth, accept, Instr.wf, withCode, sForm, sForm1, iForm, shiftForm]
theorem Laws.RoundTrip.mulhsu (d a b : Reg) : Laws.RoundTrip.Statement (.mulhsu d a b) :=
  roundTrip_of rfl fun w => by
    refine (show _ = decodeS 0x25 _ from rfl).trans ?_
    unfold decodeS
    dsimp only
    simp_all [-BitVec.toNat_setWidth, accept, Instr.wf, withCode, sForm, sForm1, iForm, shiftForm]
theorem Laws.RoundTrip.div (d a b : Reg) : Laws.RoundTrip.Statement (.div d a b) :=
  roundTrip_of rfl fun w => by
    refine (show _ = decodeS 0x26 _ from rfl).trans ?_
    unfold decodeS
    dsimp only
    simp_all [-BitVec.toNat_setWidth, accept, Instr.wf, withCode, sForm, sForm1, iForm, shiftForm]
theorem Laws.RoundTrip.divu (d a b : Reg) : Laws.RoundTrip.Statement (.divu d a b) :=
  roundTrip_of rfl fun w => by
    refine (show _ = decodeS 0x27 _ from rfl).trans ?_
    unfold decodeS
    dsimp only
    simp_all [-BitVec.toNat_setWidth, accept, Instr.wf, withCode, sForm, sForm1, iForm, shiftForm]
theorem Laws.RoundTrip.rem (d a b : Reg) : Laws.RoundTrip.Statement (.rem d a b) :=
  roundTrip_of rfl fun w => by
    refine (show _ = decodeS 0x28 _ from rfl).trans ?_
    unfold decodeS
    dsimp only
    simp_all [-BitVec.toNat_setWidth, accept, Instr.wf, withCode, sForm, sForm1, iForm, shiftForm]
theorem Laws.RoundTrip.remu (d a b : Reg) : Laws.RoundTrip.Statement (.remu d a b) :=
  roundTrip_of rfl fun w => by
    refine (show _ = decodeS 0x29 _ from rfl).trans ?_
    unfold decodeS
    dsimp only
    simp_all [-BitVec.toNat_setWidth, accept, Instr.wf, withCode, sForm, sForm1, iForm, shiftForm]
theorem Laws.RoundTrip.and (d a b : Reg) : Laws.RoundTrip.Statement (.and d a b) :=
  roundTrip_of rfl fun w => by
    refine (show _ = decodeS 0x2a _ from rfl).trans ?_
    unfold decodeS
    dsimp only
    simp_all [-BitVec.toNat_setWidth, accept, Instr.wf, withCode, sForm, sForm1, iForm, shiftForm]
theorem Laws.RoundTrip.or (d a b : Reg) : Laws.RoundTrip.Statement (.or d a b) :=
  roundTrip_of rfl fun w => by
    refine (show _ = decodeS 0x2b _ from rfl).trans ?_
    unfold decodeS
    dsimp only
    simp_all [-BitVec.toNat_setWidth, accept, Instr.wf, withCode, sForm, sForm1, iForm, shiftForm]
theorem Laws.RoundTrip.xor (d a b : Reg) : Laws.RoundTrip.Statement (.xor d a b) :=
  roundTrip_of rfl fun w => by
    refine (show _ = decodeS 0x2c _ from rfl).trans ?_
    unfold decodeS
    dsimp only
    simp_all [-BitVec.toNat_setWidth, accept, Instr.wf, withCode, sForm, sForm1, iForm, shiftForm]
theorem Laws.RoundTrip.andn (d a b : Reg) : Laws.RoundTrip.Statement (.andn d a b) :=
  roundTrip_of rfl fun w => by
    refine (show _ = decodeS 0x2d _ from rfl).trans ?_
    unfold decodeS
    dsimp only
    simp_all [-BitVec.toNat_setWidth, accept, Instr.wf, withCode, sForm, sForm1, iForm, shiftForm]
theorem Laws.RoundTrip.andi (d a : Reg) (imm : BitVec 32) : Laws.RoundTrip.Statement (.andi d a imm) :=
  roundTrip_of rfl fun w => by
    refine (show _ = decodeS 0x2e _ from rfl).trans ?_
    unfold decodeS
    dsimp only
    simp_all [-BitVec.toNat_setWidth, accept, Instr.wf, withCode, sForm, sForm1, iForm, shiftForm]
theorem Laws.RoundTrip.ori (d a : Reg) (imm : BitVec 32) : Laws.RoundTrip.Statement (.ori d a imm) :=
  roundTrip_of rfl fun w => by
    refine (show _ = decodeS 0x2f _ from rfl).trans ?_
    unfold decodeS
    dsimp only
    simp_all [-BitVec.toNat_setWidth, accept, Instr.wf, withCode, sForm, sForm1, iForm, shiftForm]
theorem Laws.RoundTrip.xori (d a : Reg) (imm : BitVec 32) : Laws.RoundTrip.Statement (.xori d a imm) :=
  roundTrip_of rfl fun w => by
    refine (show _ = decodeS 0x30 _ from rfl).trans ?_
    unfold decodeS
    dsimp only
    simp_all [-BitVec.toNat_setWidth, accept, Instr.wf, withCode, sForm, sForm1, iForm, shiftForm]
theorem Laws.RoundTrip.shl (d a b : Reg) : Laws.RoundTrip.Statement (.shl d a b) :=
  roundTrip_of rfl fun w => by
    refine (show _ = decodeS 0x31 _ from rfl).trans ?_
    unfold decodeS
    dsimp only
    simp_all [-BitVec.toNat_setWidth, accept, Instr.wf, withCode, sForm, sForm1, iForm, shiftForm]
theorem Laws.RoundTrip.shr (d a b : Reg) : Laws.RoundTrip.Statement (.shr d a b) :=
  roundTrip_of rfl fun w => by
    refine (show _ = decodeS 0x32 _ from rfl).trans ?_
    unfold decodeS
    dsimp only
    simp_all [-BitVec.toNat_setWidth, accept, Instr.wf, withCode, sForm, sForm1, iForm, shiftForm]
theorem Laws.RoundTrip.sha (d a b : Reg) : Laws.RoundTrip.Statement (.sha d a b) :=
  roundTrip_of rfl fun w => by
    refine (show _ = decodeS 0x33 _ from rfl).trans ?_
    unfold decodeS
    dsimp only
    simp_all [-BitVec.toNat_setWidth, accept, Instr.wf, withCode, sForm, sForm1, iForm, shiftForm]
theorem Laws.RoundTrip.shli (d a : Reg) (n : BitVec 6) : Laws.RoundTrip.Statement (.shli d a n) :=
  roundTrip_of rfl fun w => by
    refine (show _ = decodeS 0x34 _ from rfl).trans ?_
    unfold decodeS
    dsimp only
    simp_all [-BitVec.toNat_setWidth, accept, Instr.wf, withCode, sForm, sForm1, iForm, shiftForm]
theorem Laws.RoundTrip.shri (d a : Reg) (n : BitVec 6) : Laws.RoundTrip.Statement (.shri d a n) :=
  roundTrip_of rfl fun w => by
    refine (show _ = decodeS 0x35 _ from rfl).trans ?_
    unfold decodeS
    dsimp only
    simp_all [-BitVec.toNat_setWidth, accept, Instr.wf, withCode, sForm, sForm1, iForm, shiftForm]
theorem Laws.RoundTrip.shai (d a : Reg) (n : BitVec 6) : Laws.RoundTrip.Statement (.shai d a n) :=
  roundTrip_of rfl fun w => by
    refine (show _ = decodeS 0x36 _ from rfl).trans ?_
    unfold decodeS
    dsimp only
    simp_all [-BitVec.toNat_setWidth, accept, Instr.wf, withCode, sForm, sForm1, iForm, shiftForm]
theorem Laws.RoundTrip.rot (d a b : Reg) : Laws.RoundTrip.Statement (.rot d a b) :=
  roundTrip_of rfl fun w => by
    refine (show _ = decodeS 0x37 _ from rfl).trans ?_
    unfold decodeS
    dsimp only
    simp_all [-BitVec.toNat_setWidth, accept, Instr.wf, withCode, sForm, sForm1, iForm, shiftForm]
theorem Laws.RoundTrip.min (d a b : Reg) : Laws.RoundTrip.Statement (.min d a b) :=
  roundTrip_of rfl fun w => by
    refine (show _ = decodeS 0x38 _ from rfl).trans ?_
    unfold decodeS
    dsimp only
    simp_all [-BitVec.toNat_setWidth, accept, Instr.wf, withCode, sForm, sForm1, iForm, shiftForm]
theorem Laws.RoundTrip.max (d a b : Reg) : Laws.RoundTrip.Statement (.max d a b) :=
  roundTrip_of rfl fun w => by
    refine (show _ = decodeS 0x39 _ from rfl).trans ?_
    unfold decodeS
    dsimp only
    simp_all [-BitVec.toNat_setWidth, accept, Instr.wf, withCode, sForm, sForm1, iForm, shiftForm]
theorem Laws.RoundTrip.minu (d a b : Reg) : Laws.RoundTrip.Statement (.minu d a b) :=
  roundTrip_of rfl fun w => by
    refine (show _ = decodeS 0x3a _ from rfl).trans ?_
    unfold decodeS
    dsimp only
    simp_all [-BitVec.toNat_setWidth, accept, Instr.wf, withCode, sForm, sForm1, iForm, shiftForm]
theorem Laws.RoundTrip.maxu (d a b : Reg) : Laws.RoundTrip.Statement (.maxu d a b) :=
  roundTrip_of rfl fun w => by
    refine (show _ = decodeS 0x3b _ from rfl).trans ?_
    unfold decodeS
    dsimp only
    simp_all [-BitVec.toNat_setWidth, accept, Instr.wf, withCode, sForm, sForm1, iForm, shiftForm]
theorem Laws.RoundTrip.slt (d a b : Reg) : Laws.RoundTrip.Statement (.slt d a b) :=
  roundTrip_of rfl fun w => by
    refine (show _ = decodeS 0x3c _ from rfl).trans ?_
    unfold decodeS
    dsimp only
    simp_all [-BitVec.toNat_setWidth, accept, Instr.wf, withCode, sForm, sForm1, iForm, shiftForm]
theorem Laws.RoundTrip.sltu (d a b : Reg) : Laws.RoundTrip.Statement (.sltu d a b) :=
  roundTrip_of rfl fun w => by
    refine (show _ = decodeS 0x3d _ from rfl).trans ?_
    unfold decodeS
    dsimp only
    simp_all [-BitVec.toNat_setWidth, accept, Instr.wf, withCode, sForm, sForm1, iForm, shiftForm]
theorem Laws.RoundTrip.seq (d a b : Reg) : Laws.RoundTrip.Statement (.seq d a b) :=
  roundTrip_of rfl fun w => by
    refine (show _ = decodeS 0x3e _ from rfl).trans ?_
    unfold decodeS
    dsimp only
    simp_all [-BitVec.toNat_setWidth, accept, Instr.wf, withCode, sForm, sForm1, iForm, shiftForm]
theorem Laws.RoundTrip.sel (d a b c : Reg) : Laws.RoundTrip.Statement (.sel d a b c) :=
  roundTrip_of rfl fun w => by
    refine (show _ = decodeS 0x3f _ from rfl).trans ?_
    unfold decodeS
    dsimp only
    simp_all [-BitVec.toNat_setWidth, accept, Instr.wf, withCode, sForm, sForm1, iForm, shiftForm]
theorem Laws.RoundTrip.clz (d a : Reg) : Laws.RoundTrip.Statement (.clz d a) :=
  roundTrip_of rfl fun w => by
    refine (show _ = decodeS 0x40 _ from rfl).trans ?_
    unfold decodeS
    dsimp only
    simp_all [-BitVec.toNat_setWidth, accept, Instr.wf, withCode, sForm, sForm1, iForm, shiftForm]
theorem Laws.RoundTrip.ctz (d a : Reg) : Laws.RoundTrip.Statement (.ctz d a) :=
  roundTrip_of rfl fun w => by
    refine (show _ = decodeS 0x41 _ from rfl).trans ?_
    unfold decodeS
    dsimp only
    simp_all [-BitVec.toNat_setWidth, accept, Instr.wf, withCode, sForm, sForm1, iForm, shiftForm]
theorem Laws.RoundTrip.popc (d a : Reg) : Laws.RoundTrip.Statement (.popc d a) :=
  roundTrip_of rfl fun w => by
    refine (show _ = decodeS 0x42 _ from rfl).trans ?_
    unfold decodeS
    dsimp only
    simp_all [-BitVec.toNat_setWidth, accept, Instr.wf, withCode, sForm, sForm1, iForm, shiftForm]
theorem Laws.RoundTrip.li (d : Reg) (imm : BitVec 42) : Laws.RoundTrip.Statement (.li d imm) :=
  roundTrip_of rfl fun w => by
    refine (show _ = decodeS 0x43 _ from rfl).trans ?_
    unfold decodeS
    dsimp only
    simp_all [-BitVec.toNat_setWidth, accept, Instr.wf, withCode, sForm, sForm1, iForm, shiftForm]
theorem Laws.RoundTrip.lih (d : Reg) (imm : BitVec 22) : Laws.RoundTrip.Statement (.lih d imm) :=
  roundTrip_of rfl fun w => by
    refine (show _ = decodeS 0x44 _ from rfl).trans ?_
    unfold decodeS
    dsimp only
    simp_all [-BitVec.toNat_setWidth, accept, Instr.wf, withCode, sForm, sForm1, iForm, shiftForm]
theorem Laws.RoundTrip.addx (d a b : Reg) (s : BitVec 3) : Laws.RoundTrip.Statement (.addx d a b s) :=
  roundTrip_of rfl fun w => by
    refine (show _ = decodeS 0x45 _ from rfl).trans ?_
    unfold decodeS
    dsimp only
    simp_all [-BitVec.toNat_setWidth, accept, Instr.wf, withCode, sForm, sForm1, iForm, shiftForm]
theorem Laws.RoundTrip.extb (sgn : Bool) (d a : Reg) (pos lenM1 : BitVec 6) : Laws.RoundTrip.Statement (.extb sgn d a pos lenM1) :=
  roundTrip_of rfl fun w => by
    refine (show _ = decodeS 0x46 _ from rfl).trans ?_
    unfold decodeS
    dsimp only
    cases sgn <;> simp_all [-BitVec.toNat_setWidth, boolBit, accept, Instr.wf, withCode]
theorem Laws.RoundTrip.insb (d a : Reg) (pos lenM1 : BitVec 6) : Laws.RoundTrip.Statement (.insb d a pos lenM1) :=
  roundTrip_of rfl fun w => by
    refine (show _ = decodeS 0x47 _ from rfl).trans ?_
    unfold decodeS
    dsimp only
    simp_all [-BitVec.toNat_setWidth, accept, Instr.wf, withCode, sForm, sForm1, iForm, shiftForm]
theorem Laws.RoundTrip.kmovToK (d : KReg) (a : Reg) : Laws.RoundTrip.Statement (.kmovToK d a) :=
  roundTrip_of rfl fun w => by
    refine (show _ = decodeS 0x48 _ from rfl).trans ?_
    unfold decodeS
    dsimp only
    simp_all [-BitVec.toNat_setWidth, accept, Instr.wf, withCode, sForm, sForm1, iForm, shiftForm]
theorem Laws.RoundTrip.kmovToG (d : Reg) (a : KReg) : Laws.RoundTrip.Statement (.kmovToG d a) :=
  roundTrip_of rfl fun w => by
    refine (show _ = decodeS 0x48 _ from rfl).trans ?_
    unfold decodeS
    dsimp only
    simp_all [-BitVec.toNat_setWidth, accept, Instr.wf, withCode, sForm, sForm1, iForm, shiftForm]
theorem Laws.RoundTrip.kop (op : KopOp) (d a b : KReg) : Laws.RoundTrip.Statement (.kop op d a b) :=
  roundTrip_of rfl fun w => by
    refine (show _ = decodeS 0x49 _ from rfl).trans ?_
    unfold decodeS
    dsimp only
    cases op <;> simp_all [kopCode, kopOf, accept, Instr.wf, withCode]
theorem Laws.RoundTrip.ld (sz : BitVec 2) (uns : Bool) (t : Reg) (m : MemOp) : Laws.RoundTrip.Statement (.ld sz uns t m) :=
  roundTrip_of rfl fun w => by
    refine (show _ = decodeL 0x50 _ from rfl).trans ?_
    unfold decodeL
    dsimp only
    cases m <;> simp_all [-BitVec.toNat_setWidth, memOperand, memFields, accept, Instr.wf, withCode]
theorem Laws.RoundTrip.st (sz : BitVec 2) (t : Reg) (m : MemOp) : Laws.RoundTrip.Statement (.st sz t m) :=
  roundTrip_of rfl fun w => by
    refine (show _ = decodeL 0x51 _ from rfl).trans ?_
    unfold decodeL
    dsimp only
    cases m <;> simp_all [-BitVec.toNat_setWidth, memOperand, memFields, accept, Instr.wf, withCode]
theorem Laws.RoundTrip.vld (fold : BitVec 2) (t : Reg) (m : MemOp) (k : KReg) : Laws.RoundTrip.Statement (.vld fold t m k) :=
  roundTrip_of rfl fun w => by
    refine (show _ = decodeL 0x52 _ from rfl).trans ?_
    unfold decodeL
    dsimp only
    cases m <;> simp_all [-BitVec.toNat_setWidth, memOperand, memFields, accept, Instr.wf, withCode]
theorem Laws.RoundTrip.vst (fold : BitVec 2) (t : Reg) (m : MemOp) (k : KReg) : Laws.RoundTrip.Statement (.vst fold t m k) :=
  roundTrip_of rfl fun w => by
    refine (show _ = decodeL 0x53 _ from rfl).trans ?_
    unfold decodeL
    dsimp only
    cases m <;> simp_all [-BitVec.toNat_setWidth, memOperand, memFields, accept, Instr.wf, withCode]
theorem Laws.RoundTrip.vlds (fold : BitVec 2) (t base : Reg) (off : BitVec 19) (s : Reg) (k : KReg) : Laws.RoundTrip.Statement (.vlds fold t base off s k) :=
  roundTrip_of rfl fun w => by
    refine (show _ = decodeL 0x54 _ from rfl).trans ?_
    unfold decodeL
    dsimp only
    simp_all [-BitVec.toNat_setWidth, accept, Instr.wf, withCode]
theorem Laws.RoundTrip.vgath (fold : BitVec 2) (t base : Reg) (off : BitVec 19) (vi : Reg) (k : KReg) : Laws.RoundTrip.Statement (.vgath fold t base off vi k) :=
  roundTrip_of rfl fun w => by
    refine (show _ = decodeL 0x55 _ from rfl).trans ?_
    unfold decodeL
    dsimp only
    simp_all [-BitVec.toNat_setWidth, accept, Instr.wf, withCode]
theorem Laws.RoundTrip.vscat (fold : BitVec 2) (t base : Reg) (off : BitVec 19) (vi : Reg) (k : KReg) : Laws.RoundTrip.Statement (.vscat fold t base off vi k) :=
  roundTrip_of rfl fun w => by
    refine (show _ = decodeL 0x56 _ from rfl).trans ?_
    unfold decodeL
    dsimp only
    simp_all [-BitVec.toNat_setWidth, accept, Instr.wf, withCode]
theorem Laws.RoundTrip.pcfg (p : PReg) (base idx : Reg) (off : BitVec 19) : Laws.RoundTrip.Statement (.pcfg p base idx off) :=
  roundTrip_of rfl fun w => by
    refine (show _ = decodeL 0x57 _ from rfl).trans ?_
    unfold decodeL
    dsimp only
    simp_all [-BitVec.toNat_setWidth, accept, Instr.wf, withCode]
theorem Laws.RoundTrip.pclose (p : PReg) : Laws.RoundTrip.Statement (.pclose p) :=
  roundTrip_of rfl fun w => by
    refine (show _ = decodeL 0x58 _ from rfl).trans ?_
    unfold decodeL
    dsimp only
    simp_all [-BitVec.toNat_setWidth, accept, Instr.wf, withCode]
theorem Laws.RoundTrip.pstat (d : Reg) (p : PReg) : Laws.RoundTrip.Statement (.pstat d p) :=
  roundTrip_of rfl fun w => by
    refine (show _ = decodeL 0x59 _ from rfl).trans ?_
    unfold decodeL
    dsimp only
    simp_all [-BitVec.toNat_setWidth, accept, Instr.wf, withCode]
theorem Laws.RoundTrip.pseek (p : PReg) (b : Reg) : Laws.RoundTrip.Statement (.pseek p b) :=
  roundTrip_of rfl fun w => by
    refine (show _ = decodeL 0x5a _ from rfl).trans ?_
    unfold decodeL
    dsimp only
    simp_all [-BitVec.toNat_setWidth, accept, Instr.wf, withCode]
theorem Laws.RoundTrip.amo (op : AmoOp) (uns dword : Bool) (t base : Reg) (off : BitVec 19) (i : Reg) : Laws.RoundTrip.Statement (.amo op uns dword t base off i) :=
  roundTrip_of rfl fun w => by
    refine (show _ = decodeL 0x5b _ from rfl).trans ?_
    unfold decodeL
    dsimp only
    cases op <;> cases uns <;> cases dword <;> simp_all [amoCode, amoOf, amoOk, boolBit, accept, Instr.wf, withCode]
theorem Laws.RoundTrip.winqAddr (d a : Reg) : Laws.RoundTrip.Statement (.winqAddr d a) :=
  roundTrip_of rfl fun w => by
    refine (show _ = decodeL 0x5d _ from rfl).trans ?_
    unfold decodeL
    dsimp only
    simp_all [-BitVec.toNat_setWidth, accept, Instr.wf, withCode]
theorem Laws.RoundTrip.winqNum (d : Reg) (w : BitVec 4) : Laws.RoundTrip.Statement (.winqNum d w) :=
  roundTrip_of rfl fun w => by
    refine (show _ = decodeL 0x5d _ from rfl).trans ?_
    unfold decodeL
    dsimp only
    simp_all [-BitVec.toNat_setWidth, accept, Instr.wf, withCode]
theorem Laws.RoundTrip.lutld (base idx : Reg) (off : BitVec 19) : Laws.RoundTrip.Statement (.lutld base idx off) :=
  roundTrip_of rfl fun w => by
    refine (show _ = decodeL 0x5e _ from rfl).trans ?_
    unfold decodeL
    dsimp only
    simp_all [-BitVec.toNat_setWidth, accept, Instr.wf, withCode]
theorem Laws.RoundTrip.vadd (ty : VTy) (sat : Bool) (fold : BitVec 2) (vd va : Reg) (b : VSrc) (k : KReg) : Laws.RoundTrip.Statement (.vadd ty sat fold vd va b k) :=
  roundTrip_of rfl fun w => by
    refine (show _ = decodeV 0x70 _ from rfl).trans ?_
    unfold decodeV
    dsimp only
    cases ty <;> cases sat <;> cases b <;> simp_all [vArith, vSource, srcFields, srcBit, vSub, vtyCode, vtyOf, boolBit, satOk, VSrc.okFor, accept, Instr.wf, withCode]
theorem Laws.RoundTrip.vsub (ty : VTy) (sat : Bool) (fold : BitVec 2) (vd va : Reg) (b : VSrc) (k : KReg) : Laws.RoundTrip.Statement (.vsub ty sat fold vd va b k) :=
  roundTrip_of rfl fun w => by
    refine (show _ = decodeV 0x71 _ from rfl).trans ?_
    unfold decodeV
    dsimp only
    cases ty <;> cases sat <;> cases b <;> simp_all [vArith, vSource, srcFields, srcBit, vSub, vtyCode, vtyOf, boolBit, satOk, VSrc.okFor, accept, Instr.wf, withCode]
theorem Laws.RoundTrip.vmul (ty : VTy) (sat : Bool) (fold : BitVec 2) (vd va : Reg) (b : VSrc) (k : KReg) : Laws.RoundTrip.Statement (.vmul ty sat fold vd va b k) :=
  roundTrip_of rfl fun w => by
    refine (show _ = decodeV 0x72 _ from rfl).trans ?_
    unfold decodeV
    dsimp only
    cases ty <;> cases sat <;> cases b <;> simp_all [vArith, vSource, srcFields, srcBit, vSub, vtyCode, vtyOf, boolBit, satOk, VSrc.okFor, accept, Instr.wf, withCode]
theorem Laws.RoundTrip.vfma (ty : VTy) (sat : Bool) (fold : BitVec 2) (vd va vb vc : Reg) (k : KReg) : Laws.RoundTrip.Statement (.vfma ty sat fold vd va vb vc k) :=
  roundTrip_of rfl fun w => by
    refine (show _ = decodeV 0x73 _ from rfl).trans ?_
    unfold decodeV
    dsimp only
    cases ty <;> cases sat <;> simp_all [vFma, vSub, vtyCode, vtyOf, boolBit, satOk, accept, Instr.wf, withCode]
theorem Laws.RoundTrip.vfms (ty : VTy) (sat : Bool) (fold : BitVec 2) (vd va vb vc : Reg) (k : KReg) : Laws.RoundTrip.Statement (.vfms ty sat fold vd va vb vc k) :=
  roundTrip_of rfl fun w => by
    refine (show _ = decodeV 0x74 _ from rfl).trans ?_
    unfold decodeV
    dsimp only
    cases ty <;> cases sat <;> simp_all [vFma, vSub, vtyCode, vtyOf, boolBit, satOk, accept, Instr.wf, withCode]
theorem Laws.RoundTrip.vmin (ty : VTy) (fold : BitVec 2) (vd va : Reg) (b : VSrc) (k : KReg) : Laws.RoundTrip.Statement (.vmin ty fold vd va b k) :=
  roundTrip_of rfl fun w => by
    refine (show _ = decodeV 0x75 _ from rfl).trans ?_
    unfold decodeV
    dsimp only
    cases ty <;> cases b <;> simp_all [vMinMax, vSource, srcFields, srcBit, vSub, vtyCode, vtyOf, boolBit, VSrc.okFor, accept, Instr.wf, withCode]
theorem Laws.RoundTrip.vmax (ty : VTy) (fold : BitVec 2) (vd va : Reg) (b : VSrc) (k : KReg) : Laws.RoundTrip.Statement (.vmax ty fold vd va b k) :=
  roundTrip_of rfl fun w => by
    refine (show _ = decodeV 0x76 _ from rfl).trans ?_
    unfold decodeV
    dsimp only
    cases ty <;> cases b <;> simp_all [vMinMax, vSource, srcFields, srcBit, vSub, vtyCode, vtyOf, boolBit, VSrc.okFor, accept, Instr.wf, withCode]
theorem Laws.RoundTrip.vabs (ty : VTy) (sat : Bool) (fold : BitVec 2) (vd va : Reg) (k : KReg) : Laws.RoundTrip.Statement (.vabs ty sat fold vd va k) :=
  roundTrip_of rfl fun w => by
    refine (show _ = decodeV 0x77 _ from rfl).trans ?_
    unfold decodeV
    dsimp only
    cases ty <;> cases sat <;> simp_all [vUnary, vSub, vtyCode, vtyOf, boolBit, satOk, accept, Instr.wf, withCode]
theorem Laws.RoundTrip.vneg (ty : VTy) (sat : Bool) (fold : BitVec 2) (vd va : Reg) (k : KReg) : Laws.RoundTrip.Statement (.vneg ty sat fold vd va k) :=
  roundTrip_of rfl fun w => by
    refine (show _ = decodeV 0x78 _ from rfl).trans ?_
    unfold decodeV
    dsimp only
    cases ty <;> cases sat <;> simp_all [vUnary, vSub, vtyCode, vtyOf, boolBit, satOk, accept, Instr.wf, withCode]
theorem Laws.RoundTrip.vand (fold : BitVec 2) (vd va : Reg) (b : VSrc) (k : KReg) : Laws.RoundTrip.Statement (.vand fold vd va b k) :=
  roundTrip_of rfl fun w => by
    refine (show _ = decodeV 0x79 _ from rfl).trans ?_
    unfold decodeV
    dsimp only
    cases b <;> simp_all [vLogic, vSource, srcFields, srcBit, vSub, vtyCode, boolBit, accept, Instr.wf, withCode]
theorem Laws.RoundTrip.vor (fold : BitVec 2) (vd va : Reg) (b : VSrc) (k : KReg) : Laws.RoundTrip.Statement (.vor fold vd va b k) :=
  roundTrip_of rfl fun w => by
    refine (show _ = decodeV 0x7a _ from rfl).trans ?_
    unfold decodeV
    dsimp only
    cases b <;> simp_all [vLogic, vSource, srcFields, srcBit, vSub, vtyCode, boolBit, accept, Instr.wf, withCode]
theorem Laws.RoundTrip.vxor (fold : BitVec 2) (vd va : Reg) (b : VSrc) (k : KReg) : Laws.RoundTrip.Statement (.vxor fold vd va b k) :=
  roundTrip_of rfl fun w => by
    refine (show _ = decodeV 0x7b _ from rfl).trans ?_
    unfold decodeV
    dsimp only
    cases b <;> simp_all [vLogic, vSource, srcFields, srcBit, vSub, vtyCode, boolBit, accept, Instr.wf, withCode]
theorem Laws.RoundTrip.vshl (fold : BitVec 2) (vd va : Reg) (b : VSrc) (k : KReg) : Laws.RoundTrip.Statement (.vshl fold vd va b k) :=
  roundTrip_of rfl fun w => by
    refine (show _ = decodeV 0x7c _ from rfl).trans ?_
    unfold decodeV
    dsimp only
    cases b <;> simp_all [vLogic, vSource, srcFields, srcBit, vSub, vtyCode, boolBit, accept, Instr.wf, withCode]
theorem Laws.RoundTrip.vshr (fold : BitVec 2) (vd va : Reg) (b : VSrc) (k : KReg) : Laws.RoundTrip.Statement (.vshr fold vd va b k) :=
  roundTrip_of rfl fun w => by
    refine (show _ = decodeV 0x7d _ from rfl).trans ?_
    unfold decodeV
    dsimp only
    cases b <;> simp_all [vLogic, vSource, srcFields, srcBit, vSub, vtyCode, boolBit, accept, Instr.wf, withCode]
theorem Laws.RoundTrip.vsha (fold : BitVec 2) (vd va : Reg) (b : VSrc) (k : KReg) : Laws.RoundTrip.Statement (.vsha fold vd va b k) :=
  roundTrip_of rfl fun w => by
    refine (show _ = decodeV 0x7e _ from rfl).trans ?_
    unfold decodeV
    dsimp only
    cases b <;> simp_all [vLogic, vSource, srcFields, srcBit, vSub, vtyCode, boolBit, accept, Instr.wf, withCode]
theorem Laws.RoundTrip.vcmp (c : VCond) (ty : VTy) (fold : BitVec 2) (kd : KReg) (va : Reg) (b : VSrc) (k : KReg) : Laws.RoundTrip.Statement (.vcmp c ty fold kd va b k) :=
  roundTrip_of rfl fun w => by
    refine (show _ = decodeV 0x7f _ from rfl).trans ?_
    unfold decodeV
    dsimp only
    cases c <;> cases ty <;> cases b <;> simp_all [vSource, srcFields, srcBit, vSub, vtyCode, vtyOf, vcondCode, vcondOf, boolBit, VSrc.okFor, accept, Instr.wf, withCode]
theorem Laws.RoundTrip.vsel (fold : BitVec 2) (vd va vb : Reg) (k : KReg) : Laws.RoundTrip.Statement (.vsel fold vd va vb k) :=
  roundTrip_of rfl fun w => by
    refine (show _ = decodeV 0x80 _ from rfl).trans ?_
    unfold decodeV
    dsimp only
    simp_all [-BitVec.toNat_setWidth, accept, Instr.wf, withCode, vOne]
theorem Laws.RoundTrip.vcvt (dst src : CvtTy) (fold : BitVec 2) (vd va : Reg) (k : KReg) : Laws.RoundTrip.Statement (.vcvt dst src fold vd va k) :=
  roundTrip_of rfl fun w => by
    refine (show _ = decodeV 0x81 _ from rfl).trans ?_
    unfold decodeV
    dsimp only
    cases dst <;> cases src <;> simp [cvtCode, cvtOf, accept, Instr.wf, withCode]
theorem Laws.RoundTrip.vrcp (fold : BitVec 2) (vd va : Reg) (k : KReg) : Laws.RoundTrip.Statement (.vrcp fold vd va k) :=
  roundTrip_of rfl fun w => by
    refine (show _ = decodeV 0x82 _ from rfl).trans ?_
    unfold decodeV
    dsimp only
    simp_all [-BitVec.toNat_setWidth, accept, Instr.wf, withCode, vOne]
theorem Laws.RoundTrip.vrsq (fold : BitVec 2) (vd va : Reg) (k : KReg) : Laws.RoundTrip.Statement (.vrsq fold vd va k) :=
  roundTrip_of rfl fun w => by
    refine (show _ = decodeV 0x83 _ from rfl).trans ?_
    unfold decodeV
    dsimp only
    simp_all [-BitVec.toNat_setWidth, accept, Instr.wf, withCode, vOne]
theorem Laws.RoundTrip.vsqrt (fold : BitVec 2) (vd va : Reg) (k : KReg) : Laws.RoundTrip.Statement (.vsqrt fold vd va k) :=
  roundTrip_of rfl fun w => by
    refine (show _ = decodeV 0x84 _ from rfl).trans ?_
    unfold decodeV
    dsimp only
    simp_all [-BitVec.toNat_setWidth, accept, Instr.wf, withCode, vOne]
theorem Laws.RoundTrip.vexp2 (fold : BitVec 2) (vd va : Reg) (k : KReg) : Laws.RoundTrip.Statement (.vexp2 fold vd va k) :=
  roundTrip_of rfl fun w => by
    refine (show _ = decodeV 0x85 _ from rfl).trans ?_
    unfold decodeV
    dsimp only
    simp_all [-BitVec.toNat_setWidth, accept, Instr.wf, withCode, vOne]
theorem Laws.RoundTrip.vlog2 (fold : BitVec 2) (vd va : Reg) (k : KReg) : Laws.RoundTrip.Statement (.vlog2 fold vd va k) :=
  roundTrip_of rfl fun w => by
    refine (show _ = decodeV 0x86 _ from rfl).trans ?_
    unfold decodeV
    dsimp only
    simp_all [-BitVec.toNat_setWidth, accept, Instr.wf, withCode, vOne]
theorem Laws.RoundTrip.vtanh (fold : BitVec 2) (vd va : Reg) (k : KReg) : Laws.RoundTrip.Statement (.vtanh fold vd va k) :=
  roundTrip_of rfl fun w => by
    refine (show _ = decodeV 0x87 _ from rfl).trans ?_
    unfold decodeV
    dsimp only
    simp_all [-BitVec.toNat_setWidth, accept, Instr.wf, withCode, vOne]
theorem Laws.RoundTrip.vsigm (fold : BitVec 2) (vd va : Reg) (k : KReg) : Laws.RoundTrip.Statement (.vsigm fold vd va k) :=
  roundTrip_of rfl fun w => by
    refine (show _ = decodeV 0x88 _ from rfl).trans ?_
    unfold decodeV
    dsimp only
    simp_all [-BitVec.toNat_setWidth, accept, Instr.wf, withCode, vOne]
theorem Laws.RoundTrip.vredadd (ty : VTy) (sat : Bool) (fold : BitVec 2) (vd va : Reg) (k : KReg) : Laws.RoundTrip.Statement (.vredadd ty sat fold vd va k) :=
  roundTrip_of rfl fun w => by
    refine (show _ = decodeV 0x89 _ from rfl).trans ?_
    unfold decodeV
    dsimp only
    cases ty <;> cases sat <;> simp_all [vUnary, vSub, vtyCode, vtyOf, boolBit, satOk, accept, Instr.wf, withCode]
theorem Laws.RoundTrip.vredmax (ty : VTy) (fold : BitVec 2) (vd va : Reg) (k : KReg) : Laws.RoundTrip.Statement (.vredmax ty fold vd va k) :=
  roundTrip_of rfl fun w => by
    refine (show _ = decodeV 0x8a _ from rfl).trans ?_
    unfold decodeV
    dsimp only
    cases ty <;> simp_all [vTyped, vSub, vtyCode, vtyOf, boolBit, accept, Instr.wf, withCode]
theorem Laws.RoundTrip.vredmin (ty : VTy) (fold : BitVec 2) (vd va : Reg) (k : KReg) : Laws.RoundTrip.Statement (.vredmin ty fold vd va k) :=
  roundTrip_of rfl fun w => by
    refine (show _ = decodeV 0x8b _ from rfl).trans ?_
    unfold decodeV
    dsimp only
    cases ty <;> simp_all [vTyped, vSub, vtyCode, vtyOf, boolBit, accept, Instr.wf, withCode]
theorem Laws.RoundTrip.vscan (op : ScanOp) (ty : VTy) (sat : Bool) (fold : BitVec 2) (vd va : Reg) (k : KReg) : Laws.RoundTrip.Statement (.vscan op ty sat fold vd va k) :=
  roundTrip_of rfl fun w => by
    refine (show _ = decodeV 0x8c _ from rfl).trans ?_
    unfold decodeV
    dsimp only
    cases op <;> cases ty <;> cases sat <;> simp_all [vSub, vtyCode, vtyOf, scanCode, scanOf, boolBit, satOk, accept, Instr.wf, withCode]
theorem Laws.RoundTrip.vargmax (ty : VTy) (fold : BitVec 2) (vd va : Reg) (k : KReg) : Laws.RoundTrip.Statement (.vargmax ty fold vd va k) :=
  roundTrip_of rfl fun w => by
    refine (show _ = decodeV 0x98 _ from rfl).trans ?_
    unfold decodeV
    dsimp only
    cases ty <;> simp_all [vTyped, vSub, vtyCode, vtyOf, boolBit, accept, Instr.wf, withCode]
theorem Laws.RoundTrip.vperm (fold : BitVec 2) (vd va vb : Reg) (k : KReg) : Laws.RoundTrip.Statement (.vperm fold vd va vb k) :=
  roundTrip_of rfl fun w => by
    refine (show _ = decodeV 0x8d _ from rfl).trans ?_
    unfold decodeV
    dsimp only
    simp_all [-BitVec.toNat_setWidth, accept, Instr.wf, withCode, vOne]
theorem Laws.RoundTrip.vbcast (fold : BitVec 2) (vd va : Reg) (e : BitVec 6) (k : KReg) : Laws.RoundTrip.Statement (.vbcast fold vd va e k) :=
  roundTrip_of rfl fun w => by
    refine (show _ = decodeV 0x8e _ from rfl).trans ?_
    unfold decodeV
    dsimp only
    simp_all [-BitVec.toNat_setWidth, accept, Instr.wf, withCode, vOne]
theorem Laws.RoundTrip.vsplatG (fold : BitVec 2) (vd ga : Reg) (k : KReg) : Laws.RoundTrip.Statement (.vsplatG fold vd ga k) :=
  roundTrip_of rfl fun w => by
    refine (show _ = decodeV 0x8f _ from rfl).trans ?_
    unfold decodeV
    dsimp only
    simp_all [-BitVec.toNat_setWidth, accept, Instr.wf, withCode, vOne]
theorem Laws.RoundTrip.vsplatImm (fold : BitVec 2) (vd : Reg) (imm : BitVec 13) (k : KReg) : Laws.RoundTrip.Statement (.vsplatImm fold vd imm k) :=
  roundTrip_of rfl fun w => by
    refine (show _ = decodeV 0x8f _ from rfl).trans ?_
    unfold decodeV
    dsimp only
    simp_all [-BitVec.toNat_setWidth, accept, Instr.wf, withCode, vOne]
theorem Laws.RoundTrip.viota (fold : BitVec 2) (vd : Reg) (imm : BitVec 13) (k : KReg) : Laws.RoundTrip.Statement (.viota fold vd imm k) :=
  roundTrip_of rfl fun w => by
    refine (show _ = decodeV 0x90 _ from rfl).trans ?_
    unfold decodeV
    dsimp only
    simp_all [-BitVec.toNat_setWidth, accept, Instr.wf, withCode, vOne]
theorem Laws.RoundTrip.vmov (fold : BitVec 2) (vd va : Reg) (k : KReg) : Laws.RoundTrip.Statement (.vmov fold vd va k) :=
  roundTrip_of rfl fun w => by
    refine (show _ = decodeV 0x91 _ from rfl).trans ?_
    unfold decodeV
    dsimp only
    simp_all [-BitVec.toNat_setWidth, accept, Instr.wf, withCode, vOne]
theorem Laws.RoundTrip.vmovG (gd va : Reg) (e : BitVec 6) : Laws.RoundTrip.Statement (.vmovG gd va e) :=
  roundTrip_of rfl fun w => by
    refine (show _ = decodeV 0x91 _ from rfl).trans ?_
    unfold decodeV
    dsimp only
    simp_all [-BitVec.toNat_setWidth, accept, Instr.wf, withCode, vOne]
theorem Laws.RoundTrip.vmovE (vd ga : Reg) (e : BitVec 6) : Laws.RoundTrip.Statement (.vmovE vd ga e) :=
  roundTrip_of rfl fun w => by
    refine (show _ = decodeV 0x91 _ from rfl).trans ?_
    unfold decodeV
    dsimp only
    simp_all [-BitVec.toNat_setWidth, accept, Instr.wf, withCode, vOne]
theorem Laws.RoundTrip.vcomp (fold : BitVec 2) (vd : Reg) (kd : KReg) (va : Reg) (k : KReg) : Laws.RoundTrip.Statement (.vcomp fold vd kd va k) :=
  roundTrip_of rfl fun w => by
    refine (show _ = decodeV 0x92 _ from rfl).trans ?_
    unfold decodeV
    dsimp only
    simp_all [-BitVec.toNat_setWidth, accept, Instr.wf, withCode, vOne]
theorem Laws.RoundTrip.vlut (fold : BitVec 2) (vd va : Reg) (k : KReg) : Laws.RoundTrip.Statement (.vlut fold vd va k) :=
  roundTrip_of rfl fun w => by
    refine (show _ = decodeV 0x93 _ from rfl).trans ?_
    unfold decodeV
    dsimp only
    simp_all [-BitVec.toNat_setWidth, accept, Instr.wf, withCode, vOne]
theorem Laws.RoundTrip.vhash (fold : BitVec 2) (vd va vb : Reg) (seed : BitVec 13) (k : KReg) : Laws.RoundTrip.Statement (.vhash fold vd va vb seed k) :=
  roundTrip_of rfl fun w => by
    refine (show _ = decodeV 0x94 _ from rfl).trans ?_
    unfold decodeV
    dsimp only
    simp_all [-BitVec.toNat_setWidth, accept, Instr.wf, withCode, vOne]
theorem Laws.RoundTrip.vpda (vd va vb : Reg) (w : BitVec 4) : Laws.RoundTrip.Statement (.vpda vd va vb w) :=
  roundTrip_of rfl fun w => by
    refine (show _ = decodeV 0x95 _ from rfl).trans ?_
    unfold decodeV
    dsimp only
    simp_all [-BitVec.toNat_setWidth, accept, Instr.wf, withCode, vOne]
theorem Laws.RoundTrip.vtmask (fold : BitVec 2) (kd : KReg) (va vb : Reg) (w : BitVec 4) : Laws.RoundTrip.Statement (.vtmask fold kd va vb w) :=
  roundTrip_of rfl fun w => by
    refine (show _ = decodeV 0x96 _ from rfl).trans ?_
    unfold decodeV
    dsimp only
    simp_all [-BitVec.toNat_setWidth, accept, Instr.wf, withCode, vOne]
theorem Laws.RoundTrip.vsample (fold : BitVec 2) (vd va vb vc : Reg) (topk : BitVec 13) (k : KReg) : Laws.RoundTrip.Statement (.vsample fold vd va vb vc topk k) :=
  roundTrip_of rfl fun w => by
    refine (show _ = decodeV 0x97 _ from rfl).trans ?_
    unfold decodeV
    dsimp only
    simp_all [-BitVec.toNat_setWidth, accept, Instr.wf, withCode, vOne]
theorem Laws.RoundTrip.mzero (z : Bool) : Laws.RoundTrip.Statement (.mzero z) :=
  roundTrip_of rfl fun w => by
    refine (show _ = decodeM 0xb0 _ from rfl).trans ?_
    unfold decodeM
    dsimp only
    simp_all [-BitVec.toNat_setWidth, accept, Instr.wf, withCode]
theorem Laws.RoundTrip.mmul (kg : KGroup) (z : Bool) (ch : BitVec 4) (pa : PReg) (gm1 : BitVec 8) : Laws.RoundTrip.Statement (.mmul kg z ch pa gm1) :=
  roundTrip_of rfl fun w => by
    refine (show _ = decodeM 0xb1 _ from rfl).trans ?_
    unfold decodeM
    dsimp only
    simp_all [-BitVec.toNat_setWidth, accept, Instr.wf, withCode]
theorem Laws.RoundTrip.mmulw (kg : KGroup) (z : Bool) (ch : BitVec 4) (pa pb : PReg) (gm1 : BitVec 8) : Laws.RoundTrip.Statement (.mmulw kg z ch pa pb gm1) :=
  roundTrip_of rfl fun w => by
    refine (show _ = decodeM 0xb2 _ from rfl).trans ?_
    unfold decodeM
    dsimp only
    simp_all [-BitVec.toNat_setWidth, accept, Instr.wf, withCode]
theorem Laws.RoundTrip.marm (ch : BitVec 4) : Laws.RoundTrip.Statement (.marm ch) :=
  roundTrip_of rfl fun w => by
    refine (show _ = decodeM 0xb3 _ from rfl).trans ?_
    unfold decodeM
    dsimp only
    simp_all [-BitVec.toNat_setWidth, accept, Instr.wf, withCode]
theorem Laws.RoundTrip.mdisarm (ch : BitVec 4) : Laws.RoundTrip.Statement (.mdisarm ch) :=
  roundTrip_of rfl fun w => by
    refine (show _ = decodeM 0xb4 _ from rfl).trans ?_
    unfold decodeM
    dsimp only
    simp_all [-BitVec.toNat_setWidth, accept, Instr.wf, withCode]
theorem Laws.RoundTrip.mrel (ch : BitVec 4) : Laws.RoundTrip.Statement (.mrel ch) :=
  roundTrip_of rfl fun w => by
    refine (show _ = decodeM 0xb5 _ from rfl).trans ?_
    unfold decodeM
    dsimp only
    simp_all [-BitVec.toNat_setWidth, accept, Instr.wf, withCode]
theorem Laws.RoundTrip.mdrain (z : Bool) (o : Reg) : Laws.RoundTrip.Statement (.mdrain z o) :=
  roundTrip_of rfl fun w => by
    refine (show _ = decodeM 0xb6 _ from rfl).trans ?_
    unfold decodeM
    dsimp only
    simp_all [-BitVec.toNat_setWidth, accept, Instr.wf, withCode]
theorem Laws.RoundTrip.mdrainV (z : Bool) (vd : Reg) : Laws.RoundTrip.Statement (.mdrainV z vd) :=
  roundTrip_of rfl fun w => by
    refine (show _ = decodeM 0xb6 _ from rfl).trans ?_
    unfold decodeM
    dsimp only
    simp_all [-BitVec.toNat_setWidth, accept, Instr.wf, withCode]
theorem Laws.RoundTrip.mdcfgSet (c : BitVec 2) : Laws.RoundTrip.Statement (.mdcfgSet c) :=
  roundTrip_of rfl fun w => by
    refine (show _ = decodeM 0xb7 _ from rfl).trans ?_
    unfold decodeM
    dsimp only
    simp_all [-BitVec.toNat_setWidth, accept, Instr.wf, withCode]
theorem Laws.RoundTrip.mdcfgTok (c : BitVec 2) : Laws.RoundTrip.Statement (.mdcfgTok c) :=
  roundTrip_of rfl fun w => by
    refine (show _ = decodeM 0xb7 _ from rfl).trans ?_
    unfold decodeM
    dsimp only
    simp_all [-BitVec.toNat_setWidth, accept, Instr.wf, withCode]
theorem Laws.RoundTrip.msums (acc : Bool) (vd : Reg) : Laws.RoundTrip.Statement (.msums acc vd) :=
  roundTrip_of rfl fun w => by
    refine (show _ = decodeM 0xb8 _ from rfl).trans ?_
    unfold decodeM
    dsimp only
    cases acc <;> simp_all [boolBit, accept, Instr.wf, withCode]
theorem Laws.RoundTrip.mldz (z : Bool) (vs : Reg) : Laws.RoundTrip.Statement (.mldz z vs) :=
  roundTrip_of rfl fun w => by
    refine (show _ = decodeM 0xb9 _ from rfl).trans ?_
    unfold decodeM
    dsimp only
    simp_all [-BitVec.toNat_setWidth, accept, Instr.wf, withCode]
theorem Laws.RoundTrip.mstz (vd : Reg) (z : Bool) : Laws.RoundTrip.Statement (.mstz vd z) :=
  roundTrip_of rfl fun w => by
    refine (show _ = decodeM 0xba _ from rfl).trans ?_
    unfold decodeM
    dsimp only
    simp_all [-BitVec.toNat_setWidth, accept, Instr.wf, withCode]
theorem Laws.RoundTrip.finj (a t : Reg) (g : BitVec 8) : Laws.RoundTrip.Statement (.finj a t g) :=
  roundTrip_of rfl fun w => by
    refine (show _ = decodeF 0xc8 _ from rfl).trans ?_
    unfold decodeF
    dsimp only
    simp_all [-BitVec.toNat_setWidth, accept, Instr.wf, withCode]
theorem Laws.RoundTrip.fpref (a l : Reg) : Laws.RoundTrip.Statement (.fpref a l) :=
  roundTrip_of rfl fun w => by
    refine (show _ = decodeF 0xc9 _ from rfl).trans ?_
    unfold decodeF
    dsimp only
    simp_all [-BitVec.toNat_setWidth, accept, Instr.wf, withCode]
theorem Laws.RoundTrip.fupd (op : FupdOp) (fmt : FFmt) (w s c : Reg) (nM1 : BitVec 16) : Laws.RoundTrip.Statement (.fupd op fmt w s c nM1) :=
  roundTrip_of rfl fun w => by
    refine (show _ = decodeF 0xca _ from rfl).trans ?_
    unfold decodeF
    dsimp only
    simp_all [-BitVec.toNat_setWidth, accept, Instr.wf, withCode]
theorem Laws.RoundTrip.fred (op : FredOp) (fmt : FFmt) (d a : Reg) (nM1 : BitVec 16) : Laws.RoundTrip.Statement (.fred op fmt d a nM1) :=
  roundTrip_of rfl fun w => by
    refine (show _ = decodeF 0xcb _ from rfl).trans ?_
    unfold decodeF
    dsimp only
    simp_all [-BitVec.toNat_setWidth, accept, Instr.wf, withCode]
theorem Laws.RoundTrip.fgrp (a : Reg) (g : BitVec 8) : Laws.RoundTrip.Statement (.fgrp a g) :=
  roundTrip_of rfl fun w => by
    refine (show _ = decodeF 0xcc _ from rfl).trans ?_
    unfold decodeF
    dsimp only
    simp_all [-BitVec.toNat_setWidth, accept, Instr.wf, withCode]
theorem Laws.RoundTrip.tsend (a : Reg) (imm : BitVec 16) : Laws.RoundTrip.Statement (.tsend a imm) :=
  roundTrip_of rfl fun w => by
    refine (show _ = decodeN 0xd0 _ from rfl).trans ?_
    unfold decodeN
    dsimp only
    simp_all [-BitVec.toNat_setWidth, accept, Instr.wf, withCode]
theorem Laws.RoundTrip.tsendP (p : PReg) : Laws.RoundTrip.Statement (.tsendP p) :=
  roundTrip_of rfl fun w => by
    refine (show _ = decodeN 0xd0 _ from rfl).trans ?_
    unfold decodeN
    dsimp only
    simp_all [-BitVec.toNat_setWidth, accept, Instr.wf, withCode]
theorem Laws.RoundTrip.tsendV (va : Reg) (q : BitVec 2) : Laws.RoundTrip.Statement (.tsendV va q) :=
  roundTrip_of rfl fun w => by
    refine (show _ = decodeN 0xd0 _ from rfl).trans ?_
    unfold decodeN
    dsimp only
    simp_all [-BitVec.toNat_setWidth, accept, Instr.wf, withCode]
theorem Laws.RoundTrip.tredV (isInt : Bool) (va : Reg) : Laws.RoundTrip.Statement (.tredV isInt va) :=
  roundTrip_of rfl fun w => by
    refine (show _ = decodeN 0xd1 _ from rfl).trans ?_
    unfold decodeN
    dsimp only
    cases isInt <;> simp [boolBit, accept, Instr.wf, withCode]
theorem Laws.RoundTrip.tredMem (isInt : Bool) (a : Reg) (imm : BitVec 16) : Laws.RoundTrip.Statement (.tredMem isInt a imm) :=
  roundTrip_of rfl fun w => by
    refine (show _ = decodeN 0xd1 _ from rfl).trans ?_
    unfold decodeN
    dsimp only
    cases isInt <;> simp [boolBit, accept, Instr.wf, withCode]
theorem Laws.RoundTrip.tej (j : BitVec 4) (a : Reg) : Laws.RoundTrip.Statement (.tej j a) :=
  roundTrip_of rfl fun w => by
    refine (show _ = decodeN 0xd2 _ from rfl).trans ?_
    unfold decodeN
    dsimp only
    simp_all [-BitVec.toNat_setWidth, accept, Instr.wf, withCode]
theorem Laws.RoundTrip.tdsend (d a b c : Reg) (len : BitVec 7) : Laws.RoundTrip.Statement (.tdsend d a b c len) :=
  roundTrip_of rfl fun w => by
    refine (show _ = decodeN 0xd3 _ from rfl).trans ?_
    unfold decodeN
    dsimp only
    simp_all [-BitVec.toNat_setWidth, accept, Instr.wf, withCode]
theorem Laws.RoundTrip.tdrecv (d a : Reg) : Laws.RoundTrip.Statement (.tdrecv d a) :=
  roundTrip_of rfl fun w => by
    refine (show _ = decodeN 0xd4 _ from rfl).trans ?_
    unfold decodeN
    dsimp only
    simp_all [-BitVec.toNat_setWidth, accept, Instr.wf, withCode]
theorem Laws.RoundTrip.tdrecvNb (d a : Reg) : Laws.RoundTrip.Statement (.tdrecvNb d a) :=
  roundTrip_of rfl fun w => by
    refine (show _ = decodeN 0xd4 _ from rfl).trans ?_
    unfold decodeN
    dsimp only
    simp_all [-BitVec.toNat_setWidth, accept, Instr.wf, withCode]
theorem Laws.RoundTrip.trtab (e : BitVec 8) (a b : Reg) : Laws.RoundTrip.Statement (.trtab e a b) :=
  roundTrip_of rfl fun w => by
    refine (show _ = decodeN 0xd5 _ from rfl).trans ?_
    unfold decodeN
    dsimp only
    simp_all [-BitVec.toNat_setWidth, accept, Instr.wf, withCode]
theorem Laws.RoundTrip.timeT (d : Reg) : Laws.RoundTrip.Statement (.timeT d) :=
  roundTrip_of rfl fun w => by
    refine (show _ = decodeN 0xd6 _ from rfl).trans ?_
    unfold decodeN
    dsimp only
    simp_all [-BitVec.toNat_setWidth, accept, Instr.wf, withCode]
theorem Laws.RoundTrip.timeV (d : Reg) : Laws.RoundTrip.Statement (.timeV d) :=
  roundTrip_of rfl fun w => by
    refine (show _ = decodeN 0xd6 _ from rfl).trans ?_
    unfold decodeN
    dsimp only
    simp_all [-BitVec.toNat_setWidth, accept, Instr.wf, withCode]
theorem Laws.RoundTrip.timeOff (d : Reg) : Laws.RoundTrip.Statement (.timeOff d) :=
  roundTrip_of rfl fun w => by
    refine (show _ = decodeN 0xd6 _ from rfl).trans ?_
    unfold decodeN
    dsimp only
    simp_all [-BitVec.toNat_setWidth, accept, Instr.wf, withCode]
theorem Laws.RoundTrip.holdrq (l : BitVec 16) : Laws.RoundTrip.Statement (.holdrq l) :=
  roundTrip_of rfl fun w => by
    refine (show _ = decodeN 0xd8 _ from rfl).trans ?_
    unfold decodeN
    dsimp only
    simp_all [-BitVec.toNat_setWidth, accept, Instr.wf, withCode]
theorem Laws.RoundTrip.berthW (w : BitVec 4) (b : Reg) : Laws.RoundTrip.Statement (.berthW w b) :=
  roundTrip_of rfl fun w => by
    refine (show _ = decodeN 0xd9 _ from rfl).trans ?_
    unfold decodeN
    dsimp only
    simp_all [-BitVec.toNat_setWidth, accept, Instr.wf, withCode]
theorem Laws.RoundTrip.berthG (a b : Reg) : Laws.RoundTrip.Statement (.berthG a b) :=
  roundTrip_of rfl fun w => by
    refine (show _ = decodeN 0xd9 _ from rfl).trans ?_
    unfold decodeN
    dsimp only
    simp_all [-BitVec.toNat_setWidth, accept, Instr.wf, withCode]
theorem Laws.RoundTrip.bviewW (w : BitVec 4) (b : Reg) : Laws.RoundTrip.Statement (.bviewW w b) :=
  roundTrip_of rfl fun w => by
    refine (show _ = decodeN 0xda _ from rfl).trans ?_
    unfold decodeN
    dsimp only
    simp_all [-BitVec.toNat_setWidth, accept, Instr.wf, withCode]
theorem Laws.RoundTrip.bviewG (a b : Reg) : Laws.RoundTrip.Statement (.bviewG a b) :=
  roundTrip_of rfl fun w => by
    refine (show _ = decodeN 0xda _ from rfl).trans ?_
    unfold decodeN
    dsimp only
    simp_all [-BitVec.toNat_setWidth, accept, Instr.wf, withCode]
theorem Laws.RoundTrip.btakeW (w : BitVec 4) : Laws.RoundTrip.Statement (.btakeW w) :=
  roundTrip_of rfl fun w => by
    refine (show _ = decodeN 0xdb _ from rfl).trans ?_
    unfold decodeN
    dsimp only
    simp_all [-BitVec.toNat_setWidth, accept, Instr.wf, withCode]
theorem Laws.RoundTrip.btakeG (a : Reg) : Laws.RoundTrip.Statement (.btakeG a) :=
  roundTrip_of rfl fun w => by
    refine (show _ = decodeN 0xdb _ from rfl).trans ?_
    unfold decodeN
    dsimp only
    simp_all [-BitVec.toNat_setWidth, accept, Instr.wf, withCode]
theorem Laws.RoundTrip.btakeViewW (w : BitVec 4) : Laws.RoundTrip.Statement (.btakeViewW w) :=
  roundTrip_of rfl fun w => by
    refine (show _ = decodeN 0xdb _ from rfl).trans ?_
    unfold decodeN
    dsimp only
    simp_all [-BitVec.toNat_setWidth, accept, Instr.wf, withCode]
theorem Laws.RoundTrip.btakeViewG (a : Reg) : Laws.RoundTrip.Statement (.btakeViewG a) :=
  roundTrip_of rfl fun w => by
    refine (show _ = decodeN 0xdb _ from rfl).trans ?_
    unfold decodeN
    dsimp only
    simp_all [-BitVec.toNat_setWidth, accept, Instr.wf, withCode]
theorem Laws.RoundTrip.tkt (d : Reg) (n : BitVec 6) : Laws.RoundTrip.Statement (.tkt d n) :=
  roundTrip_of rfl fun w => by
    refine (show _ = decodeN 0xdc _ from rfl).trans ?_
    unfold decodeN
    dsimp only
    simp_all [-BitVec.toNat_setWidth, accept, Instr.wf, withCode]
theorem Laws.RoundTrip.tserve (a : Reg) (n : BitVec 6) : Laws.RoundTrip.Statement (.tserve a n) :=
  roundTrip_of rfl fun w => by
    refine (show _ = decodeN 0xdd _ from rfl).trans ?_
    unfold decodeN
    dsimp only
    simp_all [-BitVec.toNat_setWidth, accept, Instr.wf, withCode]
theorem Laws.RoundTrip.tadv (n : BitVec 6) : Laws.RoundTrip.Statement (.tadv n) :=
  roundTrip_of rfl fun w => by
    refine (show _ = decodeN 0xde _ from rfl).trans ?_
    unfold decodeN
    dsimp only
    simp_all [-BitVec.toNat_setWidth, accept, Instr.wf, withCode]
theorem Laws.RoundTrip.rld (sz : BitVec 2) (uns : Bool) (d a : Reg) (imm : BitVec 16) : Laws.RoundTrip.Statement (.rld sz uns d a imm) :=
  roundTrip_of rfl fun w => by
    refine (show _ = decodeN 0xdf _ from rfl).trans ?_
    unfold decodeN
    dsimp only
    simp_all [-BitVec.toNat_setWidth, accept, Instr.wf, withCode]
theorem Laws.RoundTrip.rst (sz : BitVec 2) (a b : Reg) (imm : BitVec 16) : Laws.RoundTrip.Statement (.rst sz a b imm) :=
  roundTrip_of rfl fun w => by
    refine (show _ = decodeN 0xe0 _ from rfl).trans ?_
    unfold decodeN
    dsimp only
    simp_all [-BitVec.toNat_setWidth, accept, Instr.wf, withCode]
theorem Laws.RoundTrip.ramo (op : AmoOp) (uns dword : Bool) (d a b c : Reg) (imm : BitVec 16) : Laws.RoundTrip.Statement (.ramo op uns dword d a b c imm) :=
  roundTrip_of rfl fun w => by
    refine (show _ = decodeN 0xe1 _ from rfl).trans ?_
    unfold decodeN
    dsimp only
    cases op <;> cases uns <;> cases dword <;> simp_all [amoCode, amoOf, amoOk, boolBit, accept, Instr.wf, withCode]
theorem Laws.RoundTrip.completionWrite (qid : Nat) : Laws.RoundTrip.Statement (.completionWrite qid) := roundTrip_event rfl
theorem Laws.RoundTrip.bindRequest (b : BindReq) : Laws.RoundTrip.Statement (.bindRequest b) := roundTrip_event rfl
theorem Laws.RoundTrip.poundFenceEffect (pound : Nat) : Laws.RoundTrip.Statement (.poundFenceEffect pound) := roundTrip_event rfl
theorem Laws.RoundTrip.voteCommit (m : Voted) (addr : Nat) (c0 c1 c2 : Option Word) : Laws.RoundTrip.Statement (.voteCommit m addr c0 c1 c2) := roundTrip_event rfl
theorem Laws.RoundTrip.voteTimeout (m : Voted) (addr : Nat) (c0 c1 c2 : Option Word) : Laws.RoundTrip.Statement (.voteTimeout m addr c0 c1 c2) := roundTrip_event rfl
theorem Laws.RoundTrip.pageWalkDone (i : Iface) (asid : BitVec 16) (gaddr : Word) : Laws.RoundTrip.Statement (.pageWalkDone i asid gaddr) := roundTrip_event rfl
theorem Laws.RoundTrip.vcycBroadcast (crew : BitVec 16) : Laws.RoundTrip.Statement (.vcycBroadcast crew) := roundTrip_event rfl
theorem Laws.RoundTrip.frameReplay (tl : Nat) (seq : BitVec 12) : Laws.RoundTrip.Statement (.frameReplay tl seq) := roundTrip_event rfl
theorem Laws.RoundTrip.staticFlitHandoff (tl : Nat) : Laws.RoundTrip.Statement (.staticFlitHandoff tl) := roundTrip_event rfl
theorem Laws.RoundTrip.remoteRequestReceive (i : Iface) (q : Req) : Laws.RoundTrip.Statement (.remoteRequestReceive i q) := roundTrip_event rfl
theorem Laws.RoundTrip.remoteTimeout (core : CoreRef) (tag : BitVec 16) : Laws.RoundTrip.Statement (.remoteTimeout core tag) := roundTrip_event rfl
theorem Laws.RoundTrip.remoteAnswer (core : CoreRef) (tag : BitVec 16) (a : Ans) : Laws.RoundTrip.Statement (.remoteAnswer core tag a) := roundTrip_event rfl
theorem Laws.RoundTrip.pageMigration (asid : BitVec 16) (gaddr : Word) (home : Nat) : Laws.RoundTrip.Statement (.pageMigration asid gaddr home) := roundTrip_event rfl
theorem Laws.RoundTrip.migrationClose (page : Nat) : Laws.RoundTrip.Statement (.migrationClose page) := roundTrip_event rfl
theorem Laws.RoundTrip.ferryOffer (core : CoreRef) (tag : BitVec 16) (f : Nat) : Laws.RoundTrip.Statement (.ferryOffer core tag f) := roundTrip_event rfl
theorem Laws.RoundTrip.ferryReturn (core : CoreRef) : Laws.RoundTrip.Statement (.ferryReturn core) := roundTrip_event rfl
theorem Laws.RoundTrip.dispatchReady (crew : BitVec 16) : Laws.RoundTrip.Statement (.dispatchReady crew) := roundTrip_event rfl
theorem Laws.RoundTrip.crewStart (crew : BitVec 16) : Laws.RoundTrip.Statement (.crewStart crew) := roundTrip_event rfl
theorem Laws.RoundTrip.holdAnnounce (crew : BitVec 16) (a : BitVec 48) (m : HoldMsg) (via : Option Nat) : Laws.RoundTrip.Statement (.holdAnnounce crew a m via) := roundTrip_event rfl
theorem Laws.RoundTrip.holdStart (crew : BitVec 16) : Laws.RoundTrip.Statement (.holdStart crew) := roundTrip_event rfl
theorem Laws.RoundTrip.holdRelease (crew : BitVec 16) (x : HoldSpan) (via : Option Nat) : Laws.RoundTrip.Statement (.holdRelease crew x via) := roundTrip_event rfl
theorem Laws.RoundTrip.holdEnd (crew : BitVec 16) : Laws.RoundTrip.Statement (.holdEnd crew) := roundTrip_event rfl
theorem Laws.RoundTrip.driftPause (crew : BitVec 16) : Laws.RoundTrip.Statement (.driftPause crew) := roundTrip_event rfl
theorem Laws.RoundTrip.weightReadRetry (f : Nat) (line : Nat) : Laws.RoundTrip.Statement (.weightReadRetry f line) := roundTrip_event rfl
theorem Laws.RoundTrip.weightReadData (f : Nat) (line : Nat) : Laws.RoundTrip.Statement (.weightReadData f line) := roundTrip_event rfl
theorem Laws.RoundTrip.selectionDecide (crew : BitVec 16) (cls : BitVec 3) (e : BitVec 48) : Laws.RoundTrip.Statement (.selectionDecide crew cls e) := roundTrip_event rfl
theorem Laws.RoundTrip.selectionSwitch (crew : BitVec 16) : Laws.RoundTrip.Statement (.selectionSwitch crew) := roundTrip_event rfl
theorem Laws.RoundTrip.phaseCheckTimeout (crew : BitVec 16) (level : BitVec 2) (count : BitVec 48) : Laws.RoundTrip.Statement (.phaseCheckTimeout crew level count) := roundTrip_event rfl
theorem Laws.RoundTrip.crewFaultReport (crew : BitVec 16) (cause : BitVec 8) (addr : Word) (member : Nat) : Laws.RoundTrip.Statement (.crewFaultReport crew cause addr member) := roundTrip_event rfl
theorem Laws.RoundTrip.crewFaultStop (crew : BitVec 16) : Laws.RoundTrip.Statement (.crewFaultStop crew) := roundTrip_event rfl
theorem Laws.RoundTrip.rewind (crew : BitVec 16) : Laws.RoundTrip.Statement (.rewind crew) := roundTrip_event rfl
theorem Laws.RoundTrip.drawOff (crew : BitVec 16) : Laws.RoundTrip.Statement (.drawOff crew) := roundTrip_event rfl
theorem Laws.RoundTrip.drawOffInjectStop (crew : BitVec 16) : Laws.RoundTrip.Statement (.drawOffInjectStop crew) := roundTrip_event rfl
theorem Laws.RoundTrip.drawOffComplete (crew : BitVec 16) : Laws.RoundTrip.Statement (.drawOffComplete crew) := roundTrip_event rfl
theorem Laws.RoundTrip.markComplete (crew : BitVec 16) : Laws.RoundTrip.Statement (.markComplete crew) := roundTrip_event rfl
theorem Laws.RoundTrip.laneRotationStep (d : TowDir) (differ : Bool) : Laws.RoundTrip.Statement (.laneRotationStep d differ) := roundTrip_event rfl
theorem Laws.RoundTrip.dirtyLineEvict (f : Nat) (line : Nat) (badSectors : BitVec 8) : Laws.RoundTrip.Statement (.dirtyLineEvict f line badSectors) := roundTrip_event rfl
theorem Laws.RoundTrip.finjCopy (f : Nat) (id : Nat) : Laws.RoundTrip.Statement (.finjCopy f id) := roundTrip_event rfl
theorem Laws.RoundTrip.injectionModulate (f : Nat) (id : Nat) : Laws.RoundTrip.Statement (.injectionModulate f id) := roundTrip_event rfl
theorem Laws.RoundTrip.deliveryStart (tile : Nat) (lane : BitVec 2) (lams : BitVec 16) (tag : BitVec 8) (f : Nat) (t : BitVec 48) (light : Light) (only : Option (BitVec 3)) : Laws.RoundTrip.Statement (.deliveryStart tile lane lams tag f t light only) := roundTrip_event rfl
theorem Laws.RoundTrip.deliveryComplete (tile : Nat) (block : Nat) : Laws.RoundTrip.Statement (.deliveryComplete tile block) := roundTrip_event rfl
theorem Laws.RoundTrip.staticFlitHop (tile : Nat) : Laws.RoundTrip.Statement (.staticFlitHop tile) := roundTrip_event rfl
theorem Laws.RoundTrip.tokenEject (tile : Nat) (ejd : BitVec 4) (rfx : BitVec 3) (flits : List FlitBits) : Laws.RoundTrip.Statement (.tokenEject tile ejd rfx flits) := roundTrip_event rfl
theorem Laws.RoundTrip.dynPacketHop (tile : Nat) : Laws.RoundTrip.Statement (.dynPacketHop tile) := roundTrip_event rfl
theorem Laws.RoundTrip.dynPacketDeliver (tile : Nat) (p : Packet) : Laws.RoundTrip.Statement (.dynPacketDeliver tile p) := roundTrip_event rfl
theorem Laws.RoundTrip.ticketRequest (rx ry : Nat) (q : Req) : Laws.RoundTrip.Statement (.ticketRequest rx ry q) := roundTrip_event rfl
theorem Laws.RoundTrip.berthOfferArrive (core : CoreRef) (region : Word) (view : Bool) : Laws.RoundTrip.Statement (.berthOfferArrive core region view) := roundTrip_event rfl
theorem Laws.RoundTrip.btakeTimeout (core : CoreRef) : Laws.RoundTrip.Statement (.btakeTimeout core) := roundTrip_event rfl
theorem Laws.RoundTrip.portFetch (core : CoreRef) (p : PReg) : Laws.RoundTrip.Statement (.portFetch core p) := roundTrip_event rfl
theorem Laws.RoundTrip.waitvExpire (core : CoreRef) : Laws.RoundTrip.Statement (.waitvExpire core) := roundTrip_event rfl
theorem Laws.RoundTrip.slwaitProceed (core : CoreRef) : Laws.RoundTrip.Statement (.slwaitProceed core) := roundTrip_event rfl
theorem Laws.RoundTrip.phaseWake (core : CoreRef) : Laws.RoundTrip.Statement (.phaseWake core) := roundTrip_event rfl
theorem Laws.RoundTrip.waitiWake (core : CoreRef) : Laws.RoundTrip.Statement (.waitiWake core) := roundTrip_event rfl
theorem Laws.RoundTrip.tdrecvWake (core : CoreRef) : Laws.RoundTrip.Statement (.tdrecvWake core) := roundTrip_event rfl
theorem Laws.RoundTrip.tserveWake (w : TicketWait) : Laws.RoundTrip.Statement (.tserveWake w) := roundTrip_event rfl
theorem Laws.RoundTrip.fenceRelease (core : CoreRef) : Laws.RoundTrip.Statement (.fenceRelease core) := roundTrip_event rfl
theorem Laws.RoundTrip.rfenceRelease (core : CoreRef) : Laws.RoundTrip.Statement (.rfenceRelease core) := roundTrip_event rfl
theorem Laws.RoundTrip.poundResetDone (pound : Nat) : Laws.RoundTrip.Statement (.poundResetDone pound) := roundTrip_event rfl
theorem Laws.RoundTrip.coreRailReturn (rx ry : Nat) : Laws.RoundTrip.Statement (.coreRailReturn rx ry) := roundTrip_event rfl
theorem Laws.RoundTrip.bindResponse (crew : BitVec 16) (modIdx : Nat) (status : BitVec 8) (result addr : Word) : Laws.RoundTrip.Statement (.bindResponse crew modIdx status result addr) := roundTrip_event rfl
theorem Laws.RoundTrip.allowChange (crew : BitVec 16) (modIdx : Nat) (allow : BitVec 16) : Laws.RoundTrip.Statement (.allowChange crew modIdx allow) := roundTrip_event rfl
theorem Laws.RoundTrip.frameSend (tl : Nat) : Laws.RoundTrip.Statement (.frameSend tl) := roundTrip_event rfl
theorem Laws.RoundTrip.resyncDone : Laws.RoundTrip.Statement .resyncDone := roundTrip_event rfl
theorem Laws.RoundTrip.powerEnable : Laws.RoundTrip.Statement .powerEnable := roundTrip_event rfl
theorem Laws.RoundTrip.powerSequenceStep : Laws.RoundTrip.Statement .powerSequenceStep := roundTrip_event rfl
theorem Laws.RoundTrip.greetingPhase : Laws.RoundTrip.Statement .greetingPhase := roundTrip_event rfl
theorem Laws.RoundTrip.powerDisable : Laws.RoundTrip.Statement .powerDisable := roundTrip_event rfl
theorem Laws.RoundTrip.regradeDone : Laws.RoundTrip.Statement .regradeDone := roundTrip_event rfl
theorem Laws.RoundTrip.timeCheckPulse : Laws.RoundTrip.Statement .timeCheckPulse := roundTrip_event rfl
theorem Laws.RoundTrip.referenceLoss : Laws.RoundTrip.Statement .referenceLoss := roundTrip_event rfl
theorem Laws.RoundTrip.schedulerPass : Laws.RoundTrip.Statement .schedulerPass := roundTrip_event rfl
theorem Laws.RoundTrip.ageTick : Laws.RoundTrip.Statement .ageTick := roundTrip_event rfl
theorem Laws.RoundTrip.nop  : Laws.RoundTrip.Statement (.nop) :=
  roundTrip_of rfl fun w => by
    rfl
theorem Laws.RoundTrip.halt  : Laws.RoundTrip.Statement (.halt) :=
  roundTrip_of rfl fun w => by
    rfl
theorem Laws.RoundTrip.markp  : Laws.RoundTrip.Statement (.markp) :=
  roundTrip_of rfl fun w => by
    rfl
theorem Laws.RoundTrip.eret  : Laws.RoundTrip.Statement (.eret) :=
  roundTrip_of rfl fun w => by
    rfl
theorem Laws.RoundTrip.waiti  : Laws.RoundTrip.Statement (.waiti) :=
  roundTrip_of rfl fun w => by
    rfl
theorem Laws.RoundTrip.fence  : Laws.RoundTrip.Statement (.fence) :=
  roundTrip_of rfl fun w => by
    rfl
theorem Laws.RoundTrip.mdcfgClr  : Laws.RoundTrip.Statement (.mdcfgClr) :=
  roundTrip_of rfl fun w => by
    refine (show decodeOperands 0xB7 (joinX { sub := 2 }) = decodeM 0xb7 (joinX { sub := 2 }) from rfl).trans ?_
    unfold decodeM
    dsimp only
    simp_all [-BitVec.toNat_setWidth, accept, Instr.wf, withCode]
theorem Laws.RoundTrip.drift  : Laws.RoundTrip.Statement (.drift) :=
  roundTrip_of rfl fun w => by
    rfl
theorem Laws.RoundTrip.rfence  : Laws.RoundTrip.Statement (.rfence) :=
  roundTrip_of rfl fun w => by
    rfl
theorem Laws.RoundTrip.submit (port off : Nat) (data : List Byte) : Laws.RoundTrip.Statement (.submit port off data) := roundTrip_event rfl
theorem Laws.RoundTrip.cqheadWrite (port off : Nat) (val : Word) : Laws.RoundTrip.Statement (.cqheadWrite port off val) := roundTrip_event rfl
theorem Laws.RoundTrip.lhctlRestart (port : Nat) (val : Word) : Laws.RoundTrip.Statement (.lhctlRestart port val) := roundTrip_event rfl
theorem Laws.RoundTrip.lockhouseRestartDone (agree : Bool) : Laws.RoundTrip.Statement (.lockhouseRestartDone agree) := roundTrip_event rfl
theorem Laws.RoundTrip.bar0Write (port off : Nat) (val : Word) : Laws.RoundTrip.Statement (.bar0Write port off val) := roundTrip_event rfl
theorem Laws.RoundTrip.identify (c : HostCmd) : Laws.RoundTrip.Statement (.identify c) := roundTrip_event rfl
theorem Laws.RoundTrip.createQueue (c : HostCmd) : Laws.RoundTrip.Statement (.createQueue c) := roundTrip_event rfl
theorem Laws.RoundTrip.deleteQueue (c : HostCmd) : Laws.RoundTrip.Statement (.deleteQueue c) := roundTrip_event rfl
theorem Laws.RoundTrip.queryQueue (c : HostCmd) : Laws.RoundTrip.Statement (.queryQueue c) := roundTrip_event rfl
theorem Laws.RoundTrip.aspaceCreate (c : HostCmd) : Laws.RoundTrip.Statement (.aspaceCreate c) := roundTrip_event rfl
theorem Laws.RoundTrip.aspaceDestroy (c : HostCmd) : Laws.RoundTrip.Statement (.aspaceDestroy c) := roundTrip_event rfl
theorem Laws.RoundTrip.mapPages (c : HostCmd) : Laws.RoundTrip.Statement (.mapPages c) := roundTrip_event rfl
theorem Laws.RoundTrip.unmapPages (c : HostCmd) : Laws.RoundTrip.Statement (.unmapPages c) := roundTrip_event rfl
theorem Laws.RoundTrip.copyIn (c : HostCmd) : Laws.RoundTrip.Statement (.copyIn c) := roundTrip_event rfl
theorem Laws.RoundTrip.copyOut (c : HostCmd) : Laws.RoundTrip.Statement (.copyOut c) := roundTrip_event rfl
theorem Laws.RoundTrip.launch (c : HostCmd) : Laws.RoundTrip.Statement (.launch c) := roundTrip_event rfl
theorem Laws.RoundTrip.kill (c : HostCmd) : Laws.RoundTrip.Statement (.kill c) := roundTrip_event rfl
theorem Laws.RoundTrip.draw (c : HostCmd) : Laws.RoundTrip.Statement (.draw c) := roundTrip_event rfl
theorem Laws.RoundTrip.resume (c : HostCmd) : Laws.RoundTrip.Statement (.resume c) := roundTrip_event rfl
theorem Laws.RoundTrip.discard (c : HostCmd) : Laws.RoundTrip.Statement (.discard c) := roundTrip_event rfl
theorem Laws.RoundTrip.crewStatus (c : HostCmd) : Laws.RoundTrip.Statement (.crewStatus c) := roundTrip_event rfl
theorem Laws.RoundTrip.calibrate (c : HostCmd) : Laws.RoundTrip.Statement (.calibrate c) := roundTrip_event rfl
theorem Laws.RoundTrip.route (c : HostCmd) : Laws.RoundTrip.Statement (.route c) := roundTrip_event rfl
theorem Laws.RoundTrip.poundDefine (c : HostCmd) : Laws.RoundTrip.Statement (.poundDefine c) := roundTrip_event rfl
theorem Laws.RoundTrip.poundFence (c : HostCmd) : Laws.RoundTrip.Statement (.poundFence c) := roundTrip_event rfl
theorem Laws.RoundTrip.poundReset (c : HostCmd) : Laws.RoundTrip.Statement (.poundReset c) := roundTrip_event rfl
theorem Laws.RoundTrip.poundRelease (c : HostCmd) : Laws.RoundTrip.Statement (.poundRelease c) := roundTrip_event rfl
theorem Laws.RoundTrip.power (c : HostCmd) : Laws.RoundTrip.Statement (.power c) := roundTrip_event rfl
theorem Laws.RoundTrip.readLog (c : HostCmd) : Laws.RoundTrip.Statement (.readLog c) := roundTrip_event rfl
theorem Laws.RoundTrip.attest (c : HostCmd) : Laws.RoundTrip.Statement (.attest c) := roundTrip_event rfl
theorem Laws.RoundTrip.fwStage (c : HostCmd) : Laws.RoundTrip.Statement (.fwStage c) := roundTrip_event rfl
theorem Laws.RoundTrip.events (c : HostCmd) : Laws.RoundTrip.Statement (.events c) := roundTrip_event rfl
theorem Laws.RoundTrip.hello (tile : Nat) (edge : EdgeWire) (code : BitVec 3) : Laws.RoundTrip.Statement (.hello tile edge code) := roundTrip_event rfl
theorem Laws.RoundTrip.resetPulse (cycles : Nat) : Laws.RoundTrip.Statement (.resetPulse cycles) := roundTrip_event rfl
theorem Laws.RoundTrip.thermalWarning (x : Sensor) : Laws.RoundTrip.Statement (.thermalWarning x) := roundTrip_event rfl
theorem Laws.RoundTrip.thermalLimit (x : Sensor) : Laws.RoundTrip.Statement (.thermalLimit x) := roundTrip_event rfl
theorem Laws.RoundTrip.thermalTrip (x : Sensor) : Laws.RoundTrip.Statement (.thermalTrip x) := roundTrip_event rfl
theorem Laws.RoundTrip.powerWarning (mean : Nat) : Laws.RoundTrip.Statement (.powerWarning mean) := roundTrip_event rfl
theorem Laws.RoundTrip.powerLimit (mean : Nat) : Laws.RoundTrip.Statement (.powerLimit mean) := roundTrip_event rfl
theorem Laws.RoundTrip.powerLimitRelease (mean : Nat) : Laws.RoundTrip.Statement (.powerLimitRelease mean) := roundTrip_event rfl
theorem Laws.RoundTrip.voltageReplan (rx ry : Nat) (slackPs : Nat) : Laws.RoundTrip.Statement (.voltageReplan rx ry slackPs) := roundTrip_event rfl
theorem Laws.RoundTrip.coreRailLoss (rx ry : Nat) : Laws.RoundTrip.Statement (.coreRailLoss rx ry) := roundTrip_event rfl
theorem Laws.RoundTrip.transitRailLoss (rx ry : Nat) : Laws.RoundTrip.Statement (.transitRailLoss rx ry) := roundTrip_event rfl
theorem Laws.RoundTrip.transitConverterLoss (rx ry : Nat) (second : Bool) : Laws.RoundTrip.Statement (.transitConverterLoss rx ry second) := roundTrip_event rfl
theorem Laws.RoundTrip.laserFailover (laser : Nat) : Laws.RoundTrip.Statement (.laserFailover laser) := roundTrip_event rfl
theorem Laws.RoundTrip.frameReceive (tl : Nat) (fr : Frame) (bad : Bool) : Laws.RoundTrip.Statement (.frameReceive tl fr bad) := roundTrip_event rfl
theorem Laws.RoundTrip.scrubRead (tile : Nat) (addr : Nat) (found : StoreErr) : Laws.RoundTrip.Statement (.scrubRead tile addr found) := roundTrip_event rfl
theorem Laws.RoundTrip.weakLane (d : TowDir) (lane : Nat) : Laws.RoundTrip.Statement (.weakLane d lane) := roundTrip_event rfl
theorem Laws.RoundTrip.laneSignalLoss (d : TowDir) (lane : Nat) : Laws.RoundTrip.Statement (.laneSignalLoss d lane) := roundTrip_event rfl
end Sys2Proof
end

