-- ==== Sys2Proof/Tests/Slice0.lean ====
section
/-! SUPPORT. Tests: words of the spec's tables decoded, an ill-formed term for each check of WellFormed, small runs of one step against values the
spec works out, and for every statement with hypotheses states that meet them (`met_…`). -/

set_option linter.unusedVariables false
set_option Elab.async false

open Sys2Proof Sys2Proof.Machine

namespace Sys2Proof.Tests

/-! ### Decoding: words of the spec's tables of worked encodings -/

/-- The word decodes to this instruction, unlinked, with this defer count. -/
abbrev Reads (w : Word) (i : Instr) (defer : BitVec 3 := 0) (link : Bool := false) : Prop := decodeWord w = .ok { link := link, defer := defer, instr := i }
/-- The decoder refuses the word. -/
abbrev Refused (w : Word) : Prop := decodeTableWord 64 w.toNat = none

/-- spec 12, A worked image. -/
theorem test_decode_image : Reads 0x8433800000010000 (.li 7 0x10000) 0 true ∧ Reads 0x22241C00FFFFFFF0 (.addi 8 7 (-16)) 2 ∧ Reads 0x0090000000000000 .halt
    ∧ Reads 0x0010000000000000 (.bra 0) ∧ Reads 0 .nop ∧ Reads 0x8000000000000000 .nop 0 true ∧ Refused 0xFFFFFFFFFFFFFFFF := by decide +kernel
/-- spec 13, Encodings, worked: the C and S columns. -/
theorem test_decode_control : Reads 0x020190A000000000 (.add 3 4 5) ∧ Reads 0x00C0300000000000 (.waitv 12 0) ∧ Reads 0x0110000000300002 (.slwait 3 2)
    ∧ Reads 0x0182800000000001 (.sysrd 5 1) ∧ Reads 0x0080000200000004 (.loops 2 0 4) ∧ Reads 0x0080000210000004 (.loops 2 1 4) := by decide +kernel
/-- spec 13, Encodings, worked: the L column. -/
theorem test_decode_memory : Reads 0x0504880002000040 (.ld 2 false 9 (.addr 2 0 0x40)) ∧ Reads 0x0504080803000000 (.ld 3 false 8 (.port 2))
    ∧ Reads 0x2514880003000000 (.st 3 9 (.addr 2 0 0)) 2 ∧ Reads 0x05B329600E000008 (.amo .cas false true 6 10 8 11) := by decide +kernel
/-- spec 14, Encodings, worked: the V column. -/
theorem test_decode_vector : Reads 0x0730886418000000 (.vfma .f false 3 1 2 3 4 0) ∧ Reads 0x07008400080D1FFD (.vadd .i true 1 1 1 (.imm (-3)) 0)
    ∧ Reads 0x07F014C022200000 (.vcmp .lt .f 0 2 5 (.reg 6) 1) ∧ Reads 0x0914A80000010000 (.vmovG 9 10 0) ∧ Reads 0x09539D0018000005 (.vpda 7 7 8 5)
    ∧ Reads 0x0975044360000004 (.vsample 0 10 1 2 3 4 3) := by decide +kernel
/-- spec 15, Encodings: the M and F columns. -/
theorem test_decode_matrix_feeder : Reads 0x0B12900070000000 (.mmul .k4 false 5 1 7) ∧ Reads 0x0B280600F4000000 (.mmulw .k8 true 0 0 3 15)
    ∧ Reads 0x8B32800000000000 (.marm 5) 0 true ∧ Reads 0x0B68008000010000 (.mdrainV true 8) ∧ Reads 0x0B70000001010000 (.mdcfgTok 1)
    ∧ Reads 0x0C8010A000000003 (.finj 4 5 3) ∧ Reads 0x0CA018E8013003FF (.fupd .axpy .fp32 6 7 8 0x3FF) := by decide +kernel
/-- spec 16, Encodings: the N column. -/
theorem test_decode_network : Reads 0x0D00100000000040 (.tsend 4 0x40) ∧ Reads 0x0D100C0000000000 (.tredV false 3) ∧ Reads 0x0D20100000300000 (.tej 3 4)
    ∧ Reads 0x0D3114C700000010 (.tdsend 2 5 6 7 16) ∧ Reads 0x0D62800001000000 (.timeV 5) ∧ Reads 0x0D70000000000000 .drift ∧ Reads 0x0D800000000003E8 (.holdrq 1000)
    ∧ Reads 0x0D90012000300000 (.berthW 3 9) ∧ Reads 0x0DB0000000300000 (.btakeW 3) ∧ Reads 0x0DF4280003000010 (.rld 3 false 8 10 16)
    ∧ Reads 0x0E13296008000000 (.ramo .add false true 6 10 11 0 0) ∧ Reads 0x0E20000000000000 .rfence := by decide +kernel
/-- SYSWR by R288 and R319: OP 0x19, SA in 46:42, the number in 11:0; a register with a rule of its own is a row of its own. -/
theorem test_decode_syswr : Reads 0x019014000000000C (.syswr 0x00C 5) ∧ Reads 0x019014000000000B (.cvmodeWrite 5) ∧ Reads 0x01901400000000C3 (.windescWrite 3 5)
    ∧ Reads 0x01901400000003FF (.rtabWrite 0x1FF 5) := by decide +kernel
/-- Words the spec's tables call refused: BRA with D set (R285), NOP with an operand bit (R283), VADD.f with .s (R345), VPDA with FOLD 0 (R366), VSAMPLE with
65 (R368), VCVT with source 9 (R352), MMUL with KG 3 (R372), TDSEND with 65 (R400), BTAKE with SUB 4 (R407), TIME with SUB 3 (R403), FUPD with SUB 6 (R388),
HOLDRQ with 0 (R405). -/
theorem test_decode_refused : Refused 0x1010000000000000 ∧ Refused 0x0000000000000001 ∧ Refused 0x0700840000040000 ∧ Refused 0x09539D0000000005
    ∧ Refused 0x0975044360000041 ∧ Refused 0x0810840000090000 ∧ Refused 0x0B1290007C000000 ∧ Refused 0x0D3114C700000041 ∧ Refused 0x0DB0000004000000
    ∧ Refused 0x0D62800003000000 ∧ Refused 0x0CA018E8063003FF ∧ Refused 0x0D80000000000000 := by decide +kernel

/-! ### WellFormed refuses an ill-formed term of each kind -/

theorem test_wf_refuses_operands : ∀ i ∈ [Instr.syswr 0x00B 1, .syswr 0x020 1, .sysrd 1 0x020, .loop 0 5, .loops 1 10 5, .slpost 3 0, .extb true 1 2 60 10, .insb 1 2 60 10,
    .kop .not 1 2 3, .ld 3 true 1 (.port 2), .amo .add true false 1 2 3 4, .rld 3 true 1 2 3, .ramo .add false true 1 2 3 4 5, .ramo .swap true true 1 2 3 0 5,
    .tdsend 1 2 3 4 65, .holdrq 0], i.wf = false := by decide +kernel
theorem test_wf_refuses_vector : ∀ i ∈ [Instr.vadd .f true 0 1 2 (.reg 3) 0, .vadd .f false 0 1 2 (.imm 3) 0, .vsub .f true 0 1 2 (.reg 3) 0, .vmul .f false 0 1 2 (.imm 3) 0,
    .vfma .f true 0 1 2 3 4 0, .vfms .f true 0 1 2 3 4 0, .vmin .f 0 1 2 (.imm 3) 0, .vmax .f 0 1 2 (.imm 3) 0, .vabs .u false 0 1 2 0, .vneg .f true 0 1 2 0,
    .vcmp .lt .f 0 1 2 (.imm 3) 0, .vredadd .f true 0 1 2 0, .vscan .max .i true 0 1 2 0, .vscan .add .f true 0 1 2 0, .vsample 0 1 2 3 4 65 0,
    .mmul .k8 false 0 1 32, .mmulw .k8 false 0 1 1 3, .mdrainV false 29, .mldz false 29, .mstz 29 false], i.wf = false := by decide +kernel
/-- The coordinates, units and ports an event may name. -/
theorem test_wf_refuses_units : (Instr.submit 4 0 []).wf = false ∧ (Instr.cqheadWrite 4 0 0).wf = false ∧ (Instr.frameSend 64).wf = false ∧ (Instr.laserFailover 4).wf = false
    ∧ (Instr.voltageReplan 8 0 0).wf = false ∧ (Instr.thermalTrip (.reach 0 6 0)).wf = false ∧ (Instr.thermalTrip (.reach 0 0 4)).wf = false
    ∧ (Instr.thermalTrip (.stack 64)).wf = false ∧ (Instr.thermalTrip (.feederDie 64)).wf = false ∧ (Instr.weightReadData 64 0).wf = false
    ∧ (Instr.waitiWake (.tile 47616 true)).wf = false ∧ (Instr.waitiWake (.feeder 0 4)).wf = false ∧ (Instr.poundResetDone 16).wf = false
    ∧ (Instr.staticFlitHop 47616).wf = false ∧ (Instr.pageWalkDone (.feeder 64) 0 0).wf = false ∧ (Instr.pageWalkDone (.towline 64) 0 0).wf = false := by decide +kernel

/-! ### States the witnesses use: a small crew on tiles 10 and 11 and feeder 2 -/

def core0 : Core := { run := .running, timed := true, g := Vector.ofFn fun i : Fin 32 => BitVec.ofNat 64 (i.val * 1000 + 7) }
def tile0 : Tile := { slot := some 3, crew := 0x21, asid := 5, worker := core0, stager := { core0 with timed := false } }
def slot0 : Slot := { rec_ := { crew := 0x21, asid := 5, state := .running, horizon := 100, sellat := 20, start := 40 }, run := { vcyc := 500, live := true }, tiles := [10, 11], feeders := [2],
                      width := 2, height := 1, allows := [(0, 1000)] }
def base (x : Slot := slot0) : State := { State.reset with
  time := 1000, tiles := [(10, tile0), (11, tile0)], feeders := [(2, { slot := some 3, crew := 0x21, asid := 5, cores := Vector.replicate 4 core0 })],
  actor := .tile 10 true, checked := true, pwr := { pwrEn := true, pgood := true, step := 6, greeting := 2 }
  lh := { State.reset.lh with phase := .triplex, slots := [(3, x)], aspaces := [(5, 0)] } }
/-- A window over the whole tile store, readable and writable in user mode. -/
def wind (fmt : BitVec 4) (h : BitVec 5) : WinDesc :=
  (0 : BitVec 64) ++ (h ++ (0 : BitVec 1) ++ fmt ++ (0 : BitVec 2) ++ (64 : BitVec 12) ++ (7 : BitVec 3) ++ (0x7FF : BitVec 11) ++ (0 : BitVec 26))
/-- The worker of tile 10, every window 0 to 3 the whole store, its own. -/
def st : State := (base).modTile 10 fun t => { t with windesc := (((t.windesc.set 0 (wind 0 2)).set 1 (wind 5 0)).set 2 (wind 4 4)).set 3 (wind 7 0) }
def free (s : State := st) : State := s.modMe fun c => { c with timed := false }
def withG (r : Fin 32) (v : Word) (s : State := st) : State := s.modMe fun c => { c with g := c.g.set r v }
/-- A towline in service to the module of flight number 0, and one to that of 3. -/
def linked (s : State := base) : State := { s with towlines := [(3, { up := true, peer := 0 }), (5, { up := true, peer := 3 })] }
/-- A member of a crew whose anchor lies elsewhere, and an anchor whose crew has a module elsewhere. -/
def member0 (x : Slot := slot0) : Slot := { x with modIdx := 1, modules := 2 }
def anchor0 (x : Slot := slot0) : Slot := { x with modules := 2, rec_ := { x.rec_ with mods := 9 } }
def withRun (f : CrewRun → CrewRun) : State := base { slot0 with run := f slot0.run }
def worker : CoreRef := .tile 10 true
/-- An answer is a next state of which a test holds. -/
def ck (x : Result) (p : State → Bool := fun _ => true) : Bool := match x with | .next u => p u | _ => false
theorem ck_next {x : Result} {p : State → Bool} (h : ck x p = true) : ∃ t, x = .next t ∧ p t = true := by
  cases x <;> simp_all [ck]

/-! ### One step against values the spec works out -/

/-- spec 13: LI g4, 0x2_0000_0000, then LIH g4, 0x3F_FFFF gives 0xFFFF_FC02_0000_0000. -/
theorem test_li_lih : ck (exec (.li 4 0x200000000) st) (fun u => u.me.writes == [⟨1, 0, .g 4 0x200000000⟩])
    ∧ ck (exec (.lih 4 0x3FFFFF) (withG 4 0x200000000)) (fun u => u.me.writes == [⟨1, 0, .g 4 0xFFFFFC0200000000⟩]) := by decide +kernel
/-- spec 11, R270's example: the draw of row 0, column 3 under keys of 0 and a write count of 0 is 0x60E6. -/
theorem test_draw : drawOf 0 3 0 0 0 = 0x60E6 := by decide +kernel
/-- spec 11, R260's examples: DM8 0xB5 is −0.40625 and 0x4B is 768. -/
theorem test_dm8 : rneF32 ((cvtFmt .dm8).decode 0xB5) = (0xBED00000, 0) ∧ rneF32 ((cvtFmt .dm8).decode 0x4B) = (0x44400000, 0) := by decide +kernel
/-- spec 14: 200.0 under CVMODE.SAT converts to dm8 0x5E, to i8 0x7F with SAT, and to u8 0xC8. -/
theorem test_vcvt : let s := (st.modMe fun c => { c with cvmode := 8 }).modTile 10 fun t => { t with v := t.v.set 1 (Vector.replicate 64 0x43480000) }
    let lane (x : Result) (v : BitVec 32) (f : BitVec 7) : Bool := ck x fun u => (u.me.writes.any fun w => match w.wr with | .v 2 _ y => y[0] == v | _ => false)
      && (f == 0 || u.me.writes.any fun w => w.wr == .flags f)
    lane (exec (.vcvt .dm8 .fp32 0 2 1 0) s) 0x5E 0 ∧ lane (exec (.vcvt .i8 .fp32 0 2 1 0) s) 0x7F 0x20 ∧ lane (exec (.vcvt .u8 .fp32 0 2 1 0) s) 0xC8 0 := by decide +kernel
/-- spec 14: eight candidates, VSAMPLE with TOPK 4 picks token 101 at lane 1, with S and t as worked out. -/
theorem test_vsample : let v (l : List (BitVec 32)) : VReg := Vector.ofFn fun i => l.getD i.val 0
    let s := (st.modMe fun c => { c with srkey := 3, k := c.k.set 3 0x7F }).modTile 10 fun t => { t with
      v := ((t.v.set 1 (v [0x40000000, 0x40000000, 0xFF800000, 0x40000000, 0x7FC00000, 0x40000000, 0x3F800000, 0x40000000])).set 2
        (v [100, 101, 102, 103, 104, 105, 106, 107])).set 3 (v [0x3F800000, 0, 0]) }
    ck (exec (.vsample 0 10 1 2 3 4 3) s) fun u => u.me.writes.any fun w => match w.wr with
      | .v 10 _ y => w.due == 24 && y.toList.take 8 == [101, 1, 0x04000000, 0x01839852, 0, 0, 0, 0] | _ => false := by decide +kernel
/-- spec 12, the worked image: ADDI g8, g7, −16 on g7 = 0x1_0000 puts 0xFFF0 under way. -/
theorem test_addi : ck (exec (.addi 8 7 (-16)) (withG 7 0x10000)) fun u => u.me.writes == [⟨1, 0, .g 8 0xFFF0⟩] := by decide +kernel
/-- R309: LOOP with count 1 writes 0 and falls through; with 2 it branches. -/
theorem test_loop : ck (exec (.loop 3 5) (withG 3 1)) (fun u => u.me.branch == none && u.me.writes == [⟨1, 0, .g 3 0⟩])
    ∧ ck (exec (.loop 3 5) (withG 3 2)) (fun u => u.me.branch == some ⟨5, 2⟩ && u.me.writes == [⟨1, 0, .g 3 1⟩]) := by decide +kernel
/-- R322: division by zero gives all ones and DZ; the overflowing quotient wraps. -/
theorem test_div : ck (exec (.div 3 4 5) (withG 5 0)) (fun u => u.me.writes == [⟨18, 0, .g 3 (-1)⟩, ⟨18, 0, .flags 8⟩])
    ∧ ck (exec (.div 3 4 5) (withG 5 (-1) (withG 4 0x8000000000000000))) (fun u => u.me.writes == [⟨18, 0, .g 3 0x8000000000000000⟩]) := by decide +kernel
/-- LI g7, 0x1_0000 placed where the machine fetches: one step issues it, and its result is under way. -/
theorem test_placed_word_steps : ck (step (State.reset.withFetchWord 64 0x0433800000010000)) (fun u => (u.core (.tile 0 true)).writes == [⟨1, 0, .g 7 0x10000⟩]) := by decide +kernel
/-- R305: two delay bundles, then the target. -/
theorem test_branch : ((({} : Core).branchTo 9).pass 1).pc = 1 ∧ (((({} : Core).branchTo 9).pass 1).pass 2).pc = 9 := by decide +kernel

/-! ### Witnesses: states and operands that meet the hypotheses of each statement, a conjunct for each clause -/

theorem met_StepKeepsMemoryForm : Memory.wf State.reset.mem = true ∧ ∃ t, step State.reset = .next t := ⟨by decide +kernel, _, rfl⟩
theorem met_DecodeOfEncodeIsTheInstruction : (Instr.addi 8 7 (-16)).wf = true ∧ ((Instr.addi 8 7 (-16)).isControlWord = true → (2 : BitVec 3) = 0)
    ∧ encode false 2 (.addi 8 7 (-16)) = some 0x22241C00FFFFFFF0 ∧ (Instr.halt).isControlWord = true ∧ encode false 0 .halt = some 0x0090000000000000 := by decide +kernel
theorem met_EncodeOfDecodeIsTheWord : decodeWord 0x22241C00FFFFFFF0 = .ok { link := false, defer := 2, instr := .addi 8 7 (-16) } := by decide +kernel
theorem met_FetchReadsTheCoresMemory : st.CodeSettled worker ∧ st.pendingStores worker = [] ∧ 8 * 65535 + 8 ≤ Config.storeSize ∧ st.windowAt worker (8 * 65535) = some (0, wind 0 2)
    ∧ (wind 0 2).has (8 * 65535 + 7) = true ∧ (wind 0 2).ur = true ∧ st.poisonedAt worker ((List.range 8).map (8 * 65535 + ·)) = none :=
  ⟨rfl, rfl, by decide, by decide +kernel, by decide +kernel, by decide +kernel, by decide +kernel⟩

/-- The hypotheses of StepRunsDecodedWord, of the word placed at the start; `p` holds of what the word's meaning answers. -/
def issues (timed : Bool) (w : Word) (i : Instr) (d : BitVec 3) (p : State → Bool) : Bool :=
  let r : CoreRef := .tile 0 true
  let s := (State.reset.withFetchWord 64 w.toNat).modCore r fun c => { c with timed := timed, keeper := false, keeperEntry := some 5 }
  let c := s.core r
  let ws : List BWord := [⟨8 * c.pc.toNat, w⟩]
  s.inputs.isEmpty && s.nextCommand.isNone && s.work == [.coreIssue r] && !c.stands && c.run == .running && c.hush == 0 && c.traps.isEmpty && c.waits.isEmpty && c.visit.isNone
    && match ({ s with work := [] } : State).fetchWord r c.pc.toNat with
      | .ok (x, s1) => x == w && !(s1.core r).pends ws && (s1.bundleFault r ws).isNone
          && (i == .nop || d != 0 || ck (exec i ((s1.modCore r (·.begun ws [{ due := d.toNat, seq := (s1.core r).issued, addr := 8 * c.pc.toNat, instr := i }])).prepared r
            { due := d.toNat, seq := (s1.core r).issued, addr := 8 * c.pc.toNat, instr := i })) p)
      | .error _ => false
theorem met_StepRunsDecodedWord : issues true 0x0433800000010000 (.li 7 0x10000) 0 (fun t => !(t.core (.tile 0 true)).stands && (t.core (.tile 0 true)).trapped == none) = true
    ∧ issues false 0x0DF4280003000011 (.rld 3 false 8 10 17) 0 (fun t => (t.core (.tile 0 true)).trapped.isSome && trapsAfter (.rld 3 false 8 10 17) == false) = true
    ∧ issues true 0x22241C00FFFFFFF0 (.addi 8 7 (-16)) 2 (fun _ => true) = true ∧ issues true 0 .nop 0 (fun _ => true) = true := by decide +kernel
def op0 : Op := { due := 0, seq := 4, addr := 8, instr := .add 3 1 2 }
def due0 : State := { st.modCore worker fun c => { c with ops := [op0] } with work := [.coreEnter worker] }
theorem met_StepRunsEntriesInputsAndEvents : ({ st with inputs := [.powerEnable] } : State).inputs = [.powerEnable]
    ∧ ({ st with work := [.ev .ageTick] } : State).nextCommand = none ∧ due0.inputs = [] ∧ due0.nextCommand = none ∧ (due0.core worker).stands = false
    ∧ (due0.core worker).visit = none ∧ oldest ((due0.core worker).ops.filter (·.due == 0)) = some op0
    ∧ ∃ t, exec op0.instr (({ ({ due0 with work := [] } : State).modCore worker (fun c => { c with ops := c.ops.erase op0 }) with work := [.coreEnter worker] } : State).prepared
        worker op0) = .next t ∧ true = true :=
  ⟨rfl, by decide +kernel, by decide +kernel, by decide +kernel, by decide +kernel, by decide +kernel, by decide +kernel, ck_next (p := fun _ => true) (by decide +kernel)⟩
def landing : State := st.modCore worker fun c => { c with writes := [⟨1, 0, .g 5 7⟩, ⟨1, 1, .g 5 9⟩, ⟨2, 2, .g 6 1⟩, ⟨1, 3, .k 2 0xF0 0xAA⟩, ⟨1, 4, .flags 4⟩, ⟨1, 5, .v 31 3 (Vector.replicate 64 1)⟩] }
theorem met_ScalarResultsLand : (landing.core worker).stands = false ∧ (∀ w ∈ (landing.core worker).writes, w.due ≤ 1 → ¬ writesG 7 w.wr)
    ∧ (landing.core worker).writes = [⟨1, 0, .g 5 7⟩] ++ ⟨1, 1, .g 5 9⟩ :: [⟨2, 2, .g 6 1⟩, ⟨1, 3, .k 2 0xF0 0xAA⟩, ⟨1, 4, .flags 4⟩, ⟨1, 5, .v 31 3 (Vector.replicate 64 1)⟩]
    ∧ (∀ x ∈ ([⟨2, 2, .g 6 1⟩, ⟨1, 3, .k 2 0xF0 0xAA⟩, ⟨1, 4, .flags 4⟩, ⟨1, 5, .v 31 3 (Vector.replicate 64 1)⟩] : List PendWr), x.due ≤ 1 → ¬ writesG 5 x.wr)
    ∧ ((st.modCore worker fun c => { c with stand := 2 }).core worker).stands = true := by
  refine ⟨by decide +kernel, ?_, rfl, ?_, by decide +kernel⟩ <;> intro w hw <;> fin_cases hw <;> simp [writesG]
def storing : State := st.modTile 10 fun t => { t with stores := [{ due := 1, owner := some true, bytes := [(524287, 9), (8, 1)], bad := [] }] }
theorem met_OtherResultsAndStoresLand : (⟨1, 3, .k 2 0xF0 0xAA⟩ : PendWr) ∈ (landing.core worker).writes ∧ (⟨1, 5, .v 31 3 (Vector.replicate 64 1)⟩ : PendWr) ∈ (landing.core worker).writes
    ∧ (∀ x ∈ (landing.core worker).writes, x.due ≤ 1 → ∀ m u, x.wr = .k 2 m u → m = 0xF0 ∧ u = 0xAA) ∧ (∀ y ∈ (landing.core worker).writes, y.due ≤ 1 → ∀ v, y.wr ≠ .sys 0x00A v)
    ∧ (∀ y ∈ (landing.core worker).writes, y.due ≤ 1 → (∀ m u, y.wr = .v 31 m u → m = 3 ∧ u = Vector.replicate 64 1) ∧ ∀ m u, y.wr ≠ .vAcc 31 m u)
    ∧ (∀ y ∈ (landing.core worker).writes, y.due ≤ 1 → (∀ m u, y.wr ≠ .v 3 m u) ∧ ∀ m u, y.wr ≠ .vAcc 3 m u)
    ∧ Memory.wf storing.mem = true ∧ (storing.core worker).stands = false ∧ (storing.tile 10).stores = [{ due := 1, owner := some true, bytes := [(524287, 9), (8, 1)], bad := [] }]
    ∧ (([(524287, 9), (8, 1)] : List (Nat × Byte)).map (·.1)).Nodup := by
  have h : (landing.core worker).writes = [⟨1, 0, .g 5 7⟩, ⟨1, 1, .g 5 9⟩, ⟨2, 2, .g 6 1⟩, ⟨1, 3, .k 2 0xF0 0xAA⟩, ⟨1, 4, .flags 4⟩, ⟨1, 5, .v 31 3 (Vector.replicate 64 1)⟩] := rfl
  rw [h]
  refine ⟨by simp, by simp, ?_, ?_, ?_, ?_, by decide +kernel, by decide +kernel, rfl, by decide⟩ <;> intro w hw <;> fin_cases hw <;> simp
theorem met_NothingChangesAtOnce : (∃ t, exec (.add 3 1 2) st = .next t ∧ true = true) ∧ column (.add 3 1 2) = some .s ∧ column (.bra 0) = some .c
    ∧ (∃ t, exec (.st 3 5 (.addr 0 0 0)) (withG 0 0) = .next t ∧ true = true) ∧ column (.st 3 5 (.addr 0 0 0)) = some .l ∧ column (.vmov 0 1 2 0) = some .v ∧ column (.mzero true) = some .m :=
  ⟨ck_next (p := fun _ => true) (by decide +kernel), rfl, rfl, ck_next (p := fun _ => true) (by decide +kernel), rfl, rfl, rfl⟩
def unchecked (s : State := st) : State := { s with checked := false }
def onFeeder (s : State := st) : State := { s with actor := .feeder 2 3 }
def onStager (s : State := st) : State := { s with actor := .tile 10 false }
theorem met_RefusedWordsAndPrivilege : (unchecked).wordFault worker (.loop 0 5) = some (0x01, 0) ∧ column (.loop 0 5) = some .c ∧ (Instr.loop 0 5).wf = false
    ∧ column (.vmov 0 1 2 0) = some .v ∧ (unchecked onStager).actor.isWorker = false ∧ column (.mzero true) = some .m ∧ column (.finj 1 2 3) = some .f
    ∧ (unchecked).actor.isFeeder = false := by decide +kernel
/-- In user mode each takes PRIV, and in keeper mode enters (R190): registers 7 and 9 are the first and last that no user reads. -/
theorem met_RefusedWordsAndPrivilege_mode : (∀ i ∈ [Instr.sysrd 3 7, .sysrd 3 9, .syswr 0x006 3, .syswr 0x107 3, .windescWrite 0 3, .windescWrite 31 3, .tapcfgWrite 7 3, .arrmapWrite 7 3, .ejdescWrite 15 3,
      .rfmtWrite 7 3, .rtabWrite 511 3, .votelogClear 3, .eret, .waiti, .trtab 255 3 4, .sysrd 3 6, .sysrd 3 10, .syswr 0x00C 3, .syswr 0x108 3, .syswr 0x10B 3, .fflagsWrite 3, .cvmodeWrite 3,
      .ejflagsClear 3], i = .syswr 0x107 3 ∨ i.wf = true ∧ (unchecked free).illegal worker i = false)
    ∧ ((unchecked onFeeder).illegal (.feeder 2 3) (.fgrp 3 255) = false ∧ (Instr.fgrp 3 255).wf = true)
    ∧ (unchecked).me.keeper = false ∧ ((unchecked).modMe fun c => { c with keeper := true }).me.keeper = true := by decide +kernel
theorem met_TrapsAndCrewFaults : let s := (unchecked free).modMe fun c => { c with keeperEntry := some 0x55, ie := true, branch := some ⟨9, 1⟩ }
    s.wordFault s.actor (.loop 0 5) = some (0x01, 0) ∧ s.me.timed = false ∧ s.me.keeper = false ∧ s.me.keeperEntry = some 0x55 ∧ (s.lh.log.filter (·.unread)).length < 1024
    ∧ (unchecked).me.timed = true ∧ (unchecked).slotOf worker = some 3 ∧ ((unchecked).slot 3).modIdx = 0 ∧ ((unchecked (base { slot0 with modIdx := 1 })).slot 3).modIdx ≠ 0
    ∧ (unchecked (base { slot0 with modIdx := 1 })).slotOf worker = some 3 ∧ (linked (unchecked (base member0))).lineTo (slot0.rec_.crew.toNat / 2 ^ 11) = some 3 := by decide +kernel
theorem met_enters (i : Instr) : st.Enters i := .inl rfl
theorem met_EretRestoresTheState : let c : Core := { st.me with trapCause := { ds := 2 }, shadow := some ⟨77, 0⟩ }
    c.shadow = some ⟨77, 0⟩ ∧ c.trapCause.ds = 2 ∧ st.me.shadow = none := by decide +kernel
theorem met_DivisionResults : (withG 5 0).g 5 = 0 ∧ st.g 5 ≠ 0 := by decide +kernel
theorem met_ScalarAndVectorFrame : column (.add 3 1 2) = some .s ∧ column (.vmov 0 1 2 0) = some .v ∧ (∀ a b c d, Instr.vmov 0 1 2 0 ≠ .vpda a b c d)
    ∧ ∀ a b c d e, Instr.vmov 0 1 2 0 ≠ .vtmask a b c d e := ⟨rfl, rfl, nofun, nofun⟩
theorem met_SystemRegisterReads : st.tileOk 10 = true ∧ st.tileOk 47615 = true ∧ st.tileOk 47616 = false := by decide +kernel
theorem met_SystemRegisterWrites : ((withG 3 4).g 3).toNat % 8 < 5 := by decide +kernel
theorem met_SystemRegisterWrites_refused : 5 ≤ ((withG 3 5).g 3).toNat % 8 := by decide +kernel
theorem met_DelayedRegisterWrites :
    let lo := (wind 0 2).extractLsb' 0 64
    let bad (v : Word) : Bool := v.toNat / 2 ^ 18 % 2 ^ 13 == 0 || v.toNat % 32 != 0
    (base).windowRefused worker 2 (writeHalf ((base).nextWindow worker 2) false lo) = false ∧ st.windowRefused worker 15 (writeHalf (st.nextWindow worker 15) false 0xFFFFFFFFFFFFFFFF) = true
    ∧ tapRefused 0 = false ∧ tapRefused 0xFFFFFFFFFFFFFFFF = true ∧ mapRefused 0 = false ∧ mapRefused 0xFFFFFFFFFFFFFFFF = true ∧ bad 0x40000 = false ∧ bad 1 = true
    ∧ lo.toNat % 2 ^ 15 = 0 ∧ (0xFFFFFFFFFFFFFFFF : Word).toNat % 2 ^ 15 ≠ 0 ∧ (∀ j ∈ [0x0E0, 0x0E7, 0x0E8, 0x0EF], (st.tile 10).receives j = false)
    ∧ st.rtabRefused 10 0 = false ∧ st.rtabRefused 10 (0x80000000003FFFFC0000000000000000 &&& ~~~((0x7F : BitVec 128) <<< 120)) = true := by decide +kernel
theorem met_LoopCountsDown : 2 ≤ ((withG 3 2).g 3).toNat ∧ ((withG 3 1).g 3).toNat < 2 ∧ (unchecked).checked = false := by decide +kernel
theorem met_BranchesAndTheirDelays : ((withG 3 (-1)).g 3).toInt < ((withG 3 (-1)).g 4).toInt ∧ ¬ ((withG 3 (-1)).g 3).toNat < ((withG 3 (-1)).g 4).toNat
    ∧ (st.me.port 3).flags.getLsbD 9 = false ∧ ((st.modMe fun c => c.setPort 3 { flags := 0x200 }).me.port 3).flags.getLsbD 9 = true := by decide +kernel
theorem met_BranchesAndTheirDelays_transfer : isTransfer .eret = true ∧ isTransfer (.bra 0) = true ∧ ((unchecked).modMe fun c => { c with delayDue := 1 }).me.delayDue ≠ 0
    ∧ ({} : Core).branch = none := by decide +kernel
theorem met_JumpsAndLinks : let s := withG 3 0x7FFF8
    (s.g 3).toNat % 8 = 0 ∧ (s.g 3).toNat < 2 ^ 19 ∧ s.CodeSettled s.actor ∧ s.BundleLen s.actor s.me.pc.toNat 1 ∧ s.BundleLen s.actor (s.me.pc.toNat + 1) 1
    ∧ (st.g 3).toNat % 8 ≠ 0 ∧ ((withG 3 0x80000).g 3).toNat % 8 = 0 ∧ 2 ^ 19 ≤ ((withG 3 0x80000).g 3).toNat := by
  refine ⟨by decide +kernel, by decide +kernel, rfl, ⟨by decide, by decide, ?_, .inr (by decide +kernel)⟩, ⟨by decide, by decide, ?_, .inr (by decide +kernel)⟩, by decide +kernel, by decide +kernel, by decide +kernel⟩ <;>
    (intro i hi; omega)
theorem met_TrapAndBreakTrap : let s := (free).modMe fun c => { c with keeperEntry := some 0x55 }
    s.me.timed = false ∧ s.me.keeper = false ∧ s.me.keeperEntry = some 0x55 ∧ st.me.timed = true ∧ (free).me.keeperEntry = none ∧ (st.lh.log.filter (·.unread)).length < 1024 := by
  decide +kernel
def halted : Core := { core0 with run := .halted }
def alone : State := { st with tiles := [(10, { tile0 with stager := halted }), (11, { tile0 with worker := halted, stager := { core0 with run := .idle } })],
                               feeders := [(2, { slot := some 3, crew := 0x21, asid := 5, cores := Vector.replicate 4 halted })] }
theorem met_StopsWaitsAndPhases : st.slotOf worker = some 3 ∧ .tile 10 false ∈ (st.slot 3).cores ∧ (st.core (.tile 10 false)).run = .running
    ∧ (st.slot 3).rec_.state = .running ∧ alone.slotOf worker = some 3 ∧ (∀ q ∈ (alone.slot 3).cores, q = worker ∨ (alone.core q).run = .halted ∨ (alone.core q).run = .idle)
    ∧ (free).me.timed = false ∧ ((free).modMe fun c => { c with reqs := [{ tag := 3, gaddr := 0, kind := .btake false, dst := none, sent := 4 }] }).me.reqs ≠ []
    ∧ (let d (v : Nat) := ((500 : Int) - v) % 2 ^ 48; (0 < d 499 ∧ d 499 < 2 ^ 47) ∧ ¬ (0 < d 500 ∧ d 500 < 2 ^ 47) ∧ ¬ (0 < d 501 ∧ d 501 < 2 ^ 47)) ∧ st.vcycOf worker = 500
    ∧ (st.slot 3).run.draw = none ∧ (st.slot 3).run.stopped = false ∧ (st.slot 3).run.marks = [] ∧ alone.timedMembers (alone.slot 3) = [worker, .tile 10 false, .tile 11 true] ++
        [.feeder 2 0, .feeder 2 1, .feeder 2 2, .feeder 2 3] := by decide +kernel
def phased : State := let s := base { slot0 with variants := [{ cls := 2, index := 4, bank := 1, length := 10, cap := [5, 5], est := 700 }], dmax := 9 }
  { s with tiles := (0, { tile0 with phase := Vector.replicate 4 [0x5] }) :: s.tiles }
theorem met_StopsWaitsAndPhases_size : phased.slotOf worker = some 3 ∧ (phased.slot 3).modIdx = 0 ∧ (phased.slot 3).run.sizes = [] ∧ (phased.slot 3).run.phases = []
    ∧ (phased.rowWord (phased.anchorTile (phased.slot 3))).getLsbD 0 = true ∧ (phased.rowWord (phased.anchorTile (phased.slot 3))).extractLsb' 1 3 = 2
    ∧ (phased.slot 3).variants.any (·.cls == 2) = true ∧ (st.core (.tile 10 false)).waits = [] ∧ ((free).modMe fun c => { c with partnerPhase := true }).me.partnerPhase = true
    ∧ st.me.partnerPhase = false ∧ ((base { slot0 with modIdx := 1 }).slot 3).modIdx ≠ 0 := by decide +kernel
/-- A lone timed core asks for a mark. -/
theorem met_StopsWaitsAndPhases_mark : let s := { alone with tiles := [(10, { tile0 with stager := { halted with timed := false } }), (11, { worker := { halted with timed := false }, stager := { halted with timed := false } })], feeders := [(2, { slot := some 3 })] }
    s.timedMembers (s.slot 3) = [s.actor] ∧ (s.slot 3).farMembers = [] ∧ (s.slot 3).run.marks = [] := by decide +kernel
def sluiced : State := st.modTile 10 fun t => { t with sluice := t.sluice.set 5 7, slTaken := [(5, 2), (4, 1)] }
theorem met_SluiceWords : (∀ w, (sluiced.core (.tile 10 w)).waits = []) ∧ sluiced.me.granted = false ∧ ((7 : BitVec 15).toNat : Int) ≤ 7 ∧ ((7 : BitVec 16).toInt < (8 : BitVec 15).toNat)
    ∧ sluiced.me.timed = true ∧ (free sluiced).me.timed = false ∧ (sluiced.tile 10).late = [] ∧ (∀ y ∈ (sluiced.tile 10).slSet, y.1 ≠ 5)
    ∧ ([((5 : BitVec 4), (9 : BitVec 16), (0 : Nat))].find? (·.1 == 5) = some (5, 9, 0)) := by
  refine ⟨fun w => by cases w <;> decide +kernel, ?_⟩; decide +kernel
def bytesAt (r : CoreRef) (a n : Nat) : List Nat := (List.range n).map (a + ·)
/-- Run counts at which the worker owns every bank it is asked for: the state with the count moved on. -/
def at_ (k : Nat) (s : State := st) : State := s.modRun 3 fun r => { r with vcyc := BitVec.ofNat 48 (500 + k) }
/-- Some count of a wheel's turn lets the worker's access pass every check. -/
def allowed (want : Want) (a n : Nat) (s : State := st) : Bool := (List.range 8).any fun k => decide ((at_ k s).check worker want a (layout a n) = .ok)
/-- The worker of tile 10 drains into the lines at 0 and 64. -/
def drain0 : Drain := { seq := 0, age := 4, z := false, isInt := true, cfg := 0, dest := .window 2 0 2, fmt := 4, wcount := 0, srkw := 0, rows := [], lines := [], span := [0, 64] }
def drainer (s : State := st) : State := s.modTile 10 fun t => { t with drains := [drain0] }
theorem met_LocalAccessChecksInOrder_drain : (∃ x ∈ layout 0 8, x / 64 % 32 ∈ ((drainer).tile 10).drainBanks)
    ∧ (∃ k < 8, (at_ k (drainer (free))).check worker { align := 8 } 0 (layout 0 8) = .drain) ∧ ((drainer).tile 10).drains ≠ [] := by decide +kernel
theorem met_LocalAccessChecksInOrder : (0 : Nat) < 64 ∧ (∃ x ∈ layout 524284 8, 2 ^ 19 ≤ x) ∧ (∀ x ∈ layout 524224 64, x < 2 ^ 19) ∧ st.windowAt worker 524224 = some (0, wind 0 2)
    ∧ (∀ x ∈ layout 524224 64, (wind 0 2).has x = true) ∧ (wind 0 2).holder = 2 ∧ (wind 5 0).holder ≠ 2 ∧ (wind 0 2).ur = true ∧ (wind 0 2).uw = true ∧ (wind 0 2).repl = false
    ∧ (524220 : Int) % (min 64 64 : Nat) ≠ 0
    ∧ (∀ b < 4, (st.wheelPhase 10 + b) % 4 = 0 ∨ (st.wheelPhase 10 + b) % 4 = 1 ∨ (st.wheelPhase 10 + b) % 4 = 2 ∨ (st.wheelPhase 10 + b) % 4 = 3)
    ∧ (∃ b < 4, (st.wheelPhase 10 + b) % 4 = 0) ∧ (∃ b < 4, (st.wheelPhase 10 + b) % 4 ≠ 0) ∧ (st.tile 10).drainBanks = [] ∧ st.me.timed = true ∧ (free).me.timed = false := by
  decide +kernel
theorem met_LoadsAndStores : allowed { align := 8 } 524280 8 = true ∧ allowed { store := true, align := 8 } 524280 8 = true ∧ (st.poisonedAt worker (bytesAt worker 524280 8)) = none
    ∧ ({ st with poison := [localKey worker 64] } : State).poisonedAt worker (bytesAt worker 68 4) = some 68 ∧ st.windowAt worker 524280 = some (0, wind 0 2)
    ∧ (st.check worker { align := 8 } 4 (bytesAt worker 4 8)) = .fault 0x06 4 ∧ (∃ k ∈ [1, 2, 3], ∃ a ∈ [0, 64, 128, 192], (free).check worker { align := 4 } a (bytesAt worker a.toNat 4) = .stand k)
    ∧ st.pendingStores worker = [] := by decide +kernel
def port0 : Port := { opened := true, win := 0, gran := 2, base := 64, dims := [{ stride := 4, cntM1 := 2 }, { stride := 64, cntM1 := 4 }], pos := 5, fpos := 5 }
def withPort (x : Port) (s : State := st) : State := s.modMe fun c => c.setPort 3 x
theorem met_PortStepsAreTaken : port0.opened = true ∧ port0.write = false ∧ port0.array = 0 ∧ ({ port0 with fetched := [{ addr := 136, data := [1, 2, 3, 4], fault := none }] } : Port).fetched = { addr := 136, data := [1, 2, 3, 4], fault := none } :: []
    ∧ ([1, 2, 3, 4] : List Byte).length = 2 ^ (2 : BitVec 2).toNat ∧ ({ addr := 136, data := [], fault := some (4, 7) } : Step).fault = some (4, 7) ∧ port0.fetched = []
    ∧ (let x := { port0 with write := true }; x.wbuf.length < 4 ∧ (withPort x).stepFault worker x ((withPort x).stepAddr worker x x.pos) = none ∧ x.gran = (2 : BitVec 2).toNat
        ∧ 0 ≤ (withPort x).stepAddr worker x x.pos)
    ∧ (let x := { port0 with write := true, base := 66 }; (withPort x).stepFault worker x ((withPort x).stepAddr worker x x.pos) = some (0x06, 138))
    ∧ (let x : Port := { port0 with write := true, wbuf := List.replicate 4 { lines := [] } }; 4 ≤ x.wbuf.length)
    ∧ ((5 % 3 + 1 = 3) ∧ (4 % 3 + 1 < 3)) := by decide +kernel
/-- The descriptor of spec 13's nested loop: GRAN 3, read, NDM1 1, BASE 0x40, here over window 0. -/
def described : State := { withG 3 512 (withG 4 0) with mem := writeCells [] ((leBytes 8 0x0000060100000040 ++ leBytes 8 0x0000000800000002 ++ leBytes 8 0x0000001800000001).zipIdx.map
  fun x => (localKey worker (512 + x.2), x.1)) }
theorem met_PortsOpenAndClose : described.CodeSettled worker ∧ (described.me.port 3).opened = false ∧ described.descFault 512 24 = none ∧ described.descFault 512 8 = none
    ∧ (let word (j : Nat) : Word := BitVec.ofNat 64 (leNat ((List.range 8).map fun i => described.latest worker (512 + 8 * j + i)))
      (word 0).toNat / 2 ^ 32 % 16 + 1 = 2 ∧ (word 0).toNat / 2 ^ 41 % 16 = 3 ∧ (word 0).toNat / 2 ^ 45 = 0 ∧ (word 0).toNat / 2 ^ 19 % 2 ^ 13 = 0
      ∧ (∀ j < 2, (word (1 + j)).toNat / 2 ^ 16 % 2 ^ 16 = 0) ∧ (described.window worker (BitVec.ofNat 4 ((word 0).toNat / 2 ^ 36))).valid = true)
    ∧ port0.opened = true ∧ ({ port0 with write := true, lo := some 0, hi := 524287 } : Port).lo = some 0 ∧ (524287 : Nat) < 2 ^ 19
    ∧ (((st.tile 10).dirtylog.toList.filter (·.getLsbD 63)).length < 64) := ⟨rfl, by decide +kernel⟩
theorem met_AtomicsWindowsAndFences : amoOk .max true = true ∧ amoOk .cas false = true ∧ allowed { store := true, berth := false, atomic := true, align := 8 } 64 8 = true
    ∧ st.poisonedAt worker (bytesAt worker 64 8) = none ∧ st.windowAt worker 64 = some (0, wind 0 2) ∧ ((base).window worker 7).valid = false ∧ st.windowAt worker 524288 = none
    ∧ allowed { align := 16 } 64 16 = true ∧ (∀ p : Fin 8, (st.me.port (BitVec.ofNat 3 p)).wbuf = []) ∧ st.myTile.drains = []
    ∧ ((withPort { port0 with wbuf := [{ lines := [] }] }).me.port 3).wbuf ≠ [] := by decide +kernel
/-- A window of each format that VLD widens, at the top of the store. -/
theorem met_VectorLoadsAndStores : (∀ f ∈ [(0 : BitVec 4), 1, 3, 4, 5, 7, 8, 9], let s := st.modTile 10 fun t => { t with windesc := t.windesc.set 0 (wind f 2) }
      s.windowAt worker 524032 = some (0, wind f 2) ∧ (wind f 2).fmt = f ∧ allowed { align := 8 * fmtHalves f / 2 } 524032 (8 * fmtHalves f / 2) s = true)
    ∧ (wind 10 2).fmt = 10 ∧ allowed { store := true, align := 32 } 524032 32 = true ∧ (∀ x ∈ bytesAt worker 524032 32, localKey worker (x / 8 * 8) ∉ st.poison)
    ∧ st.laneOn 0 0 7 = true ∧ st.laneOn 0 0 8 = false := by decide +kernel
/-- Port 3 reads and writes 32-byte steps over window 0. -/
theorem met_VectorLoadsAndStores_ports : let x := { port0 with gran := 5, dims := [{ stride := 32, cntM1 := 7 }], pos := 0 }
    let w := { x with write := true }
    (st.window worker x.win).fmt ≠ 10 ∧ x.opened = true ∧ x.array = 0 ∧ ({ x with fetched := [{ addr := 64, data := List.replicate 32 1, fault := none }] } : Port).fetched.length = 1
    ∧ w.wbuf.length < 4 ∧ (withPort w).stepFault worker w ((withPort w).stepAddr worker w w.pos) = none := by decide +kernel
/-- Elements in one bank, as strides of 2 KiB or equal indices put them, and in two. -/
theorem met_VectorLoadsAndStores_indexed : let s := (at_ 0).modTile 10 fun t => { t with v := (t.v.set 2 (Vector.ofFn fun i : Fin 64 => BitVec.ofNat 32 (512 * i.val))).set 3 (Vector.ofFn fun i : Fin 64 => BitVec.ofNat 32 (16 * i.val)) }
    (∃ k < 4, ∃ b < 4, let s := at_ k s
      ∀ j : Fin 8, let a : Int := 64 * (b : Nat) + ((s.v 2)[Fin.ofNat 64 j]).toInt * 4
        0 ≤ a ∧ s.wheel worker a (bytesAt worker a.toNat 4) = .ok ∧ s.check worker { store := true, align := 4 } a (bytesAt worker a.toNat 4) = .ok ∧ a.toNat / 64 % 4 = b)
    ∧ (64 + ((s.v 3)[(1 : Fin 64)]).toInt * 4).toNat / 64 % 4 ≠ (64 + ((s.v 3)[(0 : Fin 64)]).toInt * 4).toNat / 64 % 4 := by decide +kernel
theorem met_LaneClauses : (VTy.i ≠ .f) ∧ (VTy.u ≠ .f) ∧ (f32 0x7FC00000).isNan = true ∧ (f32 0x80000000).isZero = true ∧ (f32 0).isZero = true ∧ (f32 0x3F800000).isNan = false
    ∧ i8.min ≤ -128 ∧ (255 : Int) ≤ u8.max ∧ u32.max = 4294967295 ∧ i32.min = -2147483648 ∧ ((f32 0x7F800001).isNan = true) := by decide +kernel
/-- The header of spec 14's parentheses automaton: NSTATE 1, NSYM 2, NCLASS 4, NTOK 4, CMAP 0x20, TRAN 0x28, MASK 0x68. -/
def parsing : State :=
  let bytes : List Byte := leBytes 2 1 ++ leBytes 2 2 ++ leBytes 2 4 ++ leBytes 2 0 ++ leBytes 4 4 ++ leBytes 4 0x20 ++ leBytes 4 0x28 ++ leBytes 4 0x68
  { st with mem := writeCells [] (bytes.zipIdx.map fun x => (localKey worker x.2, x.1)) }
theorem met_AutomatonAndSampling_table : (match parsing.tableHeader worker 0 with
    | .ok (h, _) => decide (autoDepth (parsing.v 0) ≤ 62 ∧ autoState (parsing.v 0) < h.nstate ∧ autoTop (parsing.v 0) < h.nsym ∧ ((parsing.v 0)[(0 : Fin 64)]).toNat < h.ntok
        ∧ 8 * ((parsing.v 0)[(0 : Fin 64)]).toNat < 8 * ((h.ntok + 63) / 64)) && h.mask == 0x68 && h.tran == 0x28
    | .error _ => false) = true := by decide +kernel
theorem met_AutomatonAndSampling : (BitVec.getLsbD (0x80000000 : BitVec 32) 31 = true) ∧ autoDepth (Vector.replicate 64 0) ≤ 62
    ∧ (let legal (s : State) (j : Fin 64) : Bool := s.laneOn 0 0 j && !(f32 ((s.v 1)[j])).isNan && (s.v 1)[j] != 0xFF800000
      legal st 0 = true ∧ (∀ j : Fin 64, legal (st.modTile 10 fun t => { t with v := t.v.set 1 (Vector.replicate 64 0xFF800000) }) j = false))
    ∧ (st.v 3)[(0 : Fin 64)] ≠ 0x7F800000 ∧ ((st.modTile 10 fun t => { t with v := t.v.set 3 (Vector.replicate 64 0x7F800000) }).v 3)[(0 : Fin 64)] = 0x7F800000 := by decide +kernel
def block0 : Block := { id := 7, slot := 4, place := none, group := 1, feeder := 2, t := 490, map := 0, fmt := 5, bsz := 7, width := 4, beats := 12, age := 5, full := true, lost := false, data := [],
                        lams := 0, errs := [] }
def slices (w : BitVec 4) : Port := { opened := true, win := w, gran := 7, base := 64, dims := [{ stride := 64, cntM1 := 9 }] }
def mats : State := (st.modMe fun c => ((c.setPort 1 (slices 1)).setPort 2 (slices 3)).setPort 3 (slices 2)).modTile 10 fun t => { t with blocks := [{ block0 with id := 3, slot := 5 }, block0] }
def fits (s : State) (kg : KGroup) (p : PReg) : Bool := (s.me.port p).opened && !(s.me.port p).write && kgAllows kg (s.window worker (s.me.port p).win).fmt
  && 2 ^ (s.me.port p).gran == sliceBytes kg (s.window worker (s.me.port p).win).fmt
theorem met_AccumulatorMovesAndDrainConfiguration : (st.tile 10).tokens.length + (st.tile 10).newTokens.length < 8
    ∧ (let t := { st.tile 10 with tokens := [0, 1, 2, 3, 0, 1], newTokens := [1, 2] }; 8 ≤ t.tokens.length + t.newTokens.length) := by decide +kernel
theorem met_ProductsAndArms : fits mats .k8 1 = true ∧ fits mats .k16 2 = true ∧ fits mats .k8 3 = true ∧ (mats.tile 10).msums = none ∧ mats.fired = none ∧ (mats.tile 10).front 4 = some block0
    ∧ block0.full = true ∧ kgAllows .k8 block0.fmt = true ∧ (31 + 1) * sliceBytes .k8 block0.fmt ≤ (block0.bsz.toNat + 1) * 512
    ∧ (let s := mats.modTile 10 fun t => { t with blocks := [{ block0 with full := false }] }
      (s.tile 10).front 4 = some { block0 with full := false } ∧ (s.tile 10).blocks.find? (fun b => b.slot == 4 && !b.full && !b.lost) = some { block0 with full := false })
    ∧ ({ mats with partner := some (.mmul .k8 true 4 1 31, 3, 168) } : State).partner = some (.mmul .k8 true 4 1 31, 3, 168) ∧ (mats.tile 10).arms.any (·.slot == 4) = false
    ∧ ((mats.modTile 10 fun t => { t with arms := [⟨4, .nop, 0, 1, 2, none⟩] }).tile 10).arms.any (·.slot == 4) = true ∧ mats.me.holds = [] ∧ mats.me.timed = true ∧ (free mats).me.timed = false
    ∧ (∀ b ∈ (mats.tile 10).blocks, b.slot = 4 → b.full = true) := by decide +kernel
/-- Drain configurations: mode 1, INT8, RND 2, table at 512 in window 0, output window 2; with a raw output window, and with each field wrong. -/
def config (mode fmt rnd ptab pw ow : Nat) : Word := BitVec.ofNat 64 (mode * 2 ^ 61 + fmt * 2 ^ 57 + rnd * 2 ^ 54 + ptab * 2 ^ 13 + pw * 2 ^ 9 + ow * 2 ^ 5)
def good (c : Word) : Bool := decide (c.toNat / 2 ^ 61 ≤ 1 ∧ c.toNat / 2 ^ 57 % 16 ≤ 10 ∧ c.toNat / 2 ^ 54 % 8 ≤ 4 ∧ c.toNat / 2 ^ 13 % 256 = 0)
theorem met_DrainsBegin : good (config 1 4 2 512 0 2) = true ∧ good (config 2 4 2 512 0 2) = false ∧ good (config 1 11 2 512 0 2) = false ∧ good (config 1 4 5 512 0 2) = false
    ∧ good (config 1 4 2 513 0 2) = false ∧ (st.window worker 0).has 512 = true ∧ (st.window worker 0).has (512 + 255) = true ∧ (st.window worker 9).has 512 = false
    ∧ (let d := st.window worker 2
      d.fmt ≠ 0 ∧ d.valid = true ∧ 320 % (8 * fmtHalves d.fmt) = 0 ∧ 8 % (8 * fmtHalves d.fmt) ≠ 0 ∧ d.has (d.base + 320) = true ∧ d.has (d.base + 320 + 16 * (8 * fmtHalves d.fmt) - 1) = true
      ∧ d.repl = false ∧ d.holder = 4 ∧ d.has (d.base + 524280 + 16 * (8 * fmtHalves d.fmt) - 1) = false)
    ∧ (st.window worker 0).valid = true ∧ (st.window worker 0).fmt = 0 ∧ (st.window worker 1).holder ≠ 4
    ∧ (((5 : BitVec 32).toInt + (3 : BitVec 32).toInt + (0 : BitVec 32).toInt) * (0x40000000 : BitVec 32).toInt = 1 * 2 ^ (31 + 2)) ∧ i8.min ≤ (1 : Int) ∧ (1 : Int) ≤ i8.max := by decide +kernel
def gaddr0 : Word := BitVec.ofNat 64 (2 ^ 48 + 512)
/-- A physical page whose home is feeder 2. -/
def page0 : PageMap := { asid := 5, page := 2 ^ 48 / 2 ^ 21, phys := 2 * 24576, write := true, atomic := true, repl := false, pins := 0 }
def E (at_ v : Nat) (e : BitVec 2048 := 0) : BitVec 2048 := e ||| BitVec.ofNat 2048 (v * 2 ^ at_)
/-- A group entry in force: one rung on waveguide 0 that drops light, four wavelengths from 2 on, 512 bytes. -/
def entry0 : GroupEntry := E 1619 1 (E 1608 3 (E 1604 2 (E 1588 1 (E 0 (2 ^ 21 + 5 * 2 ^ 12 + 1)))))
def inject0 : Inject := { id := 7, group := 4, gaddr := gaddr0, t := 540, slot := 3, lam0 := 2, width := 4, wgmask := 1, beats := 16, copied := none }
def feeding : State := ({ st with actor := .feeder 2 1, lh := { st.lh with pages := [page0] } }).modFeeder 2 fun x => { x with grptab := [(4, entry0)], present := List.range 8 }
def asTaker (s : State := st) : Word := (s.asHolder (.tile 10 false)).word
theorem met_FeederWords : feeding.slotOf (.feeder 2 1) = some 3 ∧ ((feeding.feeder 2).entryFor 4 540).valid = true ∧ (feeding.feederPage 2 5 gaddr0).isSome = true ∧ gaddr0.toNat % 512 = 0
    ∧ gaddr0.toNat % 2 ^ 21 + ((feeding.feeder 2).entryFor 4 540).size ≤ 2 ^ 21 ∧ passed 503 504 = true ∧ passed 504 504 = false ∧ passed 540 504 = false ∧ (feeding.feeder 2).queue.length < 64
    ∧ (let e := (feeding.feeder 2).entryFor 4 540; ((feeding.feeder 2).queue ++ (feeding.feeder 2).flying).any (injectClash e.guides e.lam0 e.width 540 e.beats) = false)
    ∧ (feeding.feederPage 2 5 gaddr0).isSome = true ∧ page0.write = true ∧ (feeding.feederPage 2 5 (BitVec.ofNat 64 (2 ^ 50))).isSome = false
    ∧ feeding.mayStorePage (feeding.asHolder feeding.actor) page0 = true := by decide +kernel
theorem met_FeederWords_group : let s := feeding.modFeeder 2 fun x => { x with windesc := Vector.replicate 4 (Vector.replicate 16 (wind 0 0)) }
    (s.windowAt s.actor 0).isSome = true ∧ ((wind 0 0).has (0 + 255) = true) ∧ s.poisonedAt s.actor ((List.range 256).map (0 + ·)) = none
    ∧ s.entryRefused 2 (some 3) 4 0 = false ∧ s.entryRefused 2 (some 3) 4 (BitVec.allOnes 2048) = true := by decide +kernel
def packet0 : Packet := { ch := false, asid := 5, srcMod := 0, srcK := 0, src := 11, dstMod := 0, dstK := 0, dst := 10, tag := 9, typ := 0, len := 3, payload := [1, 2, 3], addr := 0, opx := 0, hops := 0,
                          itime := 0, resv := false, seg := 0, turns := 0, req := none, ans := none, offer := none }
theorem met_TowpathWords : allowed { align := 64 } 524224 64 = true ∧ allowed { align := 64 } 0 256 = true ∧ st.poisonedAt worker (layout 524224 64) = none
    ∧ ((withPort { port0 with gran := 6, fetched := [{ addr := 64, data := List.replicate 64 1, fault := none }] }).me.port 3).fetched.length = 1
    ∧ (2 ^ 31 - 1 : Int).natAbs < 2 ^ (4 * 9 - 1) ∧ st.destBad (BitVec.ofNat 64 (2 ^ 16 + 11)) = false ∧ st.destBad (BitVec.ofNat 64 (2 ^ 63 + 2 ^ 62)) = true
    ∧ ((List.range 8).any fun k => decide ((at_ k).payloadAccess 64 10 (bytesAt worker 64 10) = .ok)) = true ∧ ((st.tile 10).outQ.filter (·.typ == 0)).length < 4
    ∧ 4 ≤ (((st.modTile 10 fun t => { t with outQ := List.replicate 4 packet0 }).tile 10).outQ.filter (·.typ == 0)).length ∧ (st.tile 10).recvQ = []
    ∧ ((st.modTile 10 fun t => { t with recvQ := [packet0] }).tile 10).recvQ = [packet0] ∧ packet0.len ≤ 64 ∧ allowed { store := true, align := 64 } 64 64 = true := by decide +kernel
theorem met_RemoteWords : (let inMap (g : Word) : Bool := decide (g.toNat / 2 ^ 51 < 6144 ∧ g.toNat / 2 ^ 48 % 8 ≤ 1)
      inMap gaddr0 = true ∧ inMap (BitVec.ofNat 64 (6144 * 2 ^ 51)) = false ∧ inMap (BitVec.ofNat 64 (2 * 2 ^ 48)) = false ∧ inMap (BitVec.ofNat 64 (6143 * 2 ^ 51 + 2 ^ 48)) = true)
    ∧ gaddr0.toNat % 8 = 0 ∧ (gaddr0 + 1).toNat % 2 ≠ 0 ∧ st.me.reqs.length < 32 ∧ st.me.reqs = [] ∧ st.takerBad (asTaker) = false ∧ isEngineTaker (asTaker) = false ∧ st.me.writesOut = false
    ∧ (st.modMe fun c => { c with reqs := [{ tag := 3, gaddr := 0, kind := .store 4 5, dst := none, sent := 4 }] }).me.writesOut = true
    ∧ (∃ o ∈ (st.modMe fun c => { c with reqs := [{ tag := 3, gaddr := 0, kind := .store 4 5, dst := none, sent := 4 }] }).me.reqs, o.seq < 1) ∧ asksAway (.rst 2 3 4 0) = true
    ∧ st.me.ops = [] ∧ storesAway (.rst 2 3 4 0) = true ∧ (∃ o ∈ [({ due := 3, seq := 0, addr := 8, instr := .rst 2 3 4 0 } : Op)], o.seq < 1 ∧ storesAway o.instr = true)
    ∧ st.me.visit = none ∧ st.feederOk (st.entryFeeder 10) = true ∧ (0 : Nat) / 2 ^ 51 = st.modNum.toNat := by decide +kernel
theorem met_WindowBerths : let s (h : BitVec 5) (f : Berth → Berth) : State := st.modTile 10 fun t => { (t.setBerth 2 (f (t.berth 2))) with windesc := t.windesc.set 2 (wind 4 h) }
    let mine : Word := (st.asHolder worker).word
    mine = ({ modl := st.modNum, kind := 1, num := 10, core := 0, asid := 5 } : Holder).word
    ∧ (((base).tile 10).win 2).valid = false ∧ ((s 2 id).tile 10).win 2 = wind 4 2 ∧ (wind 4 2).valid = true ∧ (wind 4 2).holder = 2 ∧ (wind 4 1).holder ≠ 2 ∧ st.me.writesOut = false
    ∧ st.takerAllowed 5 (some 10) false (asTaker) = true ∧ st.takerAllowed 5 (some 10) true (asTaker) = true ∧ (wind 4 0).holder.toNat < 3 ∧ 6 < (wind 4 7).holder.toNat
    ∧ (((s 0 fun b => { b with passage := some { taker := mine, due := 0 } }).tile 10).berth 2).passage = some { taker := mine, due := 0 } ∧ (((s 0 id).tile 10).berth 2).passage = none
    ∧ asTaker ≠ mine ∧ (((s 0 fun b => { b with views := [{ taker := asTaker, due := 0 }, { taker := mine, due := 0 }] }).tile 10).berth 2).views.find? (fun v => v.taker == mine)
        = some { taker := mine, due := 0 } ∧ (((s 0 id).tile 10).berth 2).views = [] ∧ st.me.ops = []
    ∧ (∀ p : Fin 8, (st.me.port (BitVec.ofNat 3 p)).opened = false) := by decide +kernel
theorem met_HoldsAndDrift : (base).slotOf worker = some 3 ∧ (base).slotOfCrew 0x21 = some 3 ∧ ((withRun ({ · with drift := some (3, 4) })).slot 3).run.drift.isSome = true := by decide +kernel
theorem met_HoldsAndDrift_announcements : passed 499 500 = true ∧ ((500 : BitVec 48) = ((base).slot 3).run.vcyc ∧ ((base).slot 3).run.live = true) ∧ passed 501 500 = false
    ∧ (∀ y ∈ ((base).slot 3).run.holds, y.h ≠ 501)
    ∧ (⟨510, 5, [.halt], 1⟩ : HoldAnn) ∈ ((withRun ({ · with holds := [⟨510, 5, [.halt], 1⟩, ⟨520, 5, [.program], 0⟩] })).slot 3).run.holds
    ∧ (let r := ((withRun ({ · with holds := [⟨500, 5, [.limit], 1⟩], holdCount := 9 })).slot 3).run; r.vcyc = 500 ∧ 9 ≤ r.holdCount ∧ ¬ 10 ≤ r.holdCount)
    ∧ ((withRun ({ · with drift := some (400, 2) })).slot 3).run.drift = some (400, 2)
    ∧ (∀ t ∈ ((base).slot 3).tiles, ((base).tile t).vcycSkew.toNat % 2 ^ 16 = 0) ∧ (((base).modTile 11 fun t => { t with vcycSkew := 3 }).tile 11).vcycSkew.toNat % 2 ^ 16 ≠ 0 := by
  decide +kernel
theorem met_HoldsAndDrift_starts : let s := base { slot0 with ready := true, rec_ := { slot0.rec_ with state := .starting, started := 1000 } }
    let x := s.slot 3
    x.ready = true ∧ x.rec_.state = .starting ∧ s.time = x.rec_.started + BitVec.ofInt 64 x.run.driftC ∧ x.modules ≤ 1 ∧ ((base).slot 3).rec_.state = .running ∧ x.rec_.state.placed = true
    ∧ (3 ∈ ((linked (base anchor0)).slot 3).others (base).flight ∧ (linked).lineTo 3 = some 5) ∧ slot0.modIdx = 0
    ∧ ({ (base).lh with phase := .halted } : Lockhouse).phase = .halted ∧ slot0.rec_.state.placed = true
    ∧ (3, (base { slot0 with modules := 2 }).slot 3) ∈ (base { slot0 with modules := 2 }).lh.slots := by decide +kernel
def variant0 : Variant := { cls := 2, index := 4, bank := 1, length := 10, cap := [5, 5], est := 700 }
def selecting : Slot := { slot0 with variants := [variant0], run := { slot0.run with sizes := [(480, 0, 3)] } }
def pick0 : Selection := { cls := 2, index := 4, bank := 1, size := [], excess := [], empty := 0, ovf := 0 }
theorem met_SelectionsPhasesAndStarts : pickVariant (selecting.ofClass 2) (selecting.run.groupSizes 480) selecting.allowance = some (variant0, false)
    ∧ (let x := { selecting with allows := [(0, 100)] }; pickVariant (x.ofClass 2) (x.run.groupSizes 480) x.allowance = some (variant0, true))
    ∧ ({ selecting.run with selNext := some pick0 } : CrewRun).selNext = some pick0
    ∧ (let p : PhaseRef := { level := 2, tile := 0, count := 480, seen := [.here worker] }
      let s := base { slot0 with run := { slot0.run with phases := [p] } }
      (s.slot 3).run.phases.find? (fun p => p.level == 2 && p.count == 480) = some p
      ∧ (lowestMember ((s.reporters (s.slot 3) 2 p.tile).filter fun c => !p.seen.contains c)).isSome = true)
    ∧ 3 ∈ ((linked (base anchor0)).slot 3).others (base).flight ∧ (linked).lineTo 3 = some 5 ∧ (linked (base member0)).lineTo (slot0.rec_.crew.toNat / 2 ^ 11) = some 3
    ∧ ((base { slot0 with rec_ := { slot0.rec_ with state := .starting } }).slot 3).rec_.state = .starting ∧ slot0.drawn = none ∧ slot0.current = none ∧ slot0.modules = 1
    ∧ ([{ slot := 3, qid := 0, cid := 5, left := [1], refusals := [] }] : List BindWait).find? (fun b => b.slot == 3 && b.left.contains 1) = some { slot := 3, qid := 0, cid := 5, left := [1], refusals := [] } := by
  decide +kernel
/-- The fingerprint of the grid of AW-940. -/
theorem fingerprint0 : (base).fingerprint = 0x5d2851e29a2f8c48 := by decide +kernel
/-- A header of an image for AW-940 with no sections, and a crew that waits with it, an origin being free. -/
def header0 (w h : Nat) : List Byte :=
  List.replicate 6 0 ++ leBytes 2 0x0940 ++ leBytes 8 0x5d2851e29a2f8c48 ++ leBytes 2 0 ++ leBytes 1 1 ++ [0] ++ leBytes 2 w ++ leBytes 2 h ++ leBytes 8 64
def waiting : State :=
  let s := base { slot0 with rec_ := { slot0.rec_ with state := .bound, age := 4 }, tiles := [], feeders := [], width := 31, height := 32, img := BitVec.ofNat 64 (2 ^ 48) }
  { s with tiles := [], feeders := [], pwr := { s.pwr with greeting := 1 }, mem := writeCells [] (keyed (pageKey page0 0) (header0 31 32)), lh := { s.lh with pages := [page0] } }
theorem met_SelectionsPhasesAndStarts_pass : waiting.halted = false ∧ waiting.pwr.step = 6 ∧ waiting.lh.regrading = none
    ∧ waiting.lh.slots.filter (fun y => y.2.waiting) = [(3, waiting.slot 3)] ∧ (waiting.slot 3).claim = none ∧ (waiting.slot 3).modules = 1
    ∧ (waiting.canStart 3).isSome = true := by decide +kernel
theorem met_SelectionsPhasesAndStarts_bind : let q (k : Nat) : BindAsk := { asid := 5, addr := BitVec.ofNat 64 (2 ^ 48), length := 64, opts := 0, mods := optMods 0, modIdx := k }
    waiting.mayBind = true ∧ waiting.memberNo (waiting.image 5 (BitVec.ofNat 64 (2 ^ 48))) (q 1) = none ∧ waiting.freeSlot.isSome = true
    ∧ ({ base with pwr := {} } : State).mayBind = false ∧ ((base).memberNo ((base).image 5 0) (q 1)).isSome = true := by decide +kernel
def fault0 : FaultRec := { cause := 3, addr := 5, member := 8, at_ := 500 }
def saved0 : Saved := { count := 500, run := {}, tiles := [], feeders := [], cells := [], poison := [], tickets := [], berths := [], windows := [], agenda := [], retimes := [], x0 := 0, y0 := 0 }
def drawn (why : DrawWhy) : State := withRun ({ · with stopped := true, live := false, draw := some { v := 500, why := why } })
theorem met_DrawOffsMarksAndFaults : (base).slotOfCrew 0x21 = some 3 ∧ ((base).slot 3).run.fault = none ∧ ((withRun ({ · with fault := some fault0 })).slot 3).run.fault.isSome = true
    ∧ slot0.modIdx = 0 ∧ slot0.modules = 1 ∧ (base).halted = false ∧ ({ base with lh := { (base).lh with phase := .restarting } } : State).halted = true
    ∧ (anchor0).modIdx = 0 ∧ (∃ m < (anchor0).modules, m ≠ 0 ∧ m ∉ ([] : List Nat)) ∧ (member0).modIdx ≠ 0 ∧ (linked (base member0)).lineTo (slot0.rec_.crew.toNat / 2 ^ 11) = some 3
    ∧ (∀ w ∈ [DrawWhy.preempt, .regrade, .mark, .host], ((drawn w).slot 3).run.stopped = true ∧ ((drawn w).slot 3).run.fault = none ∧ (drawn w).unanswered ((drawn w).slot 3) = false
        ∧ ((drawn w).slot 3).run.draw = some { v := 500, why := w })
    ∧ (let s := (drawn .preempt).modCore (.tile 10 false) fun c => { c with reqs := [{ tag := 1, gaddr := 0, kind := .berth 0, dst := none, sent := 0 }] }; s.unanswered (s.slot 3) = true)
    ∧ ({ slot0 with drawn := some saved0, run := { slot0.run with stopped := true } } : Slot).drawn = some saved0 ∧ slot0.rec_.state = .running ∧ slot0.run.draw = none ∧ slot0.run.stopped = false
    ∧ slot0.rewinds < 3 ∧ slot0.run.fatal = false ∧ (let x := { slot0 with rec_ := { slot0.rec_ with onfault := true } }; x.rec_.onfault = true ∧ x.rec_.state ≠ .killing)
    ∧ slot0.rec_.onfault = false ∧ Config.weightKey 2 0 % 128 = 0 ∧ (List.replicate 128 (7 : Byte)).length = 128 := by decide +kernel
def awaiting (ws : List (Wait × Bool)) : State := st.modCore worker fun c => { c with waits := ws }
theorem met_WaitsEnd : (base).coreOk worker = true ∧ (∀ w ∈ ((awaiting [(.rfence 4, true)]).core worker).waits, w.1 = .rfence 4) ∧ (base.core worker).reqs = [] ∧ (base.core worker).ops = [] ∧ (.phase, true) ∈ ((awaiting [(.phase, true)]).core worker).waits
    ∧ (let s := (st.modCore worker fun c => { c with slwait := some (2, 3), stand := 1 }).modTile 10 fun t => { t with sluice := t.sluice.set 2 5 }
      (s.core worker).slwait = some (2, 3) ∧ s.sluiceReady worker 2 3 = true)
    ∧ 2 ^ 20 ≤ ((5 + 2 ^ 20 : Word) - 5).toNat ∧ ((awaiting [(.btake (.window 10 2) false 5, true)]).core worker).waits = [(.btake (.window 10 2) false 5, true)]
    ∧ ((wind 4 0).holder.toNat < 3) ∧ (let s := awaiting [(.tdrecv 4 6, true)]; (s.core worker).waits = [(.tdrecv 4 6, true)])
    ∧ (let x : Port := { port0 with write := true, wbuf := [{ lines := [(64, [(64, 9, 0xFF)])] }, { lines := [] }] }
      x.pause = false ∧ x.wbuf = { lines := [(64, [(64, 9, 0xFF)])] } :: [{ lines := [] }] ∧ ∃ k < 8, (at_ k).slotFree worker 64 = true)
    ∧ (let x : Port := { port0 with base := 66, fpos := 0 }; (withPort x).stepFault worker x ((withPort x).stepAddr worker x x.fpos) = some (0x06, 66))
    ∧ (let x : Port := { port0 with fpos := 0 }; (withPort x).stepFault worker x ((withPort x).stepAddr worker x x.fpos) = none ∧ x.bytes ≤ 64 ∧ x.fetched.length < 4 ∧ x.partLines = [])
    ∧ 64 < ({ port0 with gran := 8 } : Port).bytes ∧ (st.tile 10).drains = [] := by decide +kernel
def aqua : State := { (base).modFeeder 2 fun x => { x with grptab := [(4, entry0)], queue := [inject0], present := List.range 8 } with lh := { (base).lh with pages := [page0] } }
/-- An arrival map of 4 wavelengths from 2 on, lane 1, group 4, and the taps that hear them. -/
def mapped : State := let tap (l : Nat) : Word := BitVec.ofNat 64 (2 ^ 7 + 1 * 2 ^ 4 + l)
  (base).modTile 10 fun t => { t with arrmap := t.arrmap.set 3 (BitVec.ofNat 64 (2 ^ 47 + 6 * 2 ^ 38 + 3 * 2 ^ 34 + 5 * 2 ^ 30 + 4 * 2 ^ 26 + 3 * 2 ^ 20 + 2 * 2 ^ 16 + 1 * 2 ^ 14 + 4)), tapcfg := (((t.tapcfg.set 0 (tap 2)).set 1 (tap 3)).set 2 (tap 4)).set 3 (tap 5) }
theorem met_AqueductEvents : (base).feederOk 2 = true ∧ (base).tileOk 10 = true ∧ (aqua.feeder 2).queue.find? (·.id == 7) = some inject0
    ∧ (let e := (aqua.feeder 2).entryFor inject0.group inject0.t
      e.valid = true ∧ aqua.feederPage 2 5 gaddr0 = some page0 ∧ (∀ l ∈ (aqua.feeder 2).present, pageLine page0 512 ≤ l ∨ l < pageLine page0 512) ∧ pageLine page0 (512 + e.size - 1) ∈ (aqua.feeder 2).present
      ∧ pageLine page0 512 ∈ (aqua.feeder 2).present ∧ pageLine page0 512 ∉ (List.range 4) ∧ aqua.poisonedSector (pageKey page0 512) e.size = none)
    ∧ (aqua.slot 3).run.injectStop = false ∧ (aqua.slot 3).run.draw = none ∧ aqua.laserOut 2 = false ∧ (((aqua.feeder 2).foldGroups 540).entryFor 4 540).rungs.any (fun r => r.code != 0 && (aqua.rungTile 2 r).isSome) = true := by
  decide +kernel
theorem met_AqueductEvents_deliveries : let t := mapped.tile 10
    (t.map 3).en = true ∧ (t.map 3).group = 4 ∧ (t.map 3).lane = 1 ∧ (t.map 3).lam0 = 2 ∧ (t.map 3).width = 4 ∧ (∀ l ∈ [2, 3, 4, 5], t.tuned 1 l = true) ∧ (t.berthFor (t.map 3).next).isSome = true
    ∧ (∀ j < 8, j ≠ 3 → (t.map j).en = false) ∧ (∀ l ∈ [2, 3, 4, 5], BitVec.getLsbD (0x3C : BitVec 16) l = true) ∧ BitVec.getLsbD (0x1C : BitVec 16) 5 = false ∧ mapped.transit 10 = true
    ∧ ({ mapped with pwr := { mapped.pwr with off := true } } : State).transit 10 = false ∧ ((0, 3, StoreErr.uncorrectable) ∉ ({ data := [], errs := [] } : Light).errs)
    ∧ (let t := { mapped.tile 10 with arms := [⟨4, .nop, 0, 1, 2, some 7⟩] }; t.arms = [⟨4, .nop, 0, 1, 2, some 7⟩] ∧ t.worker.holds = [] ∧ (free).me.timed = false)
    ∧ (let s := { aqua with pwr := { aqua.pwr with lasersOut := [(0, 2000)] } }.modFeeder 2 fun x => { x with flying := [{ inject0 with t := 495 }] }
      (s.feeder 2).slot = some 3 ∧ (s.slot 3).run.live = true ∧ s.laserOut 2 = true ∧ (∃ y ∈ (s.feeder 2).flying, y.dark = false ∧ ((s.slot 3).run.vcyc - y.t).toNat < y.beats))
    ∧ ((withRun ({ · with live := false })).slot 3).run.live = false
    ∧ ([{ block0 with lost := true }].find? (·.id == 7) = some { block0 with lost := true })
    ∧ ([({ line := 9, issued := 3, slot := 3, retried := false, held := false } : WeightRead)].find? (·.line == 9)).isSome = true ∧ (524287 : Nat) < 2 ^ 19
    ∧ ((500 : BitVec 48) - 495).toNat < inject0.beats ∧ 2 / 16 = 0 := by decide +kernel
def greeted (s : State := base) : State := { s with pwr := { s.pwr with greeting := 1 } }
def flit0 : Flit := { bits := 77, look := [] }
/-- Tile 10's row in force sends its west input out to the east. -/
def routing (row : Nat) : State := (base).modTile 10 fun t => { t with phase := t.phase.set 0 [BitVec.ofNat 40 row], links := [⟨3, 0, flit0⟩] }
theorem met_TowpathEvents : (base).tileOk 10 = true ∧ ((base).tile 10).slot = some 3 ∧ ((base).slot 3).run.live = true ∧ (base).dead 10 = false
    ∧ (let s := greeted (routing (4 * 2 ^ 26))
      rowSrc (s.rowWord 10) 1 = 3 + 1 ∧ (s.tile 10).links.find? (fun l => l.due == 0 && l.inp.toNat == 3) = some ⟨3, 0, flit0⟩ ∧ s.neighbour 10 1 = some 11 ∧ (s.tile 11).slot = some 3
      ∧ s.holeAt 10 1 11 = false ∧ s.fenced 11 = false)
    ∧ rowRed ((routing (2 * 2 ^ 37 + 9 * 2 ^ 32 + 3 * 2 ^ 13 + 5 * 2 ^ 9)).rowWord 10) ≠ 0 ∧ ((base).tile 10).red = none ∧ ((base).tile 10).ejecting = []
    ∧ (let d : Word := BitVec.ofNat 64 (2 ^ 63 + 2 ^ 57 + 4 * 2 ^ 44 + 2 * 2 ^ 31 + 3 * 2 ^ 18 + 2 * 2 ^ 5)
      ejEn d = true ∧ (wind 3 5).valid = true ∧ (0 : Int) ≤ (ejBase d + ejNext d * ejStride d) * 64 ∧ ((ejBase d + ejNext d * ejStride d) * 64 : Int) + 64 ≤ (wind 3 5).size ∧ (wind 3 5).holder = 5
      ∧ (wind 3 2).holder ≠ 5 ∧ ejEn 0 = false) := by decide +kernel
def towed (x : Towline) : State := { base with towlines := [(3, { x with up := true })] }
def frame0 : Frame := { vstamp := 480, seq := 8, ackseq := 3, nack := false, rot := 16, crewTag := 0x21, resv := false, slots := [.static 1 5 flit0] }
theorem met_TowpathEvents_frames : ((towed { owner := some 3, retime := [⟨500, 1, flit0⟩, ⟨501, 1, flit0⟩] }).towline 3).owner = some 3 ∧ ((towed {}).towline 3).up = true
    ∧ ((towed {}).towline 3).replayQ = [] ∧ ((towed { replayQ := [5, 6] }).towline 3).replayQ = 5 :: [6] ∧ ((towed {}).towline 3).frameBad frame0 true = true
    ∧ ((towed { nacks := [7] }).towline 3).frameBad frame0 false = false ∧ (∀ m, FrameSlot.notice m ∉ frame0.slots) ∧ (base).slotOfCrew 0x21 = some 3 ∧ passed (480 + 5 + 30) 500 = false
    ∧ ([({ frame := frame0, sendings := 6 } : SentFrame)].find? (fun f => f.frame.seq == 8)).isSome = true ∧ 6 < 7 := by
  refine ⟨by decide +kernel, by decide +kernel, by decide +kernel, by decide +kernel, by decide +kernel, by decide +kernel, ?_, by decide +kernel, by decide +kernel, by decide +kernel, by decide⟩
  intro m h
  simp [frame0] at h
/-- The two directions of a towline: a step that ends now, ordinary or of a walk, and lanes weak, parked or dark. -/
def stepping (out : Bool) (l : DirLanes) : State := towed (if out then { outLanes := l } else { inLanes := l })
theorem met_TowpathEvents_lanes : ∀ out : Bool,
    ((stepping out { step := some 1000 }).towline 3).up = true ∧ (((stepping out { step := some 1000 }).towline 3).lanes out).step = some (stepping out {}).time
    ∧ (((stepping out {}).towline 3).lanes out).step ≠ some (stepping out {}).time
    ∧ (∀ l ∈ [({ step := some 1000, walkTo := some 0, goal := 16, rot := 16 } : DirLanes), { step := some 1000, walkTo := some 16, goal := 0, rot := 0, dark := [16] }],
      (((stepping out l).towline 3).lanes out) = l ∧ l.goal.toNat < 17 ∧ l.rot.toNat < 17 ∧ ∃ w < 17, l.walkTo = some w)
    ∧ ({ rot := 4, next := 4, goal := 4 } : DirLanes).rot.toNat = 4 ∧ ({ parked := some 9 } : DirLanes).parked.isSome = true ∧ (4 ∉ ([9] : List Nat)) := by decide +kernel
theorem met_TowpathEvents_hello : ((0 : BitVec 2) ≠ 3 ∧ (2 : BitVec 2).toNat % 2 = 0) ∧ (greeted).pwr.greeting = 1 ∧ (2 : BitVec 3).toNat ≤ 2 ∧ (base).tileOk 10 = true := by decide +kernel
/-- A packet with a turn to make at tile 10, whose neighbour to the east takes it. -/
theorem met_TowpathEvents_packets : let p := { packet0 with dstK := 1, turns := BitVec.ofNat 88 257, hops := 1 }
    let s := (greeted).modTile 10 fun t => { t with dyn := [{ inp := 4, due := 0, body := false, pkt := p }] }
    nextDir p = some 1 ∧ s.neighbour 10 1 = some 11 ∧ s.dead 10 = false ∧ (s.tile 10).outHolds = [] ∧ s.stopOf 10 p = none ∧ s.outOpen 10 1 = true
      ∧ ((3 : BitVec 3), (hopped p).ch) ∉ (s.tile 11).off := by decide +kernel
def tlb0 : TlbEntry := { asid := 5, page := 2 ^ 48 / 2 ^ 21, locked := false }
def req0 (k : ReqKind) : Req := { srcMod := 0, core := worker, tag := 9, asid := 5, gaddr := gaddr0, kind := k }
/-- Feeder 2 is home to the one page, which its interface hits. -/
def homed (s : State := base) : State := { s with lh := { s.lh with pages := [page0], ifaces := [{ iface := .feeder 2, l1 := [tlb0], l2 := [], walks := [] }] } }
def out0 : Outstanding := { tag := 9, gaddr := gaddr0, kind := .load 4 true, dst := some 6, sent := 900 }
def asking (os : List Outstanding) (ws : List (Wait × Bool) := []) : State := (homed).modCore worker fun c => { c with reqs := os, waits := ws }
theorem met_RemoteEvents : let s := homed
    s.feederOk 2 = true ∧ s.coreOk worker = true ∧ (s.iface (.feeder 2)).walks = [] ∧ (s.iface (.feeder 2)).hits 5 (gPage gaddr0) = true
    ∧ (0 : BitVec 8) = s.modNum.zeroExtend 8 ∧ s.tileOk 10 = true ∧ (s.core worker).visit = none ∧ s.pageOf 5 gaddr0 = some page0 ∧ gSpace gaddr0 = 1 ∧ pageHome page0 = 2
    ∧ (∀ k ∈ [ReqKind.load 4 true, .store 8 5], attrForbid page0 false k = false) ∧ page0.repl = false ∧ (req0 (.load 4 true)).copy = false ∧ s.migrationOf 5 gaddr0 = none ∧ s.poisonedSector (pageKey page0 512) 4 = none ∧ Memory.wf s.mem = true
    ∧ (let u := s.modFeeder 2 fun x => { x with berths := [{ page := pageInStack page0, holder := some (reqHolder (req0 (.btake false))), passage := none, views := [] }] }
      u.mayStorePage (reqHolder (req0 (.store 8 5))) page0 = true)
    ∧ s.mayStorePage (reqHolder (req0 (.store 8 5))) page0 = false ∧ ((base).iface (.feeder 2)).hits 5 (gPage gaddr0) = false ∧ s.halted = false
    ∧ ({ s with lh := { s.lh with phase := .halted } } : State).halted = true
    ∧ (let w := req0 (.load 8 true)
      let u := { s with lh := { s.lh with ifaces := [{ iface := .feeder 2, l1 := [tlb0], l2 := [], walks := [({ w with gaddr := gaddr0 + 2 ^ 22 }, false)] }], pages := [page0, { page0 with page := page0.page + 2 }] } }
      (u.iface (.feeder 2)).walking w = false ∧ (u.iface (.feeder 2)).hits 5 (gPage gaddr0) = true
      ∧ u.destOf (.feeder 2) { w with gaddr := gaddr0 + 2 ^ 22 } = u.destOf (.feeder 2) w ∧ (u.destOf (.feeder 2) w).isSome = true) := by decide +kernel
theorem met_RemoteEvents_answers : (∀ o ∈ ((base).core worker).reqs, o.tag ≠ 9)
    ∧ (let c := (asking [out0, { out0 with tag := 10 }]).core worker; c.reqs.find? (fun o => o.tag == 9) = some out0 ∧ c.waits = [] ∧ c.visit = none)
    ∧ (let c := (asking [out0] [(.rfence 4, true)]).core worker; c.reqs = [out0] ∧ out0.tag = 9 ∧ c.ops = [] ∧ c.traps = [] ∧ c.waits = [(.rfence 4, true)])
    ∧ 2 ^ 20 ≤ ((900 + 2 ^ 20 : Word) - out0.sent).toNat ∧ page0.pins = 0 ∧ pageHome page0 ≠ 7 := by decide +kernel
theorem met_RemoteEvents_freePage : ∃ i, ((homed).freePage 7).1 = some i := by
  rw [← Option.isSome_iff_exists, State.freePage, List.find?_isSome]
  refine ⟨_, List.mem_map.2 ⟨0, by simp [stackPages], rfl⟩, ?_⟩
  simp only [homed, State.freeBelow]
  simp [page0, stackPages]
  omega
def migr0 : Migration := { page := page0.page, oldF := 2, newF := 7, newPhys := 7 * 24576 + 1, copied := 4, step := 1, queued := [req0 (.load 4 true)], forwards := [] }
def migrating (m : Migration) : State := let s := homed; { s with lh := { s.lh with migrations := [m] } }
def stager0 : CoreRef := .tile 10 false
theorem met_RemoteEvents_ferry : (migrating migr0).migrationOf 5 gaddr0 = some migr0 ∧ migr0.step = 1 ∧ Memory.wf (migrating migr0).mem = true
    ∧ migr0.copied + 1 < 16384 ∧ 16384 ≤ ({ migr0 with copied := 16383 } : Migration).copied + 1
    ∧ (let m := { migr0 with step := 2 }; (migrating m).lh.migrations.find? (fun x => x.page == page0.page && x.step == 2) = some m ∧ (migrating m).feederOk m.newF = true ∧ page0.page < 2 ^ 43)
    ∧ (let s := (homed).modCore stager0 fun c => { c with reqs := [out0] }
      let c := s.core stager0
      c.timed = false ∧ c.run = .running ∧ c.visit = none ∧ c.reqs = [out0] ∧ (∀ p : PReg, (c.port p).opened = false) ∧ s.inPassage (s.asHolder stager0) = false)
    ∧ (let v : Visit := { feeder := 7, fcore := some 2, since := 5, leaving := true }
      let c := ((homed).modCore stager0 fun c => { c with visit := some v }).core stager0
      c.visit = some v ∧ v.leaving = true ∧ c.writesOut = false ∧ ({ c with reqs := [{ out0 with kind := .store 4 5 }] } : Core).writesOut = true)
    ∧ (∃ rx < 8, ∃ ry < 6, (base).slotAtReach rx ry = some 3) := by decide +kernel
def powered (f : Power → Power) : State := { base with pwr := f (base).pwr }
theorem met_PowerAndHeat : (base).sensorOk (.reach 0 0 1) = true ∧ (base).reachOk 0 0 = true ∧ (base).pwr.pwrEn = true ∧ (powered ({ · with pwrEn := false })).pwr.pwrEn = false
    ∧ (∀ k ∈ [1, 2, 3, 4], (powered ({ · with step := k })).pwr.step = k) ∧ (∀ g ∈ [0, 1, 2], let p := (powered ({ · with step := 5, greeting := g })).pwr; p.step = 5 ∧ p.greeting = g)
    ∧ 12499 < 12500 ∧ (base).reachesGood = true ∧ ((base).setReach 2 3 { (base).reach 2 3 with coreGood := false }).reachesGood = false ∧ (base).graded = base
    ∧ (base).pwr.off = false ∧ (powered ({ · with rails := { control := true } })).pwr.rails.control = true ∧ (base).halted = false
    ∧ (3, (base).slot 3) ∈ (base).lh.slots ∧ ((base).slot 3).counting = true ∧ (linked (base member0)).lineTo ((slot0.rec_.crew.extractLsb' 11 5).toNat) = some 3
    ∧ ((base).slot 3).rec_.state = .running ∧ (∀ x ∈ (base).lh.limitHeld, x.1 ≠ 3)
    ∧ (base).crewsAt (.reach 0 0 1) = [3] ∧ (3200 ≤ (base).lh.powerCap.toNat ∧ (base).lh.powerCap.toNat < 3201) ∧ 3040 * 100 ≤ (base).lh.powerCap.toNat * 95
    ∧ ((base).lh.powerCap.toNat * 90 ≤ 2880 * 100 ∧ 2879 * 100 < (base).lh.powerCap.toNat * 90) ∧ ((base).slot 3).holdsPlace = true ∧ Memory.wf (base).mem = true := by
  decide +kernel
theorem met_PowerAndHeat_warning : let s := base { slot0 with rec_ := { slot0.rec_ with allow := 3150 }, variants := [{ variant0 with cap := [5] }], run := { slot0.run with sel := some pick0 } }
    s.lh.powerCap.toNat * 95 < 3200 * 100 ∧ s.runningLow = [(3, s.slot 3)] ∧ (∃ e, (s.slot 3).currentEst = some e ∧ e < (s.slot 3).rec_.allow.toNat) :=
  ⟨by decide +kernel, by decide +kernel, ⟨700, by decide +kernel⟩⟩
theorem met_PowerAndHeat_rails : let s := { base with lh := { (base).lh with limitHeld := [(3, 500), (4, 600)], regrading := some (0, 2) } }
    s.lh.regrading = some (0, 2) ∧ (3, 500) ∈ s.lh.limitHeld ∧ (4, 600) ∈ s.lh.limitHeld
    ∧ ((withRun ({ · with holds := [⟨500, 0, [.limit], 1⟩], holdCount := 4 })).slot 3).run.vcyc = 500 ∧ ((withRun ({ · with holdCount := 4 })).slot 3).run.holdCount ≠ 0 ∧ ((base).slot 3).run.holdCount = 0
    ∧ (3, s.slot 3) ∈ s.lh.slots ∧ ((base).slot 3).run.wish = none ∧ ((base).slot 3).boundary = none ∧ ((base).slot 3).run.draw = none
    ∧ (∀ c ∈ [0, 7], let u := { s with worn := (c, 2) :: s.worn }; (∀ k < 8, k ≠ c → u.colBad k = false) ∧ u.gradeOf = some (0x0936, some c) ∧ s.retired ≠ some c) ∧ s.pwr.step ≠ 3 ∧ ((s.reach 0 0).converterOut = none)
    ∧ ((s.setReach 0 0 { s.reach 0 0 with converterOut := some false }).reach 0 0).converterOut = some (!true)
    ∧ 1560 < max 1280 (if 39 < 40 then 1556 + 10 else 0) ∧ ¬ 1560 < max 1280 (if 65 < 40 then 0 else 1556 - 5) := by decide +kernel
/-- A queue of port 1 with one completion to write. -/
def wait0 : Completion := { event := false, status := 3, qid := 9, cid := 8, result := 77, logaddr := 88, time := 99 }
def queue9 : Queue := { adminQueue 1 with qid := 9, port := 1, admin := false, depth := 2, inflight := 1, asid := 5, ring := 0x10000, size := 8, written := 3, cqhead := 1, waiting := [wait0] }
def queued (q : Queue := queue9) (s : State := base) : State := { s with lh := { s.lh with queues := s.lh.queues ++ [q] } }
theorem met_HostPortAndVote : votedOk .command = true ∧ (base).pwr.pwrEn = true ∧ ({ base with pwr := {} } : State).pwr.pwrEn = false
    ∧ (∃ k < 64, let off := k * 4096; off < 2 ^ 27 ∧ (queued).aperture 1 off = some queue9 ∧ off % 4096 = 0 ∧ (queued).aperture 1 (off + 64) = some queue9 ∧ (off + 64) % 4096 = 0x40)
    ∧ (List.replicate 64 (7 : Byte)).length = 64 ∧ queue9.inflight < queue9.depth ∧ (queued).lh.phase ≠ .halted ∧ ({ queue9 with inflight := 2 } : Queue).depth ≤ 2
    ∧ ((3 : BitVec 32) - queue9.cqhead).toNat ≤ (BitVec.ofNat 32 queue9.written - queue9.cqhead).toNat ∧ (BitVec.ofNat 32 queue9.written - queue9.cqhead).toNat < ((4 : BitVec 32) - queue9.cqhead).toNat
    ∧ (let s := { base with lh := { (base).lh with phase := .halted } }; s.lh.phase = .halted ∧ s.lh.spent = false) ∧ (1 : Word).getLsbD 0 = true
    ∧ ({ (base).lh with phase := .restarting } : Lockhouse).phase = .restarting ∧ ({ (base).lh with phase := .duplex } : Lockhouse).phase = .duplex := by decide +kernel
theorem met_HostPortAndVote_votes : (base).lh.phase = .triplex ∧ (base).liveCopies = [0, 1, 2]
    ∧ agreed (base).liveCopies (copyWord (some 5) (some 5) (some 6)) = some 5 ∧ (base).liveCopies.find? (fun i => copyWord (some 5) (some 5) (some 6) i ≠ some 5) = some 2
    ∧ (base).liveCopies.find? (fun i => copyWord (some 5) (some 5) (some 5) i ≠ some 5) = none ∧ agreed (base).liveCopies (copyWord (some 5) (some 7) (some 6)) = none
    ∧ agreed (base).liveCopies (copyWord (some 5) none none) = none ∧ (∀ i ∈ (base).liveCopies, (copyWord (some 5) (some 7) (some 6) i).isSome = true)
    ∧ (3, (base).slot 3) ∈ (base).lh.slots ∧ ((base).slot 3).modIdx = 0 ∧ ((base).slot 3).counting = true ∧ ((base { slot0 with ready := true }).slot 3).ready = true ∧ (base).timedMembers ((base).slot 3) ≠ []
    ∧ (queued).queue? 9 = some queue9 ∧ (∃ size ∈ [8], (queued).ringOf queue9 = some (0x10000, size) ∧ queue9.room size = true)
    ∧ ((queued).nextWaiting queue9).isSome = true ∧ Memory.wf (queued).mem = true := by decide +kernel
def cmd0 : HostCmd := { opc := 0, flags := 0, cid := 7, resv := 0, w1 := 0, w2 := 0, w3 := 0, w4 := 0, w5 := 0, w6 := 0, w7 := 0, qid := 1 }
def cmd (w1 w2 w3 w4 : Nat) (qid : Nat := 1) (flags : BitVec 8 := 0) : HostCmd :=
  { cmd0 with w1 := BitVec.ofNat 64 w1, w2 := BitVec.ofNat 64 w2, w3 := BitVec.ofNat 64 w3, w4 := BitVec.ofNat 64 w4, qid := qid, flags := flags }
def aq : Queue := { adminQueue 1 with qid := 9, port := 1, asid := 5 }
theorem met_QueueAndFlightCommands : ((queued).queueOf (cmd 0 0 0 0)).admin = true ∧ Memory.wf (queued).mem = true ∧ ((queued).queueOf (cmd 0 0 0 0 9)).admin = false
    ∧ malformedAt (cmd 7 0 0 9) 0 [[(0, 16)]] = some 32 ∧ malformedAt (cmd 4096 0 0 0) 0 [wholeWord] = none
    ∧ (let c := cmd (77 + 2 * 2 ^ 16 + 2 ^ 20 + 5 * 2 ^ 32) 0x20000 (64 + 8 * 2 ^ 16 + 3 * 2 ^ 32) 0
      malformedAt c 0 [[(0, 15), (16, 2), (20, 1), (32, 16)], wholeWord, [(0, 9), (16, 4), (32, 11)]] = none ∧ (queued).queue? 77 = none ∧ 64 + 64 ≤ 2 ^ 8 ∧ c.w2.toNat % 4096 = 0)
    ∧ malformedAt (cmd 9 0 0 0) 0 [[(0, 15)]] = none ∧ (queued).queue? 9 = some queue9 ∧ (4 ≤ 9 ∧ 9 ≠ (cmd 9 0 0 0).qid) ∧ malformedAt (cmd 3 0 0 0) 0 [[(0, 2)]] = none
    ∧ malformedAt (cmd 1600 0 0 0) 0 [[(0, 16)]] = none ∧ malformedAt (cmd 4096 1024 0 0) 0 [wholeWord, [(0, 11)]] = none ∧ malformedAt (cmd 4096 64 0 0) 0 [wholeWord, wholeWord] = none
    ∧ (∀ fl ∈ [0, 1], malformedAt (cmd 4096 80000 640000 1 1 fl) 1 [wholeWord, wholeWord, wholeWord, [(0, 16)]] = none) ∧ malformedAt (cmd 31 4096 0 0) 0 [[(0, 5)], wholeWord] = none
    ∧ (∃ x ∈ (base { slot0 with modules := 2 }).lh.slots, 1 < x.2.modules) ∧ (∀ x ∈ (base).lh.slots, x.2.modules ≤ 1)
    ∧ malformedAt (cmd 6143 1 4096 0) 0 [[(0, 13)], [(0, 14)], wholeWord] = none ∧ 6143 + 1 ≤ 8192 := by decide +kernel
theorem met_SpaceAndPoundCommands_spaces : ((queued).queueOf (cmd 0 0 0 0)).admin = true ∧ malformedAt (cmd 5 0 0 0) 0 aspaceFields = none ∧ (base).lh.aspaces = [((5 : BitVec 16), (0 : Word))] ∧ (5 : BitVec 16) ≠ 9
    ∧ malformedAt (cmd 5 1 0 0) 0 aspaceFields = none ∧ (∃ x ∈ (base).lh.slots, x.2.rec_.asid = 5)
    ∧ (let s := { base with lh := { (base).lh with slots := [] } }; (∀ x ∈ s.lh.slots, x.2.rec_.asid ≠ 5) ∧ ∀ x ∈ s.lh.saved, x.asid ≠ 5)
 := by decide +kernel
theorem met_SpaceAndPoundCommands_maps : (let c := cmd (2 ^ 48) 30 (2 + 2 ^ 32) 5
      let e : PageMap := { asid := 5, page := 2 ^ 27, phys := 30, write := true, atomic := false, repl := false, pins := 0 }
      malformedAt c 0 [wholeWord, wholeWord, [(0, 35)], [(0, 16)]] = none ∧ (base).pagesBad c.w1 2 = false ∧ (∀ k < 2, (base).mapRefusal (mapEntry e k) = none)
      ∧ (base).pagesBad 8 2 = true ∧ ((homed).mapRefusal { e with page := page0.page }).isSome = true)
    ∧ (let c := cmd (2 ^ 48) 0 1 5
      malformedAt c 0 [wholeWord, [], [(0, 32)], [(0, 16)]] = none ∧ (homed).pagesBad c.w1 1 = false ∧ (homed).lh.pages.find? (fun p => p.asid == 5 && p.page == gPage c.w1) = some page0 ∧ page0.pins = 0)
 := by decide +kernel
theorem met_SpaceAndPoundCommands_copies : (let c := { cmd 4096 0 40 0 9 with w2 := gaddr0 }
      let s := queued aq homed
      malformedAt c 0 [wholeWord, wholeWord, wholeWord] = none ∧ gMod c.w2 = s.modNum ∧ (s.queueOf c).asid = 5 ∧ s.copyRefused 5 true gaddr0 40 = none ∧ s.copyRefused 5 false gaddr0 40 = none
      ∧ s.pageOf 5 gaddr0 = some page0 ∧ gOff gaddr0 + 40 ≤ 2 ^ 21 ∧ s.migrationOf 5 gaddr0 = none ∧ s.poison = [] ∧ ((base).copyRefused 5 true gaddr0 40).isSome = true)
    ∧ gMod (BitVec.ofNat 64 (2 ^ 56) ||| gaddr0) ≠ (base).modNum ∧ Memory.wf (base).mem = true := by decide +kernel
def bounds : Nat := 0 + 0 * 2 ^ 8 + 17 * 2 ^ 16 + 9 * 2 ^ 24
def pound0 : Pound := let r := poundRect (BitVec.ofNat 64 bounds); { num := 4, x0 := r.1, y0 := r.2.1, x1 := r.2.2.1, y1 := r.2.2.2, state := .defined, cmd := none }
def pounded (p : Pound) : State := { base with lh := { (base).lh with pounds := [p] } }
theorem met_SpaceAndPoundCommands_pounds : malformedAt (cmd bounds 0 0 0) 0 poundFields = none ∧ pound0.x0 ≤ pound0.x1 ∧ pound0.y0 ≤ pound0.y1 ∧ pound0.x1 < (base).cols ∧ pound0.y1 < 192
    ∧ (base).lh.pounds.find? (fun p => relMeets p.rect pound0.rect) = none ∧ (List.range 16).find? (fun k => !(base).lh.pounds.any (·.num == k)) = some 0
    ∧ (∀ p ∈ [pound0, { pound0 with state := .fenced }, { pound0 with cmd := some (1, 5) }], (pounded p).lh.pounds.find? (fun x => x.rect == poundRect (BitVec.ofNat 64 bounds)) = some p)
    ∧ (∀ k ∈ [1, 2, 3], malformedAt (cmd bounds k 0 0) 0 poundFields = none)
    ∧ (let p := { pound0 with cmd := some (1, 5) }; (pounded p).lh.pounds.find? (fun p => p.num == 4 && p.state == .defined && p.cmd.isSome) = some p)
    ∧ (let p := { pound0 with state := .resetting, cmd := some (1, 5) }; (pounded p).lh.pounds.find? (fun p => p.num == 4 && p.state == .resetting) = some p)
 := by decide +kernel
theorem met_SpaceAndPoundCommands_fenced : (3, (base).slot 3) ∈ (base).lh.slots ∧ ((base).slot 3).holdsPlace = true ∧ ((base).slot 3).modIdx = 0
    ∧ ∃ t ∈ ((base).slot 3).tiles, pound0.x0 ≤ (base).xOf t ∧ (base).xOf t ≤ pound0.x1 ∧ pound0.y0 ≤ (base).yOf t ∧ (base).yOf t ≤ pound0.y1 := by decide +kernel
def saved1 : SavedCrew := { handle := 44, asid := 5, slot := { slot0 with rec_ := { slot0.rec_ with crew := 0x31 } } }
def keeping (y : SavedCrew := saved1) : State := let s := queued aq; { s with lh := { s.lh with saved := [y] } }
theorem met_CrewCommands : Memory.wf (keeping).mem = true ∧ malformedAt (cmd (2 ^ 48) (2 ^ 32 + 1) 0 0 9) 0 [wholeWord, wholeWord, optFields] = none ∧ malformedAt (cmd (2 ^ 48) 4096 0 0 9) 0 [wholeWord, wholeWord, optFields] = none
    ∧ 2 ^ 32 < (cmd (2 ^ 48) (2 ^ 32 + 1) 0 0 9).w2.toNat ∧ (cmd (2 ^ 48) 4095 0 0 9).w2.toNat % 8 ≠ 0 ∧ (cmd (2 ^ 48) (2 ^ 32) 0 0 9).w2.toNat % 8 = 0
    ∧ (3 ∈ modList 9 ∧ 3 ≠ (base).flight.toNat ∧ (linked).lineTo 3 = some 5) ∧ (linked (base member0)).lineTo ((slot0.rec_.crew.extractLsb' 11 5).toNat) = some 3 ∧ (cmd (2 ^ 48) (2 ^ 32) 0 0 9).w2.toNat ≤ 2 ^ 32 ∧ (keeping).freeSlot.isSome = true ∧ (keeping).freeLocal.isSome = true
    ∧ malformedAt (cmd 0x21 0 0 0 9) 0 [[(0, 16)]] = none ∧ (keeping).ownCrew (cmd 0x22 0 0 0 9) 0x22 = none ∧ (keeping).ownCrew (cmd 0x21 0 0 0 9) 0x21 = some 3
    ∧ ((keeping).slot 3).rec_.state = .running ∧ ((keeping).slot 3).modIdx = 0 ∧ ((keeping).slot 3).run.draw = none ∧ ((keeping).slot 3).run.stopped = false
    ∧ ((queued aq (base { slot0 with modIdx := 1 })).slot 3).modIdx ≠ 0 ∧ (let x := (queued aq (base { slot0 with rec_ := { slot0.rec_ with state := .preempted } })).slot 3; x.rec_.state = .preempted)
    ∧ malformedAt (cmd 0x21 4096 0 0 9) 0 [[(0, 16)], wholeWord] = none ∧ (keeping).ownSaved (cmd 44 0 0 0 9) 44 = some saved1 ∧ malformedAt (cmd 44 0 0 0 9) 0 [wholeWord, [], optFields] = none
    ∧ malformedAt (cmd 44 0 0 0 9) 0 [wholeWord] = none ∧ (keeping).slotOfCrew 0x31 = none
    ∧ (let y := { saved1 with slot := slot0 }; (keeping y).ownSaved (cmd 44 0 0 0 9) 44 = some y ∧ (keeping y).slotOfCrew y.slot.rec_.crew = some 3) := by decide +kernel
theorem met_BranchesAndTheirDelays_transfers : let s := withG 3 0x1000
    (s.g 3).toNat % 8 = 0 ∧ (s.g 3).toNat < 2 ^ 19 ∧ s.checked = true ∧ isTransfer (.jmpLink 4 3) = true ∧ (0x07 * 2 ^ 52 + 3 * 2 ^ 47 + 0xFFFF : Nat) < 2 ^ 64 := by decide +kernel
/-! ### Statements whose one hypothesis is that the word enters -/

theorem met_ArithmeticResults : st.Enters (.add 3 1 2) ∧ (unchecked).Enters (.addx 3 1 2 7) := ⟨.inl rfl, .inr (by decide +kernel)⟩
theorem met_LogicShiftAndFieldResults : st.Enters (.clz 3 1) ∧ (unchecked).Enters (.popc 3 1) := ⟨.inl rfl, .inr (by decide +kernel)⟩
theorem met_CompareSelectAndPredicateResults : st.Enters (.kmovToK 3 1) ∧ (unchecked).Enters (.kmovToK 7 1) := ⟨.inl rfl, .inr (by decide +kernel)⟩
theorem met_IntegerLaneArithmetic : st.Enters (.vadd .i true 3 1 2 (.reg 3) 0) ∧ (unchecked).Enters (.vadd .u false 0 1 2 (.reg 3) 7) := ⟨.inl rfl, .inr (by decide +kernel)⟩
theorem met_LaneLogicMovesAndCompares : st.Enters (.vmov 3 1 2 0) ∧ (unchecked).Enters (.vcomp 3 1 2 3 0) := ⟨.inl rfl, .inr (by decide +kernel)⟩
theorem met_FloatLaneArithmetic : st.Enters (.vadd .f false 3 1 2 (.reg 3) 0) ∧ (unchecked).Enters (.vadd .f false 0 1 2 (.reg 3) 0) := ⟨.inl rfl, .inr (by decide +kernel)⟩
theorem met_ConversionsAndSpecialFunctions : st.Enters (.vcvt .dm8 .fp32 0 2 1 0) ∧ (unchecked).Enters (.vcvt .i8 .fp32 3 2 1 0) := ⟨.inl rfl, .inr (by decide +kernel)⟩
theorem met_ReductionsScansAndArgmax : st.Enters (.vargmax .i 3 1 2 0) ∧ (unchecked).Enters (.vredadd .u true 0 1 2 0) := ⟨.inl rfl, .inr (by decide +kernel)⟩
end Sys2Proof.Tests
end

/-! SUPPORT. Division and the transfer words (spec 13 R305 to R310, R322): what each does behind its checks of issue, and the statements on them. -/

namespace Sys2Proof.Machine

/-! ### The meaning of each word that divides or transfers -/

theorem exec_div (d a b : Reg) (s : State) : exec (.div d a b) s = execDiv d a b s := rfl
theorem exec_divu (d a b : Reg) (s : State) : exec (.divu d a b) s = execDivu d a b s := rfl
theorem exec_rem (d a b : Reg) (s : State) : exec (.rem d a b) s = execRem d a b s := rfl
theorem exec_remu (d a b : Reg) (s : State) : exec (.remu d a b) s = execRemu d a b s := rfl
theorem exec_bra (tgt : BitVec 16) (s : State) : exec (.bra tgt) s = execBra tgt s := rfl
theorem exec_bcc (c : BccCond) (a b : Reg) (tgt : BitVec 16) (s : State) : exec (.bcc c a b tgt) s = execBcc c a b tgt s := rfl
theorem exec_bpr (c : BprCond) (k : KReg) (tgt : BitVec 16) (s : State) : exec (.bpr c k tgt) s = execBpr c k tgt s := rfl
theorem exec_jmp (a : Reg) (s : State) : exec (.jmp a) s = execJmp a s := rfl
theorem exec_jmpLink (d a : Reg) (s : State) : exec (.jmpLink d a) s = execJmpLink d a s := rfl
theorem exec_call (a : Reg) (tgt : BitVec 16) (s : State) : exec (.call a tgt) s = execCall a tgt s := rfl
theorem exec_ret (a : Reg) (s : State) : exec (.ret a) s = execRet a s := rfl
theorem exec_loop (a : Reg) (tgt : BitVec 16) (s : State) : exec (.loop a tgt) s = execLoop a tgt s := rfl
theorem exec_loops (p : PReg) (dim : BitVec 4) (tgt : BitVec 16) (s : State) : exec (.loops p dim tgt) s = execLoops p dim tgt s := rfl
theorem exec_eret (s : State) : exec .eret s = execEret s := rfl

/-! ### Division (R322) -/

/-- The word made of the integer quotient wraps where that is no word's value, so that -2^63 by -1 gives -2^63 (R322). -/
theorem valDiv_eq_tdiv (a : Word) {b : Word} (h : b ≠ 0) : valDiv a b = BitVec.ofInt 64 (a.toInt.tdiv b.toInt) := by
  rw [valDiv, if_neg h]
  exact BitVec.eq_of_toInt_eq (by rw [BitVec.toInt_sdiv, BitVec.toInt_ofInt])

theorem valDivu_eq_div (a : Word) {b : Word} (h : b ≠ 0) : valDivu a b = BitVec.ofNat 64 (a.toNat / b.toNat) := by
  rw [valDivu, if_neg h, BitVec.udiv_eq, BitVec.udiv_def]

theorem valRem_eq_tmod (a : Word) {b : Word} (h : b ≠ 0) : valRem a b = BitVec.ofInt 64 (a.toInt.tmod b.toInt) := by
  rw [valRem, if_neg h, ← BitVec.toInt_srem, BitVec.ofInt_toInt]

theorem valRemu_eq_mod (a : Word) {b : Word} (h : b ≠ 0) : valRemu a b = BitVec.ofNat 64 (a.toNat % b.toNat) := by
  rw [valRemu, if_neg h, BitVec.umod_eq, BitVec.umod_def]

@[simp] theorem valDiv_zero (a : Word) : valDiv a 0 = BitVec.ofInt 64 (-1) := rfl
@[simp] theorem valDivu_zero (a : Word) : valDivu a 0 = BitVec.ofNat 64 (2 ^ 64 - 1) := rfl
@[simp] theorem valRem_zero (a : Word) : valRem a 0 = a := rfl
@[simp] theorem valRemu_zero (a : Word) : valRemu a 0 = a := rfl

/-- A division by 0 puts its value and DZ under way together. -/
theorem runs_division_of_zero {i : Instr} {s : State} {d b : Reg} {f : State → Word} {v : Word} (e : exec i s = division i s d b f)
    (hb : s.g b = 0) (hv : f s = v) : Runs i s ((s.laterG 18 d v).later 18 (.flags 0x08)) :=
  runs_guarded e (by rw [hb, hv]; rfl)

/-- A division by another divisor puts its value under way and no flag. -/
theorem runs_division_of_ne_zero {i : Instr} {s : State} {d b : Reg} {f : State → Word} {v : Word} (e : exec i s = division i s d b f)
    (hb : s.g b ≠ 0) (hv : f s = v) : Runs i s (s.laterG 18 d v) :=
  runs_guarded e (by rw [divFlags, if_neg hb, hv]; rfl)

/-- Settles O17: a division by 0 and one by another divisor differ in their flags, and each of the four has its value in either case. -/
theorem divisionResults : Obligations.DivisionResults := by
  intro s d a b
  constructor
  · intro hb
    exact ⟨runs_division_of_zero (exec_div ..) hb (by rw [hb, valDiv_zero]), runs_division_of_zero (exec_divu ..) hb (by rw [hb, valDivu_zero]),
      runs_division_of_zero (exec_rem ..) hb (by rw [hb, valRem_zero]), runs_division_of_zero (exec_remu ..) hb (by rw [hb, valRemu_zero])⟩
  · intro hb
    exact ⟨runs_division_of_ne_zero (exec_div ..) hb (valDiv_eq_tdiv _ hb), runs_division_of_ne_zero (exec_divu ..) hb (valDivu_eq_div _ hb),
      runs_division_of_ne_zero (exec_rem ..) hb (valRem_eq_tmod _ hb), runs_division_of_ne_zero (exec_remu ..) hb (valRemu_eq_mod _ hb)⟩

/-! ### Transfer words (R305 to R310) -/

theorem transfer_true (s : State) (tgt : BitVec 16) :
    s.transfer true tgt = s.modMe fun c => { c with branch := some { target := tgt, due := 2 }, delayDue := 2 } := rfl

theorem transfer_false (s : State) (tgt : BitVec 16) : s.transfer false tgt = s.modMe fun c => { c with delayDue := 2 } := rfl

/-- Taken or not, a transfer word has its two delay bundles to come. -/
theorem delayDue_transfer (s : State) (taken : Bool) (tgt : BitVec 16) : (s.transfer taken tgt).me.delayDue = 2 := by
  cases taken
  · simp [transfer_false]
  · simp [transfer_true]

/-- A word whose check of issue fails by its form or by the core's state takes ILLEGAL at its own address. -/
theorem wordFault_of_illegal {s : State} {r : CoreRef} {i : Instr} (h : i.wf = false ∨ s.illegal r i = true) :
    s.wordFault r i = some (0x01, BitVec.ofNat 64 s.wordAt) := by
  unfold State.wordFault
  rw [if_pos (by simpa using h)]
  rfl

/-! ### LOOP (R309) -/

theorem runs_loop_taken {s : State} {a : Reg} (tgt : BitVec 16) (h : 2 ≤ (s.g a).toNat) :
    Runs (.loop a tgt) s ((s.laterG 1 a (BitVec.ofNat 64 ((s.g a).toNat - 1))).transfer true tgt) := by
  have hsub : s.g a - 1 = BitVec.ofNat 64 ((s.g a).toNat - 1) := by bv_omega
  exact runs_guarded (exec_loop ..) (by rw [if_pos h, hsub])

theorem runs_loop_done {s : State} {a : Reg} (tgt : BitVec 16) (h : (s.g a).toNat < 2) :
    Runs (.loop a tgt) s ((s.laterG 1 a 0).transfer false tgt) :=
  runs_guarded (exec_loop ..) (if_neg (Nat.not_le.mpr h))

/-- What LOOP does at its entry has its two delay bundles to come at either count. -/
theorem delayDue_loop (s : State) (a : Reg) (tgt : BitVec 16) :
    (if 2 ≤ (s.g a).toNat then (s.laterG 1 a (s.g a - 1)).transfer true tgt
      else (s.laterG 1 a 0).transfer false tgt).me.delayDue = 2 := by
  split
  · exact delayDue_transfer ..
  · exact delayDue_transfer ..

/-- Fields joined are numbers in places: the high part counts by the width of the low one. -/
theorem toNat_append_eq_add {n m : Nat} (x : BitVec n) (y : BitVec m) : (x ++ y).toNat = x.toNat * 2 ^ m + y.toNat := by
  rw [BitVec.toNat_append, ← Nat.shiftLeft_add_eq_or_of_lt y.isLt, Nat.shiftLeft_eq]

/-- The word of LOOP, as a number: OP, A and TGT in their places and nothing else. -/
theorem encode_loop (a : Reg) (tgt : BitVec 16) :
    encode false 0 (.loop a tgt) = some (BitVec.ofNat 64 (0x07 * 2 ^ 52 + a.toNat * 2 ^ 47 + tgt.toNat)) := by
  refine congrArg some (BitVec.eq_of_toNat_eq ?_)
  simp only [boolBit, joinB, toNat_append_eq_add, BitVec.ofNat_eq_ofNat, BitVec.toNat_ofNat, Bool.false_eq_true, if_false, Nat.zero_mod]
  omega

/-- Settles O24: by the two rules of LOOP, the check of its operand, and the round trip of its encoding. -/
theorem loopCountsDown : Obligations.LoopCountsDown := by
  intro s a tgt
  refine ⟨runs_loop_taken tgt, runs_loop_done tgt, fun hc => ?_, fun ha => ?_⟩
  · exact (exec_loop ..).trans (guarded_of_fault _ hc (wordFault_of_illegal (.inl rfl)))
  · exact Laws.RoundTrip.loop a tgt (by simpa [Instr.wf] using ha) _ _ _ (encode_loop a tgt) fun _ => rfl

/-! ### Branches and their delay bundles (R305 to R308, R310) -/

/-- What a transfer word does: it branches when `taken` holds, and has its two delay bundles either way. -/
def Transfers (s : State) (tgt : BitVec 16) (taken : Prop) (t : State) : Prop :=
  (taken → t = s.modMe fun c => { c with branch := some { target := tgt, due := 2 }, delayDue := 2 })
  ∧ (¬ taken → t = s.modMe fun c => { c with delayDue := 2 })

theorem transfers_transfer {s : State} {tgt : BitVec 16} {b : Bool} {taken : Prop} (h : b = true ↔ taken) :
    Transfers s tgt taken (s.transfer b tgt) := by
  cases b
  · exact ⟨fun k => absurd (h.mpr k) (by decide), fun _ => transfer_false s tgt⟩
  · exact ⟨fun _ => transfer_true s tgt, fun k => absurd (h.mp rfl) k⟩

/-- A transfer word branches exactly when its condition, read at entry, holds. -/
theorem runsTo_transfer {i : Instr} {s : State} {tgt : BitVec 16} {f : State → Bool} {taken : Prop}
    (e : exec i s = guarded i s fun s => s.transfer (f s) tgt) (h : f s = true ↔ taken) : RunsTo i s (Transfers s tgt taken) :=
  runsTo_guarded e (transfers_transfer h)

/-- The comparison that a BCC names (R307). -/
def bccMeans (c : BccCond) (a b : Word) : Prop :=
  match c with
  | .eq => a = b
  | .ne => a ≠ b
  | .lt => a.toInt < b.toInt
  | .ge => b.toInt ≤ a.toInt
  | .ltu => a.toNat < b.toNat
  | .geu => b.toNat ≤ a.toNat

theorem bccHolds_iff (c : BccCond) (a b : Word) : bccHolds c a b = true ↔ bccMeans c a b := by
  cases c <;> simp [bccHolds, bccMeans, BitVec.slt_eq_decide, BitVec.ult_eq_decide]

/-- The test of all 64 bits that a BPR names (R307). -/
def bprMeans (c : BprCond) (k : Word) : Prop :=
  match c with
  | .any => ∃ i < 64, k.getLsbD i = true
  | .none => ∀ i < 64, k.getLsbD i = false
  | .all => ∀ i < 64, k.getLsbD i = true
  | .nall => ∃ i < 64, k.getLsbD i = false

theorem eq_zero_iff_getLsbD (k : Word) : k = 0 ↔ ∀ i < 64, k.getLsbD i = false :=
  ⟨fun h => by simp [h], fun h => BitVec.eq_of_getLsbD_eq fun i hi => (h i hi).trans BitVec.getLsbD_zero.symm⟩

theorem eq_allOnes_iff_getLsbD (k : Word) : k = BitVec.allOnes 64 ↔ ∀ i < 64, k.getLsbD i = true :=
  ⟨fun h i hi => by rw [h, BitVec.getLsbD_allOnes, decide_eq_true hi],
    fun h => BitVec.eq_of_getLsbD_eq fun i hi => by rw [h i hi, BitVec.getLsbD_allOnes, decide_eq_true hi]⟩

theorem bprHolds_iff (c : BprCond) (k : Word) : bprHolds c k = true ↔ bprMeans c k := by
  cases c
  case any =>
    rw [bprHolds, bne_iff_ne, ne_eq, eq_zero_iff_getLsbD]
    simp [bprMeans]
  case none => rw [bprHolds, beq_iff_eq, eq_zero_iff_getLsbD, bprMeans]
  case all => rw [bprHolds, beq_iff_eq, eq_allOnes_iff_getLsbD, bprMeans]
  case nall =>
    rw [bprHolds, bne_iff_ne, ne_eq, eq_allOnes_iff_getLsbD]
    simp [bprMeans]

theorem runsTo_bra (tgt : BitVec 16) (s : State) : RunsTo (.bra tgt) s (Transfers s tgt True) :=
  runsTo_transfer (exec_bra ..) (iff_of_true rfl trivial)

theorem runsTo_bcc (c : BccCond) (a b : Reg) (tgt : BitVec 16) (s : State) :
    RunsTo (.bcc c a b tgt) s (Transfers s tgt (bccMeans c (s.g a) (s.g b))) :=
  runsTo_transfer (exec_bcc ..) (bccHolds_iff c _ _)

theorem runsTo_bpr (c : BprCond) (k : KReg) (tgt : BitVec 16) (s : State) :
    RunsTo (.bpr c k tgt) s (Transfers s tgt (bprMeans c (s.k k))) :=
  runsTo_transfer (exec_bpr ..) (bprHolds_iff c _)

/-- k0 reads as all ones, so BPR.any k0 always branches. -/
theorem runsTo_bpr_any_zero (tgt : BitVec 16) (s : State) : RunsTo (.bpr .any 0 tgt) s (Transfers s tgt True) :=
  runsTo_transfer (exec_bpr ..) (by simp [bprHolds, State.k, Core.readK])

theorem runsTo_loops (p : PReg) (dim : BitVec 4) (tgt : BitVec 16) (s : State) :
    RunsTo (.loops p dim tgt) s (Transfers s tgt ((s.me.port p).flags.getLsbD dim.toNat = false)) :=
  runsTo_transfer (exec_loops ..) (by simp)

theorem jumpFault_eq_none {t : Word} (h8 : t.toNat % 8 = 0) (hlt : t.toNat < 2 ^ 19) : jumpFault t = none := by
  rw [jumpFault, if_neg (by simpa using h8), if_neg (by simpa [Config.storeSize] using hlt)]

theorem delayDue_jumpTo {s : State} {t : Word} {link : Option Reg} (h : jumpFault t = none) : (s.jumpTo t link).me.delayDue = 2 := by
  unfold State.jumpTo
  rw [h]
  exact delayDue_transfer ..

theorem Core.pass_branchTo (c : Core) (tgt : BitVec 16) (n : Nat) :
    (c.branchTo tgt).pass n = { c with issued := c.issued + n, pc := c.pc + BitVec.ofNat 17 n, branch := some ⟨tgt, 1⟩, delayDue := 1 } := rfl

theorem Core.pass_pass_branchTo (c : Core) (tgt : BitVec 16) (n m : Nat) :
    ((c.branchTo tgt).pass n).pass m = { c with issued := c.issued + n + m, pc := tgt.zeroExtend 17, branch := none, delayDue := 0 } := rfl

theorem Core.pass_of_branch_none {c : Core} (h : c.branch = none) (n : Nat) :
    c.pass n = { c with issued := c.issued + n, pc := c.pc + BitVec.ofNat 17 n, delayDue := c.delayDue - 1 } := by
  simp [Core.pass, h]

/-- Every transfer word, and ERET, stands behind the checks of issue. -/
theorem exec_eq_guarded_of_isTransfer {i : Instr} (h : isTransfer i = true) (s : State) : ∃ f, exec i s = guarded i s f := by
  cases i with
  | bra => exact ⟨_, exec_bra ..⟩
  | bcc => exact ⟨_, exec_bcc ..⟩
  | bpr => exact ⟨_, exec_bpr ..⟩
  | jmp => exact ⟨_, exec_jmp ..⟩
  | jmpLink => exact ⟨_, exec_jmpLink ..⟩
  | call => exact ⟨_, exec_call ..⟩
  | ret => exact ⟨_, exec_ret ..⟩
  | loop => exact ⟨_, exec_loop ..⟩
  | loops => exact ⟨_, exec_loops ..⟩
  | eret => exact ⟨_, exec_eret ..⟩
  | _ => cases h

theorem illegal_of_delayDue {s : State} {r : CoreRef} {i : Instr} (h : isTransfer i = true) (hd : (s.core r).delayDue ≠ 0) :
    s.illegal r i = true := by
  unfold State.illegal
  have hdelay : (isTransfer i && decide ((s.core r).delayDue ≠ 0)) = true := by simp [h, hd]
  exact Bool.or_eq_true_iff.mpr (.inl (Bool.or_eq_true_iff.mpr (.inr hdelay)))

/-- Every transfer word has its two delay bundles, taken or not, and whether or not it writes a link. -/
theorem delayDue_of_transferWord {s : State} {a : Reg} (h8 : (s.g a).toNat % 8 = 0) (hlt : (s.g a).toNat < 2 ^ 19)
    (b d : Reg) (k : KReg) (p : PReg) (dim : BitVec 4) (tgt : BitVec 16) (cond : BccCond) (test : BprCond) :
    ∀ i ∈ [Instr.bra tgt, .bcc cond a b tgt, .bpr test k tgt, .jmp a, .jmpLink d a, .call a tgt, .ret a, .loop a tgt, .loops p dim tgt],
      RunsTo i s fun t => t.me.delayDue = 2 := by
  have hjump (link : Option Reg) : (s.jumpTo (s.g a) link).me.delayDue = 2 := delayDue_jumpTo (jumpFault_eq_none h8 hlt)
  simp only [List.forall_mem_cons, List.not_mem_nil, false_imp_iff, implies_true, and_true]
  exact ⟨runsTo_guarded (exec_bra ..) (delayDue_transfer ..), runsTo_guarded (exec_bcc ..) (delayDue_transfer ..),
    runsTo_guarded (exec_bpr ..) (delayDue_transfer ..), runsTo_guarded (exec_jmp ..) (hjump _), runsTo_guarded (exec_jmpLink ..) (hjump _),
    runsTo_guarded (exec_call ..) (delayDue_transfer ..), runsTo_guarded (exec_ret ..) (hjump _),
    runsTo_guarded (exec_loop ..) (delayDue_loop ..), runsTo_guarded (exec_loops ..) (delayDue_transfer ..)⟩

/-- A transfer word or an ERET in a delay bundle is ILLEGAL. -/
theorem exec_transfer_in_delay {i : Instr} {s : State} (h : isTransfer i = true) (hc : s.checked = false) (hd : s.me.delayDue ≠ 0) :
    exec i s = .next (s.raise 0x01 (BitVec.ofNat 64 s.wordAt)) := by
  obtain ⟨f, hf⟩ := exec_eq_guarded_of_isTransfer h s
  exact hf.trans (guarded_of_fault f hc (wordFault_of_illegal (.inr (illegal_of_delayDue h hd))))

/-- Settles O25: each branch by the condition it reads, the core past its delay bundles by the two passes, and the check of issue by R305. -/
theorem branchesAndTheirDelays : Obligations.BranchesAndTheirDelays := by
  refine ⟨fun s a b k p dim tgt => ?_, fun c tgt n m => ?_, fun _ _ => exec_transfer_in_delay⟩
  · exact ⟨runsTo_bra tgt s, runsTo_bcc .eq a b tgt s, runsTo_bcc .ne a b tgt s, runsTo_bcc .lt a b tgt s, runsTo_bcc .ge a b tgt s,
      runsTo_bcc .ltu a b tgt s, runsTo_bcc .geu a b tgt s, runsTo_bpr .any k tgt s, runsTo_bpr .none k tgt s, runsTo_bpr .all k tgt s,
      runsTo_bpr .nall k tgt s, runsTo_bpr_any_zero tgt s, runsTo_loops p dim tgt s,
      fun d cond test h8 hlt => delayDue_of_transferWord h8 hlt b d k p dim tgt cond test⟩
  · rw [Core.pass_pass_branchTo, Core.pass_branchTo]
    refine ⟨rfl, rfl, rfl, rfl, rfl, fun h => ?_⟩
    have hn : c.noBranch.branch = none := h
    have hstep := Core.pass_of_branch_none hn n
    have hstill : (c.noBranch.pass n).branch = none := by rw [hstep, hn]
    exact ⟨by rw [Core.pass_of_branch_none hstill, hstep]; rfl, by rw [hstep]; rfl⟩

end Sys2Proof.Machine
